-- ==== Sys2Proof/Word.lean ====
section
/-! DEFINITION. The word types of the JV4180's wires and counters (00_scope.md, "Conventions"). -/

namespace Sys2Proof

/-- One byte of a control frame, of a screen link packet or of a pixel. -/
abbrev Byte := BitVec 8

/-- The 16-bit counters, stamps and present numbers. -/
abbrev Half := BitVec 16

/-- The signature of a tile (R193). -/
abbrev Signature := BitVec 32

/-- The identity a screen controller gives in HELLO (R37). -/
abbrev Identity := BitVec 48

/-- A 10-bit ambient light reading (R154). -/
abbrev Reading := BitVec 10

end Sys2Proof
end

