-- ==== Sys2Proof/Config.lean ====
section
/-! DEFINITION. What one part fixes: the capacities and times the manual states, where the regions of the stacked
DRAM lie (DESIGN CHOICE, log 5), and the one free value of the model (log 4). -/

namespace Sys2Proof.Config

/-- R40: entries of the directory pool. -/
def poolEntries : Nat := 8192

/-- R159, R165: capacities of a port's queues. -/
def inputCapacity : Nat := 4
def replyCapacity : Nat := 8
def noticeCapacity : Nat := 32

/-- R90: non-Free buffers one link may hold. -/
def linkBufferLimit : Nat := 16

/-- R106: check failures that make a rate fallback. R104: failures that make a screen Lost. -/
def checkFailureLimit : Nat := 16
def failureLimit : Nat := 8

/-- The lengths of the timers, in ticks of the time base (R63). -/
def silenceTicks : Nat := 100
def gapTicks : Nat := 2
def replyTicks : Nat := 4
def showTicks : Nat := 100
def holdTicks : Nat := 1
def attemptTicks : Nat := 5
def retryTicks : Nat := 500
def rollTicks : Nat := 2
def linkSilenceTicks : Nat := 20
def pollTicks : Nat := 2
def lostPollTicks : Nat := 100
def startingTicks : Nat := 20
def conversionTicks : Nat := 2

/-- Periods of the periodic work, in ticks (R151, R154, R105). -/
def levelPeriod : Nat := 10
def conversionPeriod : Nat := 100
def windowPeriod : Nat := 1000

/-- Sizes of a tile and of the regions of the stacked DRAM (R3, R21, R88), in bytes. -/
def tileBytes : Nat := 4800
def slotBytes : Nat := 11059200
def copyBytes : Nat := 307200

/-- DESIGN CHOICE (log 5): the six slot regions lie first, then the plate copies, then the buffers' tile copies. -/
def slotBase (surface slot : Nat) : Nat := (surface * 3 + slot) * slotBytes
def copyBase (plate copy : Nat) : Nat := 6 * slotBytes + (plate * 2 + copy) * copyBytes
def bufferBase (buffer : Nat) : Nat := 6 * slotBytes + 32 * copyBytes + buffer * tileBytes

/-- Free value (log 4): the result of a light conversion whose CONVERSION_END the sender never gave. Nothing
constrains it. -/
opaque lightSample : Nat → Reading

end Sys2Proof.Config
end

