-- ==== Sys2Proof/Syntax.lean ====
section
/-! DEFINITION. The commands of the hub: one constructor of `Instr` per row of spec/opcode_table.json. Requests carry
their port, their tag and the raw bytes of their fields, in the order of their catalogue entries (chapter 10). -/

namespace Sys2Proof

/-- R159: the two control ports. -/
inductive Port where
  | a
  | b
  deriving DecidableEq, Repr, Inhabited

/-- R174: a colour, and a pixel (00_scope.md, "Pixels and tiles"): red, green, blue. -/
structure Colour where
  red : Byte
  green : Byte
  blue : Byte
  deriving DecidableEq, Repr, Inhabited

/-- R107: the rates of a screen link: 6, 3 and 1.5 Gbit/s. -/
inductive LinkRate where
  | six
  | three
  | oneHalf
  deriving DecidableEq, Repr, Inhabited

/-- R190: the seven bytes of a view, as a frame carries them. -/
structure RawView where
  source : Byte
  originColumn : Byte
  originRow : Byte
  columns : Byte
  rows : Byte
  placeColumn : Byte
  placeRow : Byte
  deriving DecidableEq, Repr, Inhabited

/-- R183: one point of a CURVE-SET, as the frame carries it. -/
structure RawPoint where
  reading : Half
  level : Byte
  deriving DecidableEq, Repr, Inhabited

/-- R162: the faults that the row LINE_ERROR names; a gap is GAP_TIMER_EXPIRY and a header mismatch PLATE_DATA. -/
inductive LineFault where
  | framing
  | length
  | crc
  deriving DecidableEq, Repr, Inhabited

/-- The commands, in the order of spec/opcode_table.json. A `Fin 2` after a link is an address row: 0 is address 1,
1 is address 2. An upstream packet carries the address byte of its sender (R194). -/
inductive Instr where
  | powerOn (a1 a2 b1 b2 : Bool)
  | startingEnd
  | timeBaseTick
  | frameStart (input : Fin 2)
  | line (input : Fin 2) (pixels : List Colour)
  | frameEnd (input : Fin 2)
  | silenceTimerExpiry (input : Fin 2)
  | frameArrival (port : Port) (kind tag : Byte) (body : List Byte)
  | lineError (port : Port) (fault : LineFault)
  | gapTimerExpiry (port : Port)
  | controlFrameTransmitted (port : Port)
  | badKind (port : Port) (kind tag : Byte)
  | hubAsk (port : Port) (tag : Byte)
  | hubReset (port : Port) (tag : Byte)
  | lineSet (port : Port) (tag rate : Byte)
  | noticeSet (port : Port) (tag : Byte) (kinds : Half)
  | inputSetEnable (port : Port) (tag input columns rows : Byte)
  | inputSetDisable (port : Port) (tag input columns rows : Byte)
  | inputAsk (port : Port) (tag input : Byte)
  | plateOpen (port : Port) (tag plate columns rows : Byte)
  | plateData (port : Port) (tag plate tile headerCheck : Byte)
  | plateDataEnd (port : Port) (lastCheckByte : Byte)
  | plateCommit (port : Port) (tag plate : Byte)
  | commitDone (plate : Fin 16)
  | plateDrop (port : Port) (tag plate : Byte)
  | plateAsk (port : Port) (tag plate : Byte)
  | screenBind (port : Port) (tag screen link : Byte) (identity : Identity) (columns rows : Byte) (fill : Colour)
  | screenUnbind (port : Port) (tag screen : Byte)
  | screenAsk (port : Port) (tag screen : Byte)
  | layoutSet (port : Port) (tag screen stampPresent : Byte) (stamp : Half) (views : List RawView)
  | fillSet (port : Port) (tag screen : Byte) (fill : Colour)
  | paceSetScreen (port : Port) (tag screen : Byte) (pace : Half)
  | paceSetGroup (port : Port) (tag group : Byte) (pace : Half)
  | groupSet (port : Port) (tag screen groupPresent group : Byte)
  | claim (port : Port) (tag screen : Byte)
  | yieldScreen (port : Port) (tag screen : Byte)
  | seize (port : Port) (tag screen : Byte) (views : List RawView)
  | returnScreen (port : Port) (tag screen : Byte)
  | linkSetEnable (port : Port) (tag link cap wakeMode autoWake warmUp : Byte)
  | linkSetDisable (port : Port) (tag link cap wakeMode autoWake warmUp : Byte)
  | linkReset (port : Port) (tag link : Byte)
  | linkPark (port : Port) (tag link : Byte)
  | linkWake (port : Port) (tag link : Byte)
  | linkAsk (port : Port) (tag link : Byte)
  | levelSet (port : Port) (tag screen mode target step input curve : Byte)
  | curveSet (port : Port) (tag curve : Byte) (points : List RawPoint)
  | lightAsk (port : Port) (tag : Byte)
  | paceGateOpens (screen : Fin 8)
  | groupPaceGateOpens (group : Fin 4)
  | cycleStart (screen : Fin 8)
  | jointStart (group : Fin 4)
  | bufferGrant
  | loadEnd (buffer : Fin 32)
  | tileTransmitted (link : Fin 6)
  | showTransmitted (link : Fin 6)
  | rollTransmitted (link : Fin 6)
  | pollTransmitted (link : Fin 6)
  | parkTransmitted (link : Fin 6)
  | taken (link : Fin 6) (address : Byte) (tile : Half) (signature : Signature)
  | refused (link : Fin 6) (address : Byte) (tile : Half) (reason : Byte)
  | replyTimerExpiry (buffer : Fin 32)
  | gatheringEnd (screen : Fin 8)
  | cutEnd (screen : Fin 8)
  | groupRelease (group : Fin 4)
  | shown (link : Fin 6) (address : Byte) (number : Half)
  | showTimerExpiry (screen : Fin 8)
  | loss (link : Fin 6) (address : Byte)
  | upstreamCheckFailure (link : Fin 6)
  | checkWindowClear
  | holdTimerExpiry (link : Fin 6)
  | lock (link : Fin 6) (rate : LinkRate)
  | attemptTimerExpiry (link : Fin 6)
  | retryTimerExpiry (link : Fin 6)
  | lossOfLock (link : Fin 6)
  | hello (link : Fin 6) (address : Byte) (identity : Identity) (credit columns rows : Byte)
  | rollWaitExpiry (link : Fin 6)
  | silenceTimerExpiryLink (link : Fin 6) (row : Fin 2)
  | pollWaitExpiry (link : Fin 6) (row : Fin 2)
  | lostPollTimerExpiry (link : Fin 6) (row : Fin 2)
  | state (link : Fin 6) (address credit : Byte)
  | note (link : Fin 6) (address : Byte) (payload : List Byte)
  | wakeLineChange (link : Fin 6) (asserted : Bool)
  | warmUpTimerExpiry (link : Fin 6)
  | levelTick
  | conversionStart
  | conversionEnd (input : Fin 2) (result : Reading)
  | byteEvent (port : Port) (byte : Byte) (parityBit stopBit : Bool)
  | levelOrBlankTransmitted (link : Fin 6)
  | packetOfNoListedKind (link : Fin 6) (address kind : Byte)
  deriving DecidableEq, Repr, Inhabited

end Sys2Proof
end

