-- ==== Sys2Proof/Machine/State.lean ====
section
/-! DEFINITION. The state of the hub as plain data: every field the manual's state tables name, block by block, each
with its value after power-on; derived views (free pool entries, outstanding credit, use sets, member sets, group
state) are computed in Machine/Flags.lean from the one field that holds them. -/

namespace Sys2Proof.Machine

/-- A timer of the time base (R63): `none` is stopped, `some k` runs and expires at the k-th tick from now;
`some 0` is due: its expiry is the next event of this timer (log 3). -/
abbrev Timer := Option Nat

/-- A set of screens (R174): member n is bit n. -/
abbrev ScreenSet := Vector Bool 8

/-- A set of tile indices of a plate copy (R21). -/
abbrev TileSet := Vector Bool 64

def ScreenSet.empty : ScreenSet := Vector.replicate 8 false
def TileSet.empty : TileSet := Vector.replicate 64 false

/-- The stacked DRAM: (address, byte) pairs, strictly rising addresses, no byte 0 listed (an unlisted byte reads 0,
DESIGN CHOICE, log 5). -/
abbrev Memory := List Host.Cell

/-- Columns and rows, in tiles (00_scope.md, "Sizes"). -/
structure Size where
  columns : Nat
  rows : Nat
  deriving DecidableEq, Repr, Inhabited

def Size.tiles (z : Size) : Nat := z.columns * z.rows

/-! ### Chapter 1: capture units and frame slots -/

/-- R2. -/
inductive InputState where
  | off
  | waiting
  | filling
  | silent
  deriving DecidableEq, Repr, Inhabited

/-- R2, with the running signatures of R11. -/
structure Capture where
  state : InputState
  size : Option Size
  port : Option Port
  frames : BitVec 32
  drops : Half
  torn : Half
  silences : Half
  dropArmed : Bool
  silence : Timer
  filling : Option (Fin 3)
  lines : Nat
  running : List Signature
  deriving DecidableEq, Repr, Inhabited

/-- R2, last column. The running signatures of R11 have no value while no frame is open: the model holds none (DESIGN
CHOICE, log 26). -/
def Capture.reset : Capture :=
  { state := .off, size := none, port := none, frames := 0, drops := 0, torn := 0, silences := 0, dropArmed := true,
    silence := none, filling := none, lines := 0, running := [] }

/-- R3, R14. -/
inductive SlotState where
  | free
  | filling
  | newest
  | held
  deriving DecidableEq, Repr, Inhabited

/-- R3; the pixels lie in the DRAM. -/
structure Slot where
  state : SlotState
  number : Option (BitVec 32)
  size : Option Size
  signatures : List (Option Signature)
  readers : ScreenSet
  deriving DecidableEq, Repr, Inhabited

/-- R3, last column: a Free slot. -/
def Slot.free : Slot := { state := .free, number := none, size := none, signatures := [], readers := ScreenSet.empty }

/-! ### Chapter 2: plates -/

/-- R21, R23. -/
inductive CopyState where
  | empty
  | loading
  | committing
  | live
  | retired
  deriving DecidableEq, Repr, Inhabited

/-- R21; the pixels lie in the DRAM. -/
structure PlateCopy where
  state : CopyState
  size : Option Size
  written : TileSet
  damaged : TileSet
  signatures : List (Option Signature)
  readers : ScreenSet
  deriving DecidableEq, Repr, Inhabited

/-- R21, last column: an Empty copy. -/
def PlateCopy.empty : PlateCopy :=
  { state := .empty, size := none, written := TileSet.empty, damaged := TileSet.empty, signatures := [],
    readers := ScreenSet.empty }

/-- R20; the writer port is fixed by the number and the use set is computed. -/
structure Plate where
  size : Option Size
  live : Option (Fin 2)
  version : Half
  copies : Vector PlateCopy 2
  deriving DecidableEq, Repr, Inhabited

def Plate.reset : Plate :=
  { size := none, live := none, version := 0, copies := Vector.replicate 2 PlateCopy.empty }

/-! ### Chapters 3, 4, 7, 8: screens -/

/-- R37, R38. -/
inductive ScreenState where
  | unbound
  | missing
  | joined
  | lost
  | parked
  deriving DecidableEq, Repr, Inhabited

/-- Section 3.4: the source of a view. -/
inductive Source where
  | surface (n : Fin 2)
  | plate (p : Fin 16)
  deriving DecidableEq, Repr, Inhabited

/-- Section 3.4: a view of a layout. -/
structure View where
  source : Source
  originColumn : Nat
  originRow : Nat
  columns : Nat
  rows : Nat
  placeColumn : Nat
  placeRow : Nat
  deriving DecidableEq, Repr, Inhabited

abbrev Layout := List View

/-- R140. -/
structure SeizeRecord where
  owner : Option Port
  layout : Layout
  group : Option (Fin 4)
  pace : Nat
  deriving DecidableEq, Repr, Inhabited

/-- R49: the states of a directory entry. -/
inductive EntryState where
  | absent
  | held
  | behind
  | sending
  deriving DecidableEq, Repr, Inhabited

/-- R49, R88: where a tile comes from. -/
inductive TileSource where
  | surface (n : Fin 2) (slot : Fin 3) (tile : Nat)
  | plate (p : Fin 16) (copy : Fin 2) (tile : Nat)
  | background
  deriving DecidableEq, Repr, Inhabited

/-- R49: target source and target signature, present together. -/
structure Target where
  source : TileSource
  signature : Signature
  deriving DecidableEq, Repr, Inhabited

/-- R49. -/
structure Entry where
  state : EntryState
  held : Option Signature
  target : Option Target
  deriving DecidableEq, Repr, Inhabited

/-- R39: an entry at bind. -/
def Entry.absent : Entry := { state := .absent, held := none, target := none }

/-- R64. -/
inductive CycleState where
  | idle
  | gathering
  | cutting
  | ready
  | presenting
  deriving DecidableEq, Repr, Inhabited

/-- R149. -/
inductive LevelMode where
  | manual
  | ambient
  deriving DecidableEq, Repr, Inhabited

/-- R149: the level unit's fields of one screen slot. -/
structure Level where
  mode : LevelMode
  target : Byte
  current : Byte
  step : Byte
  input : Fin 2
  curve : Fin 4
  deriving DecidableEq, Repr, Inhabited

/-- R149, last column. -/
def Level.reset : Level := { mode := .manual, target := 128, current := 128, step := 0, input := 0, curve := 0 }

/-- R64: the present engine of one screen slot. -/
structure Engine where
  cycle : Option CycleState
  paceCount : Nat
  showCount : Nat
  showTimer : Timer
  lossWait : Bool
  promptStart : Bool
  joinedSurfaces : Vector Bool 2
  joinedPlates : Vector Bool 16
  deriving DecidableEq, Repr, Inhabited

/-- R64, last column. -/
def Engine.reset : Engine :=
  { cycle := none, paceCount := 16, showCount := 0, showTimer := none, lossWait := false, promptStart := false,
    joinedSurfaces := Vector.replicate 2 false, joinedPlates := Vector.replicate 16 false }

/-- R37, with the present engine (R64) and the level unit's fields (R149) of the slot. -/
structure Screen where
  state : ScreenState
  link : Option (Fin 6)
  identity : Option Identity
  size : Option Size
  fill : Option Colour
  fillSignature : Option Signature
  pendingFill : Option Colour
  owner : Option Port
  layout : Layout
  pendingLayout : Option Layout
  pendingFlag : Bool
  stamp : Half
  group : Option (Fin 4)
  pace : Nat
  seize : Option SeizeRecord
  failures : Nat
  present : Half
  lastFrames : Vector (Option (BitVec 32)) 2
  lastVersions : Vector (Option Half) 16
  entries : List Entry
  engine : Engine
  level : Level
  deriving DecidableEq, Repr, Inhabited

/-- R37, R64, R149, last columns. -/
def Screen.reset : Screen :=
  { state := .unbound, link := none, identity := none, size := none, fill := none, fillSignature := none,
    pendingFill := none, owner := none, layout := [], pendingLayout := none, pendingFlag := false, stamp := 0,
    group := none, pace := 16, seize := none, failures := 0, present := 0, lastFrames := Vector.replicate 2 none,
    lastVersions := Vector.replicate 16 none, entries := [], engine := Engine.reset, level := Level.reset }

/-- R80; the member set and the group state are computed. -/
structure Group where
  pace : Nat
  count : Nat
  running : ScreenSet
  deriving DecidableEq, Repr, Inhabited

def Group.reset : Group := { pace := 16, count := 16, running := ScreenSet.empty }

/-! ### Chapter 5: transmit buffers -/

/-- R89: the states of a buffer that is not Free. -/
inductive LendPhase where
  | loading
  | queued
  | sent
  deriving DecidableEq, Repr, Inhabited

/-- R88: the fields of a buffer that is not Free; the row 0 or 1 is address 1 or 2. -/
structure Lend where
  phase : LendPhase
  voided : Bool
  link : Fin 6
  row : Fin 2
  screen : Fin 8
  tile : Nat
  source : TileSource
  signature : Signature
  inTransmission : Bool
  replyTimer : Timer
  deriving DecidableEq, Repr, Inhabited

/-! ### Chapter 6: links -/

/-- R107: the stages of Training. -/
inductive Stage where
  | hold
  | attempt (rate : LinkRate)
  deriving DecidableEq, Repr, Inhabited

/-- R107, R109; the training stage and the attempt rate are present in Training only. -/
inductive LinkState where
  | off
  | training (stage : Stage)
  | rolling
  | up
  | parked
  | waking
  | down
  deriving DecidableEq, Repr, Inhabited

/-- R107. -/
inductive WakeMode where
  | edge
  | level
  deriving DecidableEq, Repr, Inhabited

/-- R107: 20, 50, 100 or 200 ms. -/
inductive WarmUp where
  | ms20
  | ms50
  | ms100
  | ms200
  deriving DecidableEq, Repr, Inhabited

/-- R108. -/
inductive Assignment where
  | unassigned
  | screen (n : Fin 8)
  | stranger (identity : Identity)
  deriving DecidableEq, Repr, Inhabited

/-- R108, with the advertised credit of R88 and the mark that a keep-alive POLL is awaited (R118). -/
structure AddressRow where
  assignment : Assignment
  credit : Option Nat
  silence : Timer
  pollWait : Timer
  lostPoll : Timer
  pollAwaited : Bool
  deriving DecidableEq, Repr, Inhabited

/-- R108: a cleared row. -/
def AddressRow.reset : AddressRow :=
  { assignment := .unassigned, credit := none, silence := none, pollWait := none, lostPoll := none,
    pollAwaited := false }

/-- R128, R194: the downstream packets. `showFrame` carries its address byte (1, 2 or 15) and, for the end of its
transmission, the screens whose show timer it starts (R73, R84, R85, R79); `poll` carries whether it is a keep-alive
POLL (R119) or the POLL of a Lost screen (R120). -/
inductive Packet where
  | tile (buffer : Fin 32) (row : Fin 2) (tile : Nat) (signature : Signature) (pixels : List Byte)
  | showFrame (address : Byte) (number : Half) (screens : ScreenSet)
  | roll (row : Fin 2)
  | poll (row : Fin 2) (keepAlive : Bool)
  | level (row : Fin 2) (level : Byte)
  | park
  | blank (row : Fin 2) (colour : Colour)
  deriving DecidableEq, Repr, Inhabited

/-- R95: the packet on the line; `dead` after a disable: the end of its transmission has no effect (R111). -/
structure OnLine where
  packet : Packet
  dead : Bool
  deriving DecidableEq, Repr, Inhabited

/-- R107, R88, R95. `cutRate` is the model's own (log 25): while the line is in the hold, the rate at which it was locked
when the reset cut it, for a loss of lock that came together with the cause of that reset and is taken second (R122). -/
structure Link where
  enabled : Bool
  state : LinkState
  configuredCap : LinkRate
  currentCap : LinkRate
  rate : Option LinkRate
  wakeMode : WakeMode
  autoWake : Bool
  warmUp : WarmUp
  parkPending : Bool
  protocolFaults : Half
  strangerPackets : Half
  strays : Half
  checkFailures : Nat
  nextRow : Fin 2
  hold : Timer
  attempt : Timer
  retry : Timer
  warm : Timer
  rollWait : Timer
  offered : Option (Fin 2)
  rows : Vector AddressRow 2
  control : List Packet
  tiles : List (Fin 32)
  line : Option OnLine
  sentOrder : List (Fin 32)
  cutRate : Option LinkRate
  wakeLine : Bool
  deriving DecidableEq, Repr, Inhabited

/-- R107, R88, last columns; the level of the wake line is a pin's. -/
def Link.reset (wakeLine : Bool) : Link :=
  { enabled := false, state := .off, configuredCap := .six, currentCap := .six, rate := none, wakeMode := .edge,
    autoWake := false, warmUp := .ms50, parkPending := false, protocolFaults := 0, strangerPackets := 0, strays := 0,
    checkFailures := 0, nextRow := 0, hold := none, attempt := none, retry := none, warm := none, rollWait := none,
    offered := none, rows := Vector.replicate 2 AddressRow.reset, control := [], tiles := [], line := none,
    sentOrder := [], cutRate := none, wakeLine := wakeLine }

/-! ### Chapter 8: light -/

/-- R154; a running conversion holds the ticks left to its conversion end. -/
structure LightInput where
  reading : Option Reading
  conversion : Timer
  deriving DecidableEq, Repr, Inhabited

def LightInput.reset : LightInput := { reading := none, conversion := none }

/-- R156. -/
structure CurvePoint where
  reading : Reading
  level : Byte
  deriving DecidableEq, Repr, Inhabited

abbrev Curve := Vector CurvePoint 8

/-- R156: flat at 128. -/
def Curve.reset : Curve :=
  #v[⟨0, 128⟩, ⟨146, 128⟩, ⟨292, 128⟩, ⟨438, 128⟩, ⟨584, 128⟩, ⟨730, 128⟩, ⟨876, 128⟩, ⟨1023, 128⟩]

/-! ### Chapter 9: control ports -/

/-- R159: 0.5, 1, 2 or 4 Mbit/s. -/
inductive LineRate where
  | half
  | one
  | two
  | four
  deriving DecidableEq, Repr, Inhabited

/-- R159: the field of the frame that the next byte belongs to. -/
inductive FramePosition where
  | length
  | kind
  | tag
  | body
  | check
  deriving DecidableEq, Repr, Inhabited

/-- R26, R165: what became of the header of a write-through PLATE-DATA in reception. -/
inductive WriteThrough where
  | accepted (plate : Fin 16) (copy : Fin 2) (tile : Nat)
  | ignored
  deriving DecidableEq, Repr, Inhabited

/-- R161: the frame in reception. `got` counts the bytes taken of the field at `position`. -/
structure Reception where
  position : FramePosition
  got : Nat
  length : Nat
  kind : Byte
  tag : Byte
  body : List Byte
  crc : BitVec 16
  headerCrc : BitVec 8
  firstCheck : Byte
  through : Option WriteThrough
  deriving DecidableEq, Repr, Inhabited

/-- R159. -/
inductive Receiver where
  | hunting
  | receiving (r : Reception)
  deriving DecidableEq, Repr, Inhabited

/-- A good ordinary frame in the input queue (R163). -/
structure Frame where
  kind : Byte
  tag : Byte
  body : List Byte
  deriving DecidableEq, Repr, Inhabited

/-- R164: the frames that stay in handling after the event at which it began. -/
inductive InHandling where
  | plateData (tag : Byte) (plate : Fin 16) (tile : Byte)
  | plateCommit (tag : Byte) (plate : Fin 16)
  | hubReset
  deriving DecidableEq, Repr, Inhabited

/-- R159, with the frame on the line of the transmitter (R166). -/
structure PortState where
  rate : LineRate
  receiver : Receiver
  gap : Timer
  input : List Frame
  handling : Option InHandling
  replies : List Frame
  notices : List Frame
  mask : Half
  lost : Bool
  framingErrors : Half
  gapErrors : Half
  lengthErrors : Half
  crcErrors : Half
  headerErrors : Half
  overruns : Half
  dropped : Half
  errorArmed : Bool
  pendingRate : Option LineRate
  line : Option Frame
  deriving DecidableEq, Repr, Inhabited

/-- R159, last column, with the line rate given. -/
def PortState.reset (rate : LineRate) : PortState :=
  { rate := rate, receiver := .hunting, gap := none, input := [], handling := none, replies := [], notices := [],
    mask := 0x3FFF, lost := false, framingErrors := 0, gapErrors := 0, lengthErrors := 0, crcErrors := 0,
    headerErrors := 0, overruns := 0, dropped := 0, errorArmed := true, pendingRate := none, line := none }

/-- R170, R174: the causes that READY names. -/
inductive ResetCause where
  | powerOn
  | hubReset
  deriving DecidableEq, Repr, Inhabited

/-! ### The whole part -/

/-- Everything the part holds, but for the queue of commands. -/
structure Hub where
  starting : Bool
  cause : ResetCause
  ticks : Nat
  levelDue : Bool
  windowDue : Bool
  conversionDue : Bool
  free : Nat
  captures : Vector Capture 2
  slots : Vector (Vector Slot 3) 2
  plates : Vector Plate 16
  screens : Vector Screen 8
  groups : Vector Group 4
  buffers : Vector (Option Lend) 32
  lastServed : Fin 6
  links : Vector Link 6
  lights : Vector LightInput 2
  curves : Vector Curve 4
  portA : PortState
  portB : PortState
  dram : Memory
  deriving DecidableEq, Repr, Inhabited

/-- The part as a reset of the whole part leaves it (R2, R3, R20, R21, R37, R64, R80, R88, R107, R149, R154, R156,
R159, R170): the rates of the two lines, the cause and the levels of the wake lines are given. -/
def Hub.reset (cause : ResetCause) (rateA rateB : LineRate) (wakeLines : Vector Bool 6) : Hub :=
  { starting := true, cause := cause, ticks := 0, levelDue := false, windowDue := false, conversionDue := false,
    free := 0, captures := Vector.replicate 2 Capture.reset, slots := Vector.replicate 2 (Vector.replicate 3 Slot.free),
    plates := Vector.replicate 16 Plate.reset, screens := Vector.replicate 8 Screen.reset,
    groups := Vector.replicate 4 Group.reset, buffers := Vector.replicate 32 none, lastServed := 5,
    links := Vector.map Link.reset wakeLines, lights := Vector.replicate 2 LightInput.reset,
    curves := Vector.replicate 4 Curve.reset, portA := PortState.reset rateA, portB := PortState.reset rateB,
    dram := [] }

/-- The machine: the part and the queue of commands that wait, first in first out. -/
structure State where
  hub : Hub
  pending : List Instr
  deriving DecidableEq, Repr, Inhabited

/-- The part right after power-on with all rate straps low and all wake lines low (DESIGN CHOICE, logs 6 and 7). -/
def State.reset : State :=
  { hub := Hub.reset .powerOn .half .half (Vector.replicate 6 false), pending := [] }

/-- What stops the part with a fault: nothing. Every fault the manual names is counted and reported and the part goes
on (R8, R9, R100, R105, R131, R132, R162, R175), so there is no constructor. Safe: no command can end here. -/
inductive Fault where
  deriving DecidableEq, Repr

/-- What the model refuses. -/
inductive Refusal where
  /-- Raised by an arm of `exec` for a command without a meaning; no arm raises it. Safe: it stops. -/
  | notModelled (mnemonic : String)
  deriving DecidableEq, Repr

end Sys2Proof.Machine
end

