-- ==== Sys2Proof/Machine/Wire.lean ====
section
/-! DEFINITION. Check values and byte layouts of the wires (chapter 11): the CRCs of R191 and R193, the byte order and
the kinds of field of R174, the control frame of R188 and the screen link packets of R194. -/

namespace Sys2Proof

def Colour.bytes (c : Colour) : List Byte := [c.red, c.green, c.blue]

end Sys2Proof

namespace Sys2Proof.Machine

/-! ### Check values -/

/-- R191, R193: one shift of a check register toward its most significant end. -/
def crcShift {w : Nat} (generator register : BitVec w) : BitVec w :=
  if register.msb then (register <<< 1) ^^^ generator else register <<< 1

/-- R191, R193: one byte combined into the upper 8 bits, then eight shifts. -/
def crcByte {w : Nat} (generator register : BitVec w) (byte : Byte) : BitVec w :=
  let combined := register ^^^ (byte.setWidth w <<< (w - 8))
  (List.range 8).foldl (fun r _ => crcShift generator r) combined

/-- R191: the CRC-16 of control frames and link packets. -/
def crc16Start : BitVec 16 := 0xFFFF
def crc16Byte (register : BitVec 16) (byte : Byte) : BitVec 16 := crcByte 0x1021 register byte
def crc16 (bytes : List Byte) : BitVec 16 := bytes.foldl crc16Byte crc16Start

/-- R191: the CRC-8 of the header check. -/
def crc8Start : BitVec 8 := 0
def crc8Byte (register : BitVec 8) (byte : Byte) : BitVec 8 := crcByte 0x07 register byte
def crc8 (bytes : List Byte) : BitVec 8 := bytes.foldl crc8Byte crc8Start

/-- R193: the running register of a signature, and the signature when its bytes are done. -/
def signatureStart : BitVec 32 := 0xFFFFFFFF
def signatureByte (register : BitVec 32) (byte : Byte) : BitVec 32 := crcByte 0x04C11DB7 register byte
def signatureOf (bytes : List Byte) : Signature := ~~~ (bytes.foldl signatureByte signatureStart)

/-- R93: the 4800 bytes of a tile in which every pixel has the colour. -/
def fillTile (c : Colour) : List Byte := (List.replicate 1600 c.bytes).flatten

/-- R193: the fill signature of a colour. -/
def fillSignatureOf (c : Colour) : Signature := signatureOf (fillTile c)

/-! ### Byte order (R174): most significant byte first -/

def be16 (x : BitVec 16) : List Byte := [x.extractLsb' 8 8, x.extractLsb' 0 8]
def be32 (x : BitVec 32) : List Byte :=
  [x.extractLsb' 24 8, x.extractLsb' 16 8, x.extractLsb' 8 8, x.extractLsb' 0 8]
def be48 (x : BitVec 48) : List Byte :=
  [x.extractLsb' 40 8, x.extractLsb' 32 8, x.extractLsb' 24 8, x.extractLsb' 16 8, x.extractLsb' 8 8,
    x.extractLsb' 0 8]

def of16 (b1 b0 : Byte) : BitVec 16 := b1 ++ b0
def of32 (b3 b2 b1 b0 : Byte) : BitVec 32 := b3 ++ b2 ++ b1 ++ b0
def of48 (b5 b4 b3 b2 b1 b0 : Byte) : BitVec 48 := b5 ++ b4 ++ b3 ++ b2 ++ b1 ++ b0

def byteOf (n : Nat) : Byte := BitVec.ofNat 8 n
def byteOfFin {k : Nat} (n : Fin k) : Byte := byteOf n.val
def be16Of (n : Nat) : List Byte := be16 (BitVec.ofNat 16 n)
def flag (b : Bool) : Byte := if b then 1 else 0

/-- R174: an optional field: a presence byte and the value bytes, 0 when absent. -/
def optional {α : Type} (zeros : Nat) (encode : α → List Byte) : Option α → List Byte
  | none => 0 :: List.replicate zeros 0
  | some x => 1 :: encode x

/-- R174: a list: a count byte and the items. -/
def counted {α : Type} (encode : α → List Byte) (xs : List α) : List Byte :=
  byteOf xs.length :: xs.flatMap encode

/-- R174: a set of screens in one byte. -/
def ScreenSet.byte (s : ScreenSet) : Byte :=
  byteOf ((List.finRange 8).foldl (fun acc n => acc + if s[n] then 2 ^ n.val else 0) 0)

def Size.bytes (z : Size) : List Byte := [byteOf z.columns, byteOf z.rows]
def optionalSize (z : Option Size) : List Byte := optional 2 Size.bytes z
def optionalByte {α : Type} (f : α → Byte) (x : Option α) : List Byte := optional 1 (fun a => [f a]) x

/-! ### Codes of the named values (R174) -/

def portCode : Option Port → Byte
  | none => 0
  | some .a => 1
  | some .b => 2

def LineRate.code : LineRate → Byte
  | .half => 0
  | .one => 1
  | .two => 2
  | .four => 3

def lineRateOf (b : Byte) : LineRate := if b = 0 then .half else if b = 1 then .one else if b = 2 then .two else .four

end Sys2Proof.Machine

namespace Sys2Proof

def LinkRate.code : LinkRate → Byte
  | .six => 0
  | .three => 1
  | .oneHalf => 2

def linkRateOf (b : Byte) : LinkRate := if b = 0 then .six else if b = 1 then .three else .oneHalf

/-- R106, R113: one rate lower; 1.5 Gbit/s stays. -/
def LinkRate.lower : LinkRate → LinkRate
  | .six => .three
  | .three => .oneHalf
  | .oneHalf => .oneHalf

end Sys2Proof

namespace Sys2Proof.Machine

def WarmUp.code : WarmUp → Byte
  | .ms20 => 0
  | .ms50 => 1
  | .ms100 => 2
  | .ms200 => 3

def warmUpOf (b : Byte) : WarmUp := if b = 0 then .ms20 else if b = 1 then .ms50 else if b = 2 then .ms100 else .ms200

/-- R107: the warm-up time in ticks. -/
def WarmUp.ticks : WarmUp → Nat
  | .ms20 => 20
  | .ms50 => 50
  | .ms100 => 100
  | .ms200 => 200

def WakeMode.code : WakeMode → Byte
  | .edge => 0
  | .level => 1

def wakeModeOf (b : Byte) : WakeMode := if b = 0 then .edge else .level

def LevelMode.code : LevelMode → Byte
  | .manual => 0
  | .ambient => 1

def levelModeOf (b : Byte) : LevelMode := if b = 0 then .manual else .ambient

def InputState.code : InputState → Byte
  | .off => 0
  | .waiting => 1
  | .filling => 2
  | .silent => 3

def SlotState.code : SlotState → Byte
  | .free => 0
  | .filling => 1
  | .newest => 2
  | .held => 3

def CopyState.code : CopyState → Byte
  | .empty => 0
  | .loading => 1
  | .committing => 2
  | .live => 3
  | .retired => 4

def ScreenState.code : ScreenState → Byte
  | .unbound => 0
  | .missing => 1
  | .joined => 2
  | .lost => 3
  | .parked => 4

def CycleState.code : CycleState → Byte
  | .idle => 0
  | .gathering => 1
  | .cutting => 2
  | .ready => 3
  | .presenting => 4

def LinkState.code : LinkState → Byte
  | .off => 0
  | .training _ => 1
  | .rolling => 2
  | .up => 3
  | .parked => 4
  | .waking => 5
  | .down => 6

def ResetCause.code : ResetCause → Byte
  | .powerOn => 0
  | .hubReset => 1

/-- R8, R174: the tear reasons. -/
inductive TearReason where
  | length
  | long
  | short
  | restart
  | silence
  | disable
  | resize
  deriving DecidableEq, Repr, Inhabited

def TearReason.code : TearReason → Byte
  | .length => 0
  | .long => 1
  | .short => 2
  | .restart => 3
  | .silence => 4
  | .disable => 5
  | .resize => 6

/-- R131, R174: the fault kinds. -/
inductive FaultKind where
  | hello
  | shown
  | loss
  | reason
  | credit
  | address
  | kind
  deriving DecidableEq, Repr, Inhabited

def FaultKind.code : FaultKind → Byte
  | .hello => 0
  | .shown => 1
  | .loss => 2
  | .reason => 3
  | .credit => 4
  | .address => 5
  | .kind => 6

/-- R162, R174: the line error classes. -/
inductive ErrorClass where
  | framing
  | gap
  | length
  | crc
  | header
  deriving DecidableEq, Repr, Inhabited

def ErrorClass.code : ErrorClass → Byte
  | .framing => 0
  | .gap => 1
  | .length => 2
  | .crc => 3
  | .header => 4

/-- R117, R104, R75, R174: the LOST reasons. -/
inductive LostReason where
  | missing
  | failures
  | showUnanswered
  deriving DecidableEq, Repr, Inhabited

def LostReason.code : LostReason → Byte
  | .missing => 0
  | .failures => 1
  | .showUnanswered => 2

/-- R115, R174: the STRANGER reasons. -/
inductive StrangerReason where
  | unknown
  | size
  | credit
  deriving DecidableEq, Repr, Inhabited

def StrangerReason.code : StrangerReason → Byte
  | .unknown => 0
  | .size => 1
  | .credit => 2

/-- R174: the LINK-FAULT reasons train, rate, lock. -/
def faultTrain : Byte := 0
def faultRate : Byte := 1
def faultLock : Byte := 2

/-- R174: the Damaged reasons crc, gap, framing. -/
def damagedCrc : Byte := 0
def damagedGap : Byte := 1
def damagedFraming : Byte := 2

/-- R192: the result codes. -/
inductive Result where
  | done
  | badKind
  | badLength
  | badValue
  | notOwner
  | wrongState
  | busy
  | noRoom
  | stale
  | incomplete
  | overrun
  | damaged
  deriving DecidableEq, Repr, Inhabited

def Result.code : Result → Byte
  | .done => 0x00
  | .badKind => 0x01
  | .badLength => 0x02
  | .badValue => 0x03
  | .notOwner => 0x04
  | .wrongState => 0x05
  | .busy => 0x06
  | .noRoom => 0x07
  | .stale => 0x08
  | .incomplete => 0x09
  | .overrun => 0x0A
  | .damaged => 0x0B

/-- R192: the notice kinds, in the order of their mask bits. -/
inductive NoticeKind where
  | ready
  | joined
  | lost
  | stranger
  | dropped
  | torn
  | silent
  | seized
  | returned
  | touch
  | wake
  | linkFault
  | lineError
  | protocol
  deriving DecidableEq, Repr, Inhabited

def NoticeKind.bit : NoticeKind → Nat
  | .ready => 0
  | .joined => 1
  | .lost => 2
  | .stranger => 3
  | .dropped => 4
  | .torn => 5
  | .silent => 6
  | .seized => 7
  | .returned => 8
  | .touch => 9
  | .wake => 10
  | .linkFault => 11
  | .lineError => 12
  | .protocol => 13

/-- R192: E0h to EDh. -/
def NoticeKind.code (k : NoticeKind) : Byte := byteOf (0xE0 + k.bit)

/-! ### Views on the wire (R190) -/

def Source.byte : Source → Byte
  | .surface n => byteOfFin n
  | .plate p => byteOf (0x10 + p.val)

def View.bytes (v : View) : List Byte :=
  [v.source.byte, byteOf v.originColumn, byteOf v.originRow, byteOf v.columns, byteOf v.rows, byteOf v.placeColumn,
    byteOf v.placeRow]

/-- R184: a view count and its views. -/
def layoutBytes (l : Layout) : List Byte := counted View.bytes l

/-! ### Frames and packets -/

/-- R188: the bytes of a control frame, in either direction. -/
def Frame.wire (f : Frame) : List Byte :=
  let covered := be16Of f.body.length ++ [f.kind, f.tag] ++ f.body
  0xC3 :: covered ++ be16 (crc16 covered)

/-- The address byte of a row (R108). -/
def rowByte (a : Fin 2) : Byte := byteOf (a.val + 1)

/-- R108: the row of an address byte. -/
def rowOf (address : Byte) : Option (Fin 2) := if address = 1 then some 0 else if address = 2 then some 1 else none

/-- R194: address, kind and payload of a downstream packet. -/
def Packet.fields : Packet → Byte × Byte × List Byte
  | .tile _ row index sig pixels => (rowByte row, 0x01, be16Of index ++ be32 sig ++ pixels)
  | .showFrame address number _ => (address, 0x02, be16 number)
  | .roll row => (rowByte row, 0x03, [])
  | .poll row _ => (rowByte row, 0x04, [])
  | .level row value => (rowByte row, 0x05, [value])
  | .park => (15, 0x06, [])
  | .blank row colour => (rowByte row, 0x07, colour.bytes)

/-- R194: the bytes of a packet with the given address, kind and payload. -/
def packetBytes (address kind : Byte) (payload : List Byte) : List Byte :=
  let covered := [address, kind] ++ be16Of payload.length ++ payload
  covered ++ be16 (crc16 covered)

/-- R194: what the link transmitter puts on the line. -/
def Packet.wire (p : Packet) : List Byte :=
  let (address, kind, payload) := p.fields
  packetBytes address kind payload

end Sys2Proof.Machine
end

