-- ==== Sys2Proof/Machine/Flags.lean ====
section
/-! DEFINITION. The conditions and derived views of the hub: computed from the state, never stored. Free pool entries
(R40), outstanding credit (R94), use sets (R33), member sets and group state (R80), gates (R65, R82), triggers (R66),
eligibility and requests for buffers (R90), visible sources (R44). -/

namespace Sys2Proof.Machine

def allScreens : List (Fin 8) := [0, 1, 2, 3, 4, 5, 6, 7]
def allLinks : List (Fin 6) := [0, 1, 2, 3, 4, 5]
def allGroups : List (Fin 4) := [0, 1, 2, 3]
def allInputs : List (Fin 2) := [0, 1]
def allRows : List (Fin 2) := [0, 1]
def allSlots : List (Fin 3) := [0, 1, 2]
def allCopies : List (Fin 2) := [0, 1]
def allPlates : List (Fin 16) := [0, 1, 2, 3, 4, 5, 6, 7, 8, 9, 10, 11, 12, 13, 14, 15]
def allBuffers : List (Fin 32) :=
  [0, 1, 2, 3, 4, 5, 6, 7, 8, 9, 10, 11, 12, 13, 14, 15, 16, 17, 18, 19, 20, 21, 22, 23, 24, 25, 26, 27, 28, 29, 30,
    31]

/-- The other of two rows, copies or inputs. -/
def other (a : Fin 2) : Fin 2 := if a = 0 then 1 else 0

/-! ### Timers (R63) -/

/-- The expiry is the next event of the timer. -/
def Timer.due (t : Timer) : Bool := t == some 0

/-- One tick of the time base. -/
def Timer.tick (t : Timer) : Timer := t.map (· - 1)

/-- R174: the members of a set of screens, ascending. -/
def ScreenSet.members (s : ScreenSet) : List (Fin 8) := allScreens.filter fun n => s[n]
def ScreenSet.isEmpty (s : ScreenSet) : Bool := s.members.isEmpty

/-! ### Surfaces and plates -/

/-- R14: the Newest slot of a surface. -/
def newestSlot (h : Hub) (i : Fin 2) : Option (Fin 3) := allSlots.find? fun k => h.slots[i][k].state == .newest

/-- R9: the lowest-numbered Free slot. -/
def freeSlot (h : Hub) (i : Fin 2) : Option (Fin 3) := allSlots.find? fun k => h.slots[i][k].state == .free

/-- R20: plates 0 to 7 belong to port A, 8 to 15 to port B. -/
def writerPort (p : Fin 16) : Port := if p.val < 8 then .a else .b

/-- R22: the work copy. -/
def workCopy (x : Plate) : Fin 2 :=
  match x.live with
  | some c => other c
  | none => 0

/-- Section 2.1: an outstanding tile is not written, or damaged. -/
def PlateCopy.outstanding (c : PlateCopy) : Nat :=
  match c.size with
  | none => 0
  | some z => ((List.finRange 64).filter fun t => decide (t.val < z.tiles) && (!c.written[t] || c.damaged[t])).length

/-- R184: the outstanding count that PLATE-ASK reports. -/
def PlateCopy.reportedOutstanding (c : PlateCopy) : Nat := if c.state = .loading then c.outstanding else 0

/-- R36: the damaged set in ascending order. -/
def PlateCopy.damagedTiles (c : PlateCopy) : List (Fin 64) := (List.finRange 64).filter fun t => c.damaged[t]

/-! ### Layouts -/

def Layout.names (l : Layout) (x : Source) : Bool := l.any fun v => v.source == x

/-- R5, R33: the source is named by the current layout, the pending layout or the layout of the seize record. -/
def Screen.references (x : Screen) (src : Source) : Bool :=
  x.layout.names src || (x.pendingLayout.map (·.names src)).getD false ||
    (x.seize.map (·.layout.names src)).getD false

def Screen.bound (x : Screen) : Bool := x.state != .unbound

/-- R5: the bound screens that reference a source. R33: of a plate, its use set. -/
def referencing (h : Hub) (src : Source) : List (Fin 8) :=
  allScreens.filter fun n => h.screens[n].bound && h.screens[n].references src

def useSet (h : Hub) (p : Fin 16) : List (Fin 8) := referencing h (.plate p)

/-- A list of screens as one byte (R174). -/
def screensByte (l : List (Fin 8)) : Byte := byteOf (l.foldl (fun acc n => acc + 2 ^ n.val) 0)

/-- R44: the view covers the screen tile. -/
def View.covers (v : View) (column row : Nat) : Bool :=
  decide (v.placeColumn ≤ column) && decide (column < v.placeColumn + v.columns) && decide (v.placeRow ≤ row) &&
    decide (row < v.placeRow + v.rows)

/-- R44: the topmost covering view, the one that stands latest in the list. -/
def visibleView (l : Layout) (column row : Nat) : Option View := l.reverse.find? fun v => v.covers column row

/-! ### Screens -/

/-- R40: free entries of the directory pool. -/
def freeEntries (h : Hub) : Nat :=
  Config.poolEntries - (allScreens.map fun n => h.screens[n].entries.length).sum

/-- Screens bound to a link, ascending. -/
def boundTo (h : Hub) (l : Fin 6) : List (Fin 8) :=
  allScreens.filter fun n => h.screens[n].bound && h.screens[n].link == some l

def countEntries (x : Screen) (e : EntryState) : Nat := (x.entries.filter fun y => y.state == e).length

def hasEntry (x : Screen) (e : EntryState) : Bool := x.entries.any fun y => y.state == e

/-- R92: the lowest-indexed Behind entry. -/
def firstBehind (x : Screen) : Option Nat := x.entries.findIdx? fun y => y.state == .behind

/-- R65: the pace gate of a screen is open. -/
def paceOpen (x : Screen) : Bool := x.engine.paceCount == x.pace

/-- R66: the four conditions of a trigger. -/
def hasTrigger (h : Hub) (n : Fin 8) : Bool :=
  let x := h.screens[n]
  (allInputs.any fun i => x.layout.names (.surface i) &&
    match newestSlot h i with
    | none => false
    | some k => h.slots[i][k].number != x.lastFrames[i] || x.lastFrames[i] == none) ||
  (allPlates.any fun p => x.layout.names (.plate p) && h.plates[p].live.isSome &&
    (x.lastVersions[p] != some h.plates[p].version)) ||
  x.pendingFlag || hasEntry x .absent

/-- R80: members and active members of a group. -/
def isMember (h : Hub) (g : Fin 4) (n : Fin 8) : Bool := h.screens[n].group == some g
def isActive (h : Hub) (g : Fin 4) (n : Fin 8) : Bool := isMember h g n && h.screens[n].state == .joined
def members (h : Hub) (g : Fin 4) : List (Fin 8) := allScreens.filter fun n => isMember h g n
def activeMembers (h : Hub) (g : Fin 4) : List (Fin 8) := allScreens.filter fun n => isActive h g n

/-- R82: the group pace gate is open. -/
def groupPaceOpen (x : Group) : Bool := x.count == x.pace

/-- R80: the group is Running while its running set is non-empty. -/
def groupRunning (x : Group) : Bool := !x.running.isEmpty

/-- The screen is in the running set of some group. -/
def inRunning (h : Hub) (n : Fin 8) : Bool := allGroups.any fun g => h.groups[g].running[n]

/-- R67: an ungrouped screen starts a cycle. -/
def mayStart (h : Hub) (n : Fin 8) : Bool :=
  let x := h.screens[n]
  x.state == .joined && x.engine.cycle == some .idle && x.group == none && paceOpen x && hasTrigger h n

/-- R83: a group gate makes a joint start. -/
def mayJointStart (h : Hub) (g : Fin 4) : Bool :=
  !groupRunning h.groups[g] && !(activeMembers h g).isEmpty &&
    (activeMembers h g).all (fun n => h.screens[n].engine.cycle == some .idle) && groupPaceOpen h.groups[g] &&
    (activeMembers h g).any (fun n => hasTrigger h n)

/-- R71: no entry of a Gathering screen is Behind or Sending. -/
def mayEndGathering (h : Hub) (n : Fin 8) : Bool :=
  let x := h.screens[n]
  x.engine.cycle == some .gathering && !hasEntry x .behind && !hasEntry x .sending

/-- R78: no entry of a Cutting screen is Sending. -/
def mayEndCut (h : Hub) (n : Fin 8) : Bool :=
  let x := h.screens[n]
  x.engine.cycle == some .cutting && !hasEntry x .sending

/-- R84: every screen of a non-empty running set is Ready. -/
def mayRelease (h : Hub) (g : Fin 4) : Bool :=
  let r := h.groups[g].running
  !r.isEmpty && r.members.all (fun n => h.screens[n].engine.cycle == some .ready)

/-! ### Links and buffers -/

/-- R108: the row that names the screen, with its link. -/
def addressOf (h : Hub) (n : Fin 8) : Option (Fin 6 × Fin 2) :=
  match h.screens[n].link with
  | none => none
  | some l =>
    if h.links[l].rows[(0 : Fin 2)].assignment = .screen n then some (l, 0)
    else if h.links[l].rows[(1 : Fin 2)].assignment = .screen n then some (l, 1)
    else none

/-- R109: the receiver takes upstream packets in Rolling, Up and Parked. -/
def receiverOpen (k : Link) : Bool := k.state == .rolling || k.state == .up || k.state == .parked

/-- R94: outstanding credit, the non-Free buffers of an address, voided or not. -/
def outstandingCredit (h : Hub) (l : Fin 6) (a : Fin 2) : Nat :=
  (allBuffers.filter fun b =>
    match h.buffers[b] with
    | some x => x.link == l && x.row == a
    | none => false).length

/-- R90: non-Free buffers of a link. -/
def linkBuffers (h : Hub) (l : Fin 6) : Nat := outstandingCredit h l 0 + outstandingCredit h l 1

def freeBuffers (h : Hub) : Nat := (allBuffers.filter fun b => h.buffers[b].isNone).length

/-- R91: the lowest-numbered Free buffer. -/
def lowestFreeBuffer (h : Hub) : Option (Fin 32) := allBuffers.find? fun b => h.buffers[b].isNone

/-- R90: the screen at the row is eligible. -/
def eligibleScreen (h : Hub) (l : Fin 6) (a : Fin 2) : Option (Fin 8) :=
  let row := h.links[l].rows[a]
  match row.assignment, row.credit with
  | .screen n, some credit =>
    let x := h.screens[n]
    if x.state = .joined ∧ x.engine.cycle = some .gathering ∧ hasEntry x .behind ∧ outstandingCredit h l a < credit
    then some n else none
  | _, _ => none

/-- R90: the link asks the arbiter for a buffer. -/
def asks (h : Hub) (l : Fin 6) : Bool :=
  h.links[l].state == .up && decide (linkBuffers h l < Config.linkBufferLimit) &&
    ((eligibleScreen h l 0).isSome || (eligibleScreen h l 1).isSome)

/-- R91: the first link that asks, in cyclic order after the last-served one. -/
def nextAsking (h : Hub) : Option (Fin 6) :=
  ([1, 2, 3, 4, 5, 6].map fun d => Fin.ofNat 6 (h.lastServed.val + d)).find? fun l => asks h l

/-- R121: an Up link with a Lost screen and no Joined screen. -/
def allLost (h : Hub) (l : Fin 6) : Bool :=
  h.links[l].state == .up && (boundTo h l).any (fun n => h.screens[n].state == .lost) &&
    (boundTo h l).all (fun n => h.screens[n].state != .joined)

/-- R96: the Sent buffer of an address and tile index that was transmitted first. -/
def matchSent (h : Hub) (l : Fin 6) (a : Fin 2) (tile : Nat) : Option (Fin 32) :=
  h.links[l].sentOrder.find? fun b =>
    match h.buffers[b] with
    | some x => x.phase == .sent && x.link == l && x.row == a && x.tile == tile
    | none => false

/-! ### Ports -/

/-- R165: free places of the reply queue. -/
def PortState.reserved (p : PortState) : Nat :=
  match p.handling with
  | some (.plateData ..) => 1
  | some (.plateCommit ..) => 1
  | some .hubReset => 0
  | none => 0

def PortState.freePlaces (p : PortState) : Nat := Config.replyCapacity - p.replies.length - p.reserved

/-- R164: the port begins handling its oldest frame. -/
def PortState.mayBegin (p : PortState) : Bool := p.handling.isNone && !p.input.isEmpty && decide (0 < p.freePlaces)

/-- R169: the Done reply of a LINE-SET. R171: of a HUB-RESET. -/
def Frame.isLineSetDone (f : Frame) : Bool := f.kind == 0x83 && f.body.head? == some 0
def Frame.isHubResetDone (f : Frame) : Bool := f.kind == 0x82 && f.body.head? == some 0

/-- R26, R169: the reply of a LINE-SET has not yet been sent. The rules say only 'the reply of a LINE-SET'; the model
counts the Done reply alone, not that of a refused one (DESIGN CHOICE, log 27). -/
def PortState.lineSetUnsent (p : PortState) : Bool :=
  p.replies.any Frame.isLineSetDone || (p.line.map Frame.isLineSetDone).getD false

/-- R161: a write-through PLATE-DATA is in reception, past its header. -/
def PortState.inThrough (p : PortState) : Bool :=
  match p.receiver with
  | .hunting => false
  | .receiving r => r.through.isSome

end Sys2Proof.Machine
end

