-- ==== Sys2Proof/Machine/Memory.lean ====
section
/-! DEFINITION. Reading and writing the stacked DRAM (R3, R21, R88) in its one canonical form. -/

namespace Sys2Proof.Machine

/-- Log 5: what a byte that nothing has written reads as. -/
def unlisted : Byte := 0

/-- The byte at an address. -/
def Memory.read : Memory → Nat → Byte
  | [], _ => unlisted
  | (a, b) :: rest, x => if x = a then b else Memory.read rest x

/-- The memory with one byte written; the canonical form is kept. -/
def Memory.write : Memory → Nat → Byte → Memory
  | [], x, v => if v = unlisted then [] else [(x, v)]
  | (a, b) :: rest, x, v =>
    if x < a then (if v = unlisted then (a, b) :: rest else (x, v) :: (a, b) :: rest)
    else if x = a then (if v = unlisted then rest else (x, v) :: rest)
    else (a, b) :: Memory.write rest x v

/-- Bytes written at consecutive addresses. -/
def Memory.writeBytes : Memory → Nat → List Byte → Memory
  | m, _, [] => m
  | m, x, v :: vs => Memory.writeBytes (Memory.write m x v) (x + 1) vs

/-- The bytes of `n` consecutive addresses. -/
def Memory.readBytes (m : Memory) (x : Nat) : Nat → List Byte
  | 0 => []
  | n + 1 => Memory.read m x :: Memory.readBytes m (x + 1) n

/-- Every listed address lies above `low` and no listed byte is the unlisted one, addresses rising. -/
def Memory.wfAbove : Nat → Memory → Bool
  | _, [] => true
  | low, (a, b) :: rest => decide (low ≤ a) && decide (b ≠ unlisted) && Memory.wfAbove (a + 1) rest

/-- The canonical form: addresses strictly rising and no entry equal to what an unlisted address reads as. -/
def Memory.wf (m : Memory) : Bool := Memory.wfAbove 0 m

end Sys2Proof.Machine
end

