-- ==== Sys2Proof/Machine/Ops.lean ====
section
/-! DEFINITION. The shared operations of the hub: one field of one block changed, notices and replies queued
(R165, R167), reader sets joined and left (R15, R31), directory entries (R49), buffers freed (R94, R101), packets
handed to a link (R95), and the abort of a screen (R79). -/

namespace Sys2Proof.Machine

/-- One element of a table changed. -/
def upd {α : Type} {n : Nat} (v : Vector α n) (i : Fin n) (f : α → α) : Vector α n := v.set i (f v[i])

namespace Hub

def modCapture (h : Hub) (i : Fin 2) (f : Capture → Capture) : Hub := { h with captures := upd h.captures i f }
def modSlot (h : Hub) (i : Fin 2) (k : Fin 3) (f : Slot → Slot) : Hub :=
  { h with slots := upd h.slots i fun v => upd v k f }
def modPlate (h : Hub) (p : Fin 16) (f : Plate → Plate) : Hub := { h with plates := upd h.plates p f }
def modCopy (h : Hub) (p : Fin 16) (c : Fin 2) (f : PlateCopy → PlateCopy) : Hub :=
  h.modPlate p fun x => { x with copies := upd x.copies c f }
def modScreen (h : Hub) (n : Fin 8) (f : Screen → Screen) : Hub := { h with screens := upd h.screens n f }
def modEngine (h : Hub) (n : Fin 8) (f : Engine → Engine) : Hub :=
  h.modScreen n fun x => { x with engine := f x.engine }
def modLevel (h : Hub) (n : Fin 8) (f : Level → Level) : Hub := h.modScreen n fun x => { x with level := f x.level }
def modGroup (h : Hub) (g : Fin 4) (f : Group → Group) : Hub := { h with groups := upd h.groups g f }
def modBuffer (h : Hub) (b : Fin 32) (f : Lend → Lend) : Hub :=
  { h with buffers := upd h.buffers b fun x => x.map f }
def modLink (h : Hub) (l : Fin 6) (f : Link → Link) : Hub := { h with links := upd h.links l f }
def modRow (h : Hub) (l : Fin 6) (a : Fin 2) (f : AddressRow → AddressRow) : Hub :=
  h.modLink l fun k => { k with rows := upd k.rows a f }
def modLight (h : Hub) (i : Fin 2) (f : LightInput → LightInput) : Hub := { h with lights := upd h.lights i f }

def port (h : Hub) : Port → PortState
  | .a => h.portA
  | .b => h.portB

def modPort (h : Hub) (p : Port) (f : PortState → PortState) : Hub :=
  match p with
  | .a => { h with portA := f h.portA }
  | .b => { h with portB := f h.portB }

end Hub

/-! ### Notices and replies -/

/-- R167: a notice is offered to a port. -/
def PortState.offer (x : PortState) (k : NoticeKind) (body : List Byte) : PortState :=
  if !x.mask.getLsbD k.bit then x
  else if Config.noticeCapacity ≤ x.notices.length then { x with lost := true }
  else { x with notices := x.notices ++ [{ kind := k.code, tag := 0, body := flag x.lost :: body }], lost := false }

def offer (k : NoticeKind) (body : List Byte) (h : Hub) (p : Port) : Hub := h.modPort p fun x => x.offer k body

/-- R168: a notice is offered to each port it is addressed to. -/
def notify (ports : List Port) (k : NoticeKind) (body : List Byte) (h : Hub) : Hub := ports.foldl (offer k body) h

def bothPorts : List Port := [.a, .b]

/-- R168: the owner, or both ports when there is none. -/
def ownerOrBoth : Option Port → List Port
  | some p => [p]
  | none => bothPorts

def screenPorts (h : Hub) (n : Fin 8) : List Port := ownerOrBoth h.screens[n].owner
def inputPorts (h : Hub) (i : Fin 2) : List Port := ownerOrBoth h.captures[i].port

/-- R135: each port that owns a screen bound to the link, or both ports when no bound screen has an owner. -/
def linkPorts (h : Hub) (l : Fin 6) : List Port :=
  let owners := bothPorts.filter fun p => (boundTo h l).any fun n => h.screens[n].owner == some p
  if owners.isEmpty then bothPorts else owners

/-- R165: a reply joins the tail of the reply queue. -/
def PortState.queueReply (x : PortState) (kind tag : Byte) (r : Result) (data : List Byte) : PortState :=
  { x with replies := x.replies ++ [{ kind := kind + 0x80, tag := tag, body := r.code :: data }] }

def reply (p : Port) (kind tag : Byte) (r : Result) (data : List Byte) (h : Hub) : Hub :=
  h.modPort p fun x => x.queueReply kind tag r data

/-! ### Packets handed to a link (R95, R128) -/

def handPacket (l : Fin 6) (k : Packet) (h : Hub) : Hub := h.modLink l fun x => { x with control := x.control ++ [k] }

/-! ### Reader sets (R15, R31) -/

/-- R15: the screen joins the Newest slot of a surface. -/
def joinSurface (n : Fin 8) (h : Hub) (i : Fin 2) : Hub :=
  match newestSlot h i with
  | none => h
  | some k =>
    (h.modSlot i k fun s => { s with readers := s.readers.set n true }).modEngine n fun e =>
      { e with joinedSurfaces := e.joinedSurfaces.set i true }

/-- R31: the screen joins the live copy of a plate. -/
def joinPlate (n : Fin 8) (h : Hub) (p : Fin 16) : Hub :=
  match h.plates[p].live with
  | none => h
  | some c =>
    (h.modCopy p c fun x => { x with readers := x.readers.set n true }).modEngine n fun e =>
      { e with joinedPlates := e.joinedPlates.set p true }

/-- R68 step 2: the screen joins each source its current layout names, once. -/
def joinSources (n : Fin 8) (h : Hub) : Hub :=
  let h := h.modEngine n fun e =>
    { e with joinedSurfaces := Vector.replicate 2 false, joinedPlates := Vector.replicate 16 false }
  let layout := h.screens[n].layout
  let h := (allInputs.filter fun i => layout.names (.surface i)).foldl (joinSurface n) h
  (allPlates.filter fun p => layout.names (.plate p)).foldl (joinPlate n) h

/-- R15: a leave, at one slot. -/
def Slot.leave (n : Fin 8) (s : Slot) : Slot :=
  if s.readers[n] then
    let readers := s.readers.set n false
    if s.state = .held ∧ ScreenSet.isEmpty readers then Slot.free else { s with readers := readers }
  else s

/-- R31: a leave, at one copy. -/
def PlateCopy.leave (n : Fin 8) (c : PlateCopy) : PlateCopy :=
  if c.readers[n] then
    let readers := c.readers.set n false
    if c.state = .retired ∧ ScreenSet.isEmpty readers then PlateCopy.empty else { c with readers := readers }
  else c

/-- R15, R31, R71: the screen leaves every reader set and its joined sources become empty. -/
def leaveSources (n : Fin 8) (h : Hub) : Hub :=
  let h := { h with
    slots := h.slots.map fun (v : Vector Slot 3) => v.map (Slot.leave n)
    plates := h.plates.map fun (x : Plate) => { x with copies := x.copies.map (PlateCopy.leave n) } }
  h.modEngine n fun e =>
    { e with joinedSurfaces := Vector.replicate 2 false, joinedPlates := Vector.replicate 16 false }

/-! ### Directory entries (R49) -/

def modEntries (n : Fin 8) (f : Entry → Entry) (h : Hub) : Hub :=
  h.modScreen n fun x => { x with entries := x.entries.map f }

def modEntry (n : Fin 8) (t : Nat) (f : Entry → Entry) (h : Hub) : Hub :=
  h.modScreen n fun x => { x with entries := x.entries.modify t f }

/-- R58, R56: every entry Absent. -/
def allAbsent (n : Fin 8) (h : Hub) : Hub := modEntries n (fun _ => Entry.absent) h

/-- R49: the targets of every entry are removed. -/
def dropTargets (n : Fin 8) (h : Hub) : Hub := modEntries n (fun e => { e with target := none }) h

/-- R53: a TAKEN whose signature equals the buffer's. -/
def Entry.takenGood (s : Signature) (e : Entry) : Entry :=
  if e.target.map (·.signature) = some s then { e with state := .held, held := some s }
  else { e with state := .behind, held := some s }

/-- R53, R54 (lost), R55: Behind with the held signature removed. -/
def Entry.behindUnknown (e : Entry) : Entry := { e with state := .behind, held := none }

/-- R54 (check, full): Behind with the held signature kept. -/
def Entry.behindKept (e : Entry) : Entry := { e with state := .behind }

/-! ### Running sets (R86) -/

/-- The screen leaves every running set that holds it. -/
def leaveRunning (n : Fin 8) (h : Hub) : Hub :=
  { h with groups := h.groups.map fun (g : Group) => { g with running := g.running.set n false } }

/-! ### Buffers (R89, R94) -/

/-- A buffer becomes Free and leaves its link's queues. -/
def freeBuffer (b : Fin 32) (h : Hub) : Hub :=
  { h with
    buffers := h.buffers.set b none
    links := h.links.map fun (k : Link) =>
      { k with tiles := k.tiles.filter (· != b), sentOrder := k.sentOrder.filter (· != b) } }

/-- R101: one buffer at the abort of a screen. -/
def voidBuffer (n : Fin 8) (h : Hub) (b : Fin 32) : Hub :=
  match h.buffers[b] with
  | none => h
  | some x =>
    if x.screen = n then
      if x.phase = .queued ∧ !x.inTransmission then freeBuffer b h
      else h.modBuffer b fun y => { y with voided := true }
    else h

/-- R102: every non-Free buffer of the link becomes Free. -/
def freeLinkBuffers (l : Fin 6) (h : Hub) : Hub :=
  let h := { h with buffers := h.buffers.map fun (x : Option Lend) =>
    match x with
    | some y => if y.link = l then none else some y
    | none => none }
  h.modLink l fun k => { k with tiles := [], sentOrder := [] }

/-! ### Abort (R79) -/

/-- R79: the packet waits for the screen's own address and is removed at its abort; a SHOW to the general address
(R85) stays. -/
def Packet.removedAtAbort (a : Fin 2) : Packet → Bool
  | .showFrame address _ _ => address == rowByte a
  | .poll row _ => row == a
  | .level row _ => row == a
  | .tile .. => false
  | .roll _ => false
  | .park => false
  | .blank .. => false

/-- R79: the end of the packet's transmission starts no timer of the screen. -/
def Packet.disarm (n : Fin 8) (a : Fin 2) : Packet → Packet
  | .showFrame address number screens => .showFrame address number (screens.set n false)
  | .poll row keepAlive => .poll row (keepAlive && row != a)
  | .tile b row idx sig pixels => .tile b row idx sig pixels
  | .roll row => .roll row
  | .level row value => .level row value
  | .park => .park
  | .blank row colour => .blank row colour

/-- R79, R118: what an abort does at the link of the screen's address. -/
def abortAtLink (n : Fin 8) (h : Hub) : Hub :=
  match addressOf h n with
  | none => h
  | some (l, a) =>
    h.modLink l fun k =>
      { k with
        control := (k.control.filter fun p => !p.removedAtAbort a).map (Packet.disarm n a)
        line := k.line.map fun o => { o with packet := o.packet.disarm n a }
        rows := upd k.rows a fun r => { r with silence := none, pollWait := none, pollAwaited := false } }

/-- R58, R79: the abort of a screen; the caller sets the screen state. -/
def abort (n : Fin 8) (h : Hub) : Hub :=
  let h := abortAtLink n h
  let h := leaveSources n h
  let h := allBuffers.foldl (voidBuffer n) h
  let h := allAbsent n h
  let h := h.modEngine n fun e =>
    { e with cycle := none, showCount := 0, showTimer := none, lossWait := false, promptStart := false }
  leaveRunning n h

def setScreenState (n : Fin 8) (st : ScreenState) (h : Hub) : Hub := h.modScreen n fun x => { x with state := st }

/-- R104, R75: the screen becomes Lost. Its cycle is aborted, its lost poll timer starts and LOST goes out. -/
def becomeLost (n : Fin 8) (reason : LostReason) (h : Hub) : Hub :=
  let awaited : Option Half := if reason = .showUnanswered then some (h.screens[n].present + 1) else none
  let address := addressOf h n
  let link := (h.screens[n].link).getD 0
  let h := setScreenState n .lost (abort n h)
  let h :=
    match address with
    | some (l, a) => h.modRow l a fun r => { r with lostPoll := some Config.lostPollTicks }
    | none => h
  notify (screenPorts h n) .lost ([byteOfFin n, reason.code, byteOfFin link] ++ optional 2 be16 awaited) h

/-- R103, R104: the failure run of a Joined screen rises by one, stopping at 8; at 8 the screen becomes Lost. -/
def failureRise (n : Fin 8) (h : Hub) : Hub :=
  if h.screens[n].state = .joined then
    let h := h.modScreen n fun x => { x with failures := min Config.failureLimit (x.failures + 1) }
    if h.screens[n].failures = Config.failureLimit then becomeLost n .failures h else h
  else h

/-- R103: the failure run of a Joined screen returns to 0. -/
def failureClear (n : Fin 8) (h : Hub) : Hub :=
  if h.screens[n].state = .joined then h.modScreen n fun x => { x with failures := 0 } else h

/-! ### Counters of a link -/

/-- R131: a protocol fault. -/
def protocolFault (l : Fin 6) (address : Byte) (k : FaultKind) (h : Hub) : Hub :=
  let h := h.modLink l fun x => { x with protocolFaults := x.protocolFaults + 1 }
  notify (linkPorts h l) .protocol [byteOfFin l, address, k.code] h

/-- R100: a stray. R132: a packet from a stranger's address. -/
def countStray (l : Fin 6) (h : Hub) : Hub := h.modLink l fun x => { x with strays := x.strays + 1 }
def countStranger (l : Fin 6) (h : Hub) : Hub := h.modLink l fun x => { x with strangerPackets := x.strangerPackets + 1 }

end Sys2Proof.Machine
end

