-- ==== Sys2Proof/Machine/Cycle.lean ====
section
/-! DEFINITION. The present cycle (chapter 4) and the directory's part in it (chapter 3): targets and the walk
(R50, R51), the cycle start (R68, R69), gathering end (R71), SHOW and SHOWN (R73, R74), the show timer (R75, R76), the
cut (R78), LOSS (R56, R72), joint starts and releases of a group (R83, R84, R85). -/

namespace Sys2Proof.Machine

/-! ### Targets and the walk -/

/-- R50: background. -/
def backgroundTarget (x : Screen) : Target := { source := .background, signature := x.fillSignature.getD 0 }

/-- R50: the target of a tile of a surface, from its Newest slot. -/
def surfaceTarget (h : Hub) (x : Screen) (i : Fin 2) (column row : Nat) : Target :=
  match newestSlot h i, h.captures[i].size with
  | some k, some z =>
    let t := row * z.columns + column
    match h.slots[i][k].signatures[t]? with
    | some (some s) => { source := .surface i k t, signature := s }
    | _ => backgroundTarget x
  | _, _ => backgroundTarget x

/-- R34, R50: the target of a tile of a plate, from its live copy where the tile lies within the plate's size. -/
def plateTarget (h : Hub) (x : Screen) (p : Fin 16) (column row : Nat) : Target :=
  match h.plates[p].live, h.plates[p].size with
  | some c, some z =>
    if column < z.columns ∧ row < z.rows then
      let t := row * z.columns + column
      match h.plates[p].copies[c].signatures[t]? with
      | some (some s) => { source := .plate p c t, signature := s }
      | _ => backgroundTarget x
    else backgroundTarget x
  | _, _ => backgroundTarget x

/-- R44, R50: the target of entry `t` of a screen. -/
def targetOf (h : Hub) (x : Screen) (t : Nat) : Target :=
  let columns := (x.size.map (·.columns)).getD 1
  let column := t % columns
  let row := t / columns
  match visibleView x.layout column row with
  | none => backgroundTarget x
  | some v =>
    let sourceColumn := v.originColumn + (column - v.placeColumn)
    let sourceRow := v.originRow + (row - v.placeRow)
    match v.source with
    | .surface i => surfaceTarget h x i sourceColumn sourceRow
    | .plate p => plateTarget h x p sourceColumn sourceRow

/-- R51: the walk marks one entry. -/
def walkEntry (g : Target) (e : Entry) : Entry :=
  if e.held = some g.signature then { state := .held, held := e.held, target := some g }
  else { state := .behind, held := e.held, target := some g }

/-- R50, R51: every entry takes its target and is marked. -/
def setTargets (n : Fin 8) (h : Hub) : Hub :=
  h.modScreen n fun x => { x with entries := x.entries.mapIdx fun t e => walkEntry (targetOf h x t) e }

/-- R68 step 4, R72 step 3: the last-gathered numbers. -/
def recordSources (n : Fin 8) (h : Hub) : Hub :=
  h.modScreen n fun x =>
    { x with
      lastFrames := Vector.ofFn fun i =>
        if x.layout.names (.surface i) then (newestSlot h i).bind fun k => h.slots[i][k].number else none
      lastVersions := Vector.ofFn fun p =>
        if x.layout.names (.plate p) && h.plates[p].live.isSome then some h.plates[p].version else none }

/-- R47: the pending layout and fill colour are handed over. -/
def Screen.handOver (x : Screen) : Screen :=
  { x with
    layout := x.pendingLayout.getD x.layout
    pendingLayout := none
    fill := x.pendingFill.orElse fun _ => x.fill
    fillSignature := match x.pendingFill with
      | some c => some (fillSignatureOf c)
      | none => x.fillSignature
    pendingFill := none
    pendingFlag := false }

/-- R68 step 5. -/
def Engine.started (e : Engine) : Engine :=
  { e with paceCount := 0, promptStart := false, lossWait := false, showCount := 0, showTimer := none }

def setCycle (n : Fin 8) (c : CycleState) (h : Hub) : Hub := h.modEngine n fun e => { e with cycle := some c }

/-- R68, R69: the cycle start of a screen. -/
def startCycle (n : Fin 8) (h : Hub) : Hub :=
  let h := h.modScreen n Screen.handOver
  let h := joinSources n h
  let h := setTargets n h
  let h := recordSources n h
  let h := h.modEngine n Engine.started
  if hasEntry h.screens[n] .behind then setCycle n .gathering h
  else setCycle n .idle (dropTargets n (leaveSources n h))

/-! ### SHOW -/

def setScreens (l : List (Fin 8)) : ScreenSet :=
  l.foldl (fun (s : ScreenSet) (n : Fin 8) => s.set n true) ScreenSet.empty

/-- R73, R84: the screen is sent a first SHOW and becomes Presenting. -/
def presenting (n : Fin 8) (h : Hub) : Hub :=
  h.modEngine n fun e => { e with cycle := some .presenting, showCount := 1 }

/-- R73, R75: SHOW with the present number plus one to the screen's own address. -/
def handShow (n : Fin 8) (h : Hub) : Hub :=
  match addressOf h n with
  | none => h
  | some (l, a) => handPacket l (.showFrame (rowByte a) (h.screens[n].present + 1) (setScreens [n])) h

/-- R73: a Ready screen that is in no running set sends SHOW. -/
def showIfReady (h : Hub) (n : Fin 8) : Hub :=
  if h.screens[n].engine.cycle = some .ready ∧ inRunning h n = false then presenting n (handShow n h) else h

/-- R85: the SHOWs of a release on one link: one to the general address when two members carry the same number. -/
def releaseOnLink (running : ScreenSet) (h : Hub) (l : Fin 6) : Hub :=
  match running.members.filter fun n => (addressOf h n).map (·.1) == some l with
  | [n, m] =>
    if h.screens[n].present = h.screens[m].present then
      handPacket l (.showFrame 15 (h.screens[n].present + 1) (setScreens [n, m])) h
    else handShow m (handShow n h)
  | l => l.foldl (fun h n => handShow n h) h

/-- R84: the release of a group's running set. -/
def release (g : Fin 4) (h : Hub) : Hub :=
  let running := h.groups[g].running
  let h := allLinks.foldl (releaseOnLink running) h
  running.members.foldl (fun h n => presenting n h) h

/-! ### The steps of the engines, each taken where its condition holds -/

/-- R71: gathering ends: the screen leaves its sources and is Ready. -/
def endGathering (h : Hub) (n : Fin 8) : Hub :=
  if mayEndGathering h n then setCycle n .ready (leaveSources n h) else h

/-- R78: the cut ends with a cycle start, the pace gate ignored. -/
def endCut (h : Hub) (n : Fin 8) : Hub := if mayEndCut h n then startCycle n h else h

/-- R84. -/
def releaseGroup (h : Hub) (g : Fin 4) : Hub := if mayRelease h g then release g h else h

/-- R67. -/
def startScreen (h : Hub) (n : Fin 8) : Hub := if mayStart h n then startCycle n h else h

/-- R83: the joint start. -/
def jointly (g : Fin 4) (h : Hub) : Hub :=
  let active := activeMembers h g
  let h := active.foldl (fun h n => startCycle n h) h
  let gathering := active.filter fun n => h.screens[n].engine.cycle == some .gathering
  h.modGroup g fun x => { x with running := setScreens gathering, count := 0 }

def startGroup (h : Hub) (g : Fin 4) : Hub := if mayJointStart h g then jointly g h else h

/-! ### Seize and cut -/

/-- R78, R57: the cut of a Gathering screen. -/
def cut (n : Fin 8) (h : Hub) : Hub := setCycle n .cutting (dropTargets n (leaveSources n h))

/-- R77: what the present engine does at an accepted SEIZE. -/
def seizeCycle (n : Fin 8) (h : Hub) : Hub :=
  match h.screens[n].engine.cycle with
  | some .idle => startCycle n h
  | some .gathering => cut n h
  | some .cutting => h
  | some .ready => startCycle n h
  | some .presenting => h.modEngine n fun e => { e with promptStart := true }
  | none => h

/-! ### SHOWN and the show timer -/

/-- R74, R76: the cycle is over: Idle, out of the running set, and a prompt start if one is asked for. -/
def finishCycle (n : Fin 8) (h : Hub) : Hub :=
  let prompt := h.screens[n].engine.promptStart
  let h := h.modEngine n fun e =>
    { e with cycle := some .idle, showCount := 0, showTimer := none, lossWait := false }
  let h := leaveRunning n h
  if prompt then startCycle n h else h

/-- R74: a SHOWN with the awaited number. -/
def shownMatched (n : Fin 8) (h : Hub) : Hub :=
  let h := h.modScreen n fun x => { x with present := x.present + 1 }
  finishCycle n (dropTargets n (failureClear n h))

/-- R74: a SHOWN from a Joined screen. -/
def shownJoined (l : Fin 6) (address : Byte) (n : Fin 8) (number : Half) (h : Hub) : Hub :=
  let x := h.screens[n]
  if x.engine.cycle = some .presenting then
    if number = x.present + 1 then shownMatched n h else countStray l h
  else if number = x.present then countStray l h
  else protocolFault l address .shown h

def showTimerDue (h : Hub) (n : Fin 8) : Bool :=
  h.screens[n].engine.cycle == some .presenting && h.screens[n].engine.showTimer.due

/-- R75, R76: the expiry of the show timer. -/
def showTimerExpire (n : Fin 8) (h : Hub) : Hub :=
  if showTimerDue h n then
    let h := h.modEngine n fun e => { e with showTimer := none }
    if h.screens[n].engine.lossWait then finishCycle n h
    else
      let h := failureRise n h
      if h.screens[n].state ≠ .joined then h
      else if 3 ≤ h.screens[n].engine.showCount then becomeLost n .showUnanswered h
      else (handShow n h).modEngine n fun e => { e with showCount := e.showCount + 1 }
  else h

/-! ### LOSS -/

/-- R56: the entries at a LOSS taken in Gathering. -/
def Entry.lossGathering (e : Entry) : Entry := if e.state = .sending then e else e.behindUnknown

/-- R56: the entries at a LOSS taken in Cutting. -/
def Entry.lossCutting (e : Entry) : Entry := if e.state = .sending then e else { e with state := .absent, held := none }

/-- R72: a Ready screen returns to Gathering. -/
def returnToGathering (n : Fin 8) (h : Hub) : Hub :=
  setCycle n .gathering (recordSources n (setTargets n (joinSources n h)))

/-- R56, R72, R76: a LOSS from a Joined screen, by cycle state. -/
def lossJoined (n : Fin 8) (h : Hub) : Hub :=
  match h.screens[n].engine.cycle with
  | some .idle => allAbsent n h
  | some .gathering => modEntries n Entry.lossGathering h
  | some .cutting => modEntries n Entry.lossCutting h
  | some .ready => returnToGathering n (modEntries n Entry.behindUnknown h)
  | some .presenting => (allAbsent n h).modEngine n fun e => { e with lossWait := true }
  | none => h

end Sys2Proof.Machine
end

