-- ==== Sys2Proof/Machine/Delivery.lean ====
section
/-! DEFINITION. Transmit buffers (chapter 5): the arbiter's grant (R91, R92, R93), load end, the link transmitter (R95)
and the end of a TILE, the reply timer (R99) and the effect of a matched TAKEN or REFUSED on its buffer (R97, R98). -/

namespace Sys2Proof.Machine

/-! ### Grant and load -/

/-- R93: the bytes of a tile's source as they stand. -/
def sourceBytes (h : Hub) (n : Fin 8) : TileSource → List Byte
  | .surface i k t => h.dram.readBytes (Config.slotBase i.val k.val + t * Config.tileBytes) Config.tileBytes
  | .plate p c t => h.dram.readBytes (Config.copyBase p.val c.val + t * Config.tileBytes) Config.tileBytes
  | .background => fillTile ((h.screens[n].fill).getD default)

/-- R92: the row a grant to the link serves. -/
def grantRow (h : Hub) (l : Fin 6) : Fin 2 :=
  let next := h.links[l].nextRow
  if (eligibleScreen h l next).isSome then next else other next

/-- R92, R52, R93: a Free buffer is granted to the link and bound to the lowest-indexed Behind entry. -/
def grantTo (b : Fin 32) (l : Fin 6) (h : Hub) : Hub :=
  let a := grantRow h l
  match eligibleScreen h l a with
  | none => h
  | some n =>
    match firstBehind h.screens[n] with
    | none => h
    | some t =>
      let g := ((h.screens[n].entries[t]?).bind (·.target)).getD (backgroundTarget h.screens[n])
      let lend : Lend :=
        { phase := .loading, voided := false, link := l, row := a, screen := n, tile := t, source := g.source,
          signature := g.signature, inTransmission := false, replyTimer := none }
      let bytes := sourceBytes h n g.source
      let h := modEntry n t (fun e => { e with state := .sending }) h
      let h := h.modLink l fun k => { k with nextRow := other a }
      { h with
        buffers := h.buffers.set b (some lend)
        lastServed := l
        dram := h.dram.writeBytes (Config.bufferBase b.val) bytes }

/-- R91: the part after one grant, if a buffer is Free and a link asks. -/
def grantOnce (h : Hub) : Option Hub :=
  match lowestFreeBuffer h, nextAsking h with
  | some b, some l => some (grantTo b l h)
  | _, _ => none

/-- R91: grants follow one after another; each takes one of the 32 buffers. -/
def grants : Nat → Hub → Hub
  | 0, h => h
  | k + 1, h =>
    match grantOnce h with
    | some h => grants k h
    | none => h

/-- R93, R101: load end. -/
def loadEnds (b : Fin 32) (h : Hub) : Hub :=
  match h.buffers[b] with
  | none => h
  | some x =>
    if x.phase = .loading then
      if x.voided then freeBuffer b h
      else
        (h.modBuffer b fun y => { y with phase := .queued }).modLink x.link fun k => { k with tiles := k.tiles ++ [b] }
    else h

/-! ### The link transmitter (R95) -/

/-- R95: the TILE packet of a Queued buffer. -/
def tilePacket (h : Hub) (b : Fin 32) (x : Lend) : Packet :=
  .tile b x.row x.tile x.signature (h.dram.readBytes (Config.bufferBase b.val) Config.tileBytes)

/-- R95: when the line is free the transmitter takes the oldest control packet, or else, while the link is Up, the
oldest Queued buffer. -/
def transmitNext (h : Hub) (l : Fin 6) : Hub :=
  let k := h.links[l]
  if k.line.isSome then h
  else
    match k.control with
    | p :: rest =>
      if k.state = .rolling ∨ k.state = .up then
        h.modLink l fun k => { k with control := rest, line := some { packet := p, dead := false } }
      else h
    | [] =>
      match k.tiles with
      | b :: rest =>
        match h.buffers[b] with
        | some x =>
          if k.state = .up then
            (h.modBuffer b fun y => { y with inTransmission := true }).modLink l fun k =>
              { k with tiles := rest, line := some { packet := tilePacket h b x, dead := false } }
          else h
        | none => h
      | [] => h

/-- The line is free again. -/
def clearLine (l : Fin 6) (h : Hub) : Hub := h.modLink l fun k => { k with line := none }

/-- R95: the end of a TILE: its buffer is Sent and its reply timer starts. -/
def tileSent (l : Fin 6) (b : Fin 32) (h : Hub) : Hub :=
  let h := h.modBuffer b fun x =>
    { x with phase := .sent, inTransmission := false, replyTimer := some Config.replyTicks }
  h.modLink l fun k => { k with sentOrder := k.sentOrder ++ [b] }

/-- R73, R84: the end of a SHOW starts the show timers of the screens it was for, while they await its number. -/
def startShowTimers (number : Half) (screens : ScreenSet) (h : Hub) : Hub :=
  screens.members.foldl (fun h n =>
    if h.screens[n].engine.cycle = some .presenting ∧ number = h.screens[n].present + 1 then
      h.modEngine n fun e => { e with showTimer := some Config.showTicks }
    else h) h

/-! ### Replies and the reply timer -/

/-- R97: a TAKEN matched to a buffer. -/
def takenMatched (b : Fin 32) (x : Lend) (s : Signature) (h : Hub) : Hub :=
  let h := freeBuffer b h
  if x.voided then h
  else if s = x.signature then failureClear x.screen (modEntry x.screen x.tile (Entry.takenGood s) h)
  else failureRise x.screen (modEntry x.screen x.tile Entry.behindUnknown h)

/-- R98: the reasons of a REFUSED (R194). -/
inductive RefusedReason where
  | check
  | full
  | lost
  deriving DecidableEq, Repr, Inhabited

def refusedReasonOf (b : Byte) : Option RefusedReason :=
  if b = 0 then some .check else if b = 1 then some .full else if b = 2 then some .lost else none

/-- R98: a REFUSED matched to a buffer; the check-failure count is the caller's (R105). -/
def refusedMatched (b : Fin 32) (x : Lend) (r : RefusedReason) (h : Hub) : Hub :=
  let h := freeBuffer b h
  if x.voided then h
  else
    match r with
    | .check => failureRise x.screen (modEntry x.screen x.tile Entry.behindKept h)
    | .full => modEntry x.screen x.tile Entry.behindKept h
    | .lost => modEntry x.screen x.tile Entry.behindUnknown h

def replyTimerDue (h : Hub) (b : Fin 32) : Bool :=
  match h.buffers[b] with
  | some x => x.phase == .sent && x.replyTimer.due
  | none => false

/-- R99: the expiry of the reply timer of a Sent buffer. -/
def replyTimerExpire (b : Fin 32) (h : Hub) : Hub :=
  if replyTimerDue h b then
    match h.buffers[b] with
    | none => h
    | some x =>
      let h := freeBuffer b h
      if x.voided then h else failureRise x.screen (modEntry x.screen x.tile Entry.behindUnknown h)
  else h

end Sys2Proof.Machine
end

