-- ==== Sys2Proof/Machine/Links.lean ====
section
/-! DEFINITION. The link engines (chapter 6): disable and reset (R111, R112), training (R113), rolling (R114 to R117),
keeping screens alive (R118 to R120), parking and waking (R123 to R127), check failures and the rate fallback (R105,
R106), and the taking of upstream packets (R129, R131 to R133, R195). -/

namespace Sys2Proof.Machine

/-! ### Clearing a link -/

/-- R108: every row unassigned with every timer stopped. -/
def Link.clearRows (k : Link) : Link := { k with rows := Vector.replicate 2 AddressRow.reset }

/-- R111 step 3, R112 step 3: every screen bound to the link that is Joined, Lost or Parked is aborted and becomes
Missing. -/
def dropScreens (l : Fin 6) (h : Hub) : Hub :=
  (boundTo h l).foldl (fun h n =>
    if h.screens[n].state = .joined ∨ h.screens[n].state = .lost ∨ h.screens[n].state = .parked then
      setScreenState n .missing (abort n h)
    else h) h

/-- R107: the fields a reset and a disable of the link clear; with them the rate kept for R122 (log 25). -/
def Link.cleared (k : Link) : Link :=
  { k.clearRows with
    rate := none, parkPending := false, checkFailures := 0, nextRow := 0, hold := none, attempt := none,
    retry := none, warm := none, rollWait := none, offered := none, control := [], tiles := [], sentOrder := [],
    cutRate := none }

/-- R111: a disable of a link that is not Off. The packet on the line is finished without effect. -/
def disableLink (l : Fin 6) (h : Hub) : Hub :=
  let h := freeLinkBuffers l h
  let h := dropScreens l h
  h.modLink l fun k =>
    { k.cleared with enabled := false, state := .off, line := k.line.map fun o => { o with dead := true } }

/-- R112 step 6, R110: the hold stage begins; a packet on the line is cut off. The rate at which the line was locked is
kept for a loss of lock that came together with the cause (R122, log 25). -/
def Link.enterHold (k : Link) : Link :=
  { k.cleared with state := .training .hold, hold := some Config.holdTicks, line := none, cutRate := k.rate }

/-- R112: a reset of the link with the current cap that step 5 gives. In the hold stage only the timer starts again;
Off, Parked and Waking links do not reset. -/
def resetLink (l : Fin 6) (cap : LinkRate) (h : Hub) : Hub :=
  match h.links[l].state with
  | .training .hold => h.modLink l fun k => { k with currentCap := cap, hold := some Config.holdTicks }
  | .training (.attempt _) | .rolling | .up | .down =>
    let h := freeLinkBuffers l h
    let h := dropScreens l h
    h.modLink l fun k => { k.enterHold with currentCap := cap }
  | .off | .parked | .waking => h.modLink l fun k => { k with currentCap := cap, checkFailures := 0 }

/-- R121: the reset of a link whose bound screens are lost. -/
def resetIfAllLost (h : Hub) (l : Fin 6) : Hub := if allLost h l then resetLink l h.links[l].currentCap h else h

/-! ### Check failures -/

/-- R106: the rate fallback. -/
def rateFallback (l : Fin 6) (h : Hub) : Hub :=
  let cap := h.links[l].currentCap.lower
  let h := h.modLink l fun k => { k with currentCap := cap }
  let h := notify (linkPorts h l) .linkFault [byteOfFin l, faultRate, cap.code] h
  resetLink l cap (h.modLink l fun k => { k with checkFailures := 0 })

/-- R105: the check-failure count rises; at 16 the rate falls back. -/
def checkFailure (l : Fin 6) (h : Hub) : Hub :=
  let h := h.modLink l fun k => { k with checkFailures := k.checkFailures + 1 }
  if Config.checkFailureLimit ≤ h.links[l].checkFailures then rateFallback l h else h

/-- R105: an upstream packet that fails its check, while the receiver takes packets. -/
def upstreamFailure (l : Fin 6) (h : Hub) : Hub := if receiverOpen h.links[l] then checkFailure l h else h

/-! ### Training (R113) -/

/-- R113: an attempt at a rate. -/
def Link.beginAttempt (r : LinkRate) (k : Link) : Link :=
  { k with
    state := .training (.attempt r), hold := none, retry := none, warm := none, attempt := some Config.attemptTicks,
    cutRate := none }

def holdDue (h : Hub) (l : Fin 6) : Bool := h.links[l].state == .training .hold && h.links[l].hold.due
def retryDue (h : Hub) (l : Fin 6) : Bool := h.links[l].state == .down && h.links[l].retry.due
def warmDue (h : Hub) (l : Fin 6) : Bool := h.links[l].state == .waking && h.links[l].warm.due

def attemptRate (k : Link) : Option LinkRate :=
  match k.state with
  | .training (.attempt r) => some r
  | _ => none

def attemptDue (h : Hub) (l : Fin 6) : Bool := (attemptRate h.links[l]).isSome && h.links[l].attempt.due

/-- R113: the hold ends. -/
def holdExpire (l : Fin 6) (h : Hub) : Hub :=
  if holdDue h l then h.modLink l fun k => k.beginAttempt k.currentCap else h

/-- R113: an attempt fails. -/
def attemptExpire (l : Fin 6) (h : Hub) : Hub :=
  if attemptDue h l then
    match attemptRate h.links[l] with
    | some .six => h.modLink l (Link.beginAttempt .three)
    | some .three => h.modLink l (Link.beginAttempt .oneHalf)
    | some .oneHalf =>
      let h := h.modLink l fun k => { k with state := .down, attempt := none, retry := some Config.retryTicks }
      notify (linkPorts h l) .linkFault [byteOfFin l, faultTrain, h.links[l].currentCap.code] h
    | none => h
  else h

/-- R113: the wait in Down ends. -/
def retryExpire (l : Fin 6) (h : Hub) : Hub :=
  if retryDue h l then h.modLink l fun k => k.beginAttempt k.currentCap else h

/-- R127: Waking ends. -/
def warmExpire (l : Fin 6) (h : Hub) : Hub :=
  if warmDue h l then h.modLink l fun k => k.beginAttempt k.currentCap else h

/-- R114: entering Rolling clears the table and offers address 1. -/
def Link.enterRolling (r : LinkRate) (k : Link) : Link :=
  { k.clearRows with
    state := .rolling, attempt := none, rate := some r, rollWait := none, offered := none,
    control := k.control ++ [.roll 0] }

/-- R113: lock is reported at a rate; with no attempt at that rate the report is discarded. -/
def lockReported (l : Fin 6) (r : LinkRate) (h : Hub) : Hub :=
  if attemptRate h.links[l] = some r then h.modLink l (Link.enterRolling r) else h

/-- R122: the rate at which a loss of lock finds the line locked: the current rate in Rolling and Up, and in the hold the
rate that the reset taken first has cut (log 25). In any other state lock cannot be lost. -/
def lockedRate (k : Link) : Option LinkRate :=
  match k.state with
  | .rolling | .up => some (k.rate.getD k.currentCap)
  | .training .hold => k.cutRate
  | .training (.attempt _) | .off | .parked | .waking | .down => none

/-- R122: loss of lock. Taken second, it finds the link in the hold and starts the hold again. -/
def lockLost (l : Fin 6) (h : Hub) : Hub :=
  match lockedRate h.links[l] with
  | none => h
  | some rate =>
    let h := notify (linkPorts h l) .linkFault [byteOfFin l, faultLock, rate.code] h
    (resetLink l h.links[l].currentCap h).modLink l fun k => { k with cutRate := none }

/-! ### Rolling (R114 to R117) -/

/-- R114: the end of a ROLL starts the roll wait for the address it offers. -/
def rollSent (l : Fin 6) (a : Fin 2) (h : Hub) : Hub :=
  h.modLink l fun k => { k with rollWait := some Config.rollTicks, offered := some a }

/-- R117: a screen of the link not found by the rolling. -/
def reportMissing (l : Fin 6) (h : Hub) (n : Fin 8) : Hub :=
  if h.screens[n].state = .missing ∨ h.screens[n].state = .parked then
    let h := setScreenState n .missing h
    notify (screenPorts h n) .lost ([byteOfFin n, LostReason.missing.code, byteOfFin l] ++ optional 2 be16 none) h
  else h

/-- R117: the silence timer of a row whose screen is Joined starts. -/
def startSilence (l : Fin 6) (h : Hub) (a : Fin 2) : Hub :=
  match h.links[l].rows[a].assignment with
  | .screen n =>
    if h.screens[n].state = .joined then h.modRow l a fun r => { r with silence := some Config.linkSilenceTicks } else h
  | _ => h

/-- R117: rolling ends and the link is Up. -/
def endRolling (l : Fin 6) (h : Hub) : Hub :=
  let h := h.modLink l fun k => { k with state := .up, rollWait := none, offered := none }
  let h := (boundTo h l).foldl (reportMissing l) h
  allRows.foldl (startSilence l) h

def rollDue (h : Hub) (l : Fin 6) : Bool := h.links[l].state == .rolling && h.links[l].rollWait.due

/-- R114: the roll wait expires. -/
def rollExpire (l : Fin 6) (h : Hub) : Hub := if rollDue h l then endRolling l h else h

/-- R115, R120, R59: the screen becomes Joined at a row with a credit, LEVEL is handed on and JOINED goes out. -/
def joinScreen (l : Fin 6) (a : Fin 2) (n : Fin 8) (credit : Byte) (h : Hub) : Hub :=
  let h := h.modRow l a fun r => { r with assignment := .screen n, credit := some credit.toNat }
  let h := allAbsent n (setScreenState n .joined h)
  let h := h.modScreen n fun x => { x with failures := 0, engine := { x.engine with cycle := some .idle } }
  let h := handPacket l (.level a h.screens[n].level.current) h
  notify (screenPorts h n) .joined [byteOfFin n, byteOfFin l, rowByte a, credit] h

def creditInRange (c : Byte) : Bool := decide (1 ≤ c.toNat) && decide (c.toNat ≤ 16)

/-- R115: the screen bound to the link, Missing or Parked, that has the identity. -/
def awaitedScreen (h : Hub) (l : Fin 6) (identity : Identity) : Option (Fin 8) :=
  (boundTo h l).find? fun n =>
    (h.screens[n].state == .missing || h.screens[n].state == .parked) && h.screens[n].identity == some identity

/-- R115: a HELLO judged: the screen it matches, or the reason why its sender is a stranger. -/
def judgeHello (h : Hub) (l : Fin 6) (identity : Identity) (credit columns rows : Byte) :
    Except StrangerReason (Fin 8) :=
  match awaitedScreen h l identity with
  | none => .error .unknown
  | some n =>
    if h.screens[n].size ≠ some { columns := columns.toNat, rows := rows.toNat } then .error .size
    else if !creditInRange credit then .error .credit
    else .ok n

/-- R115: a stranger at a row. -/
def admitStranger (l : Fin 6) (a : Fin 2) (identity : Identity) (reason : StrangerReason) (credit columns rows : Byte)
    (h : Hub) : Hub :=
  let h := h.modRow l a fun r => { r with assignment := .stranger identity }
  let h := handPacket l (.blank a { red := 0, green := 0, blue := 0 }) h
  notify (linkPorts h l) .stranger
    ([byteOfFin l, rowByte a] ++ be48 identity ++ [reason.code, credit, columns, rows]) h

/-- R114: after the judgement the next address is offered, or rolling ends. -/
def afterHello (l : Fin 6) (a : Fin 2) (h : Hub) : Hub :=
  if a = 0 then handPacket l (.roll 1) h else endRolling l h

/-- R115: a HELLO for the address offered. -/
def helloJudged (l : Fin 6) (a : Fin 2) (identity : Identity) (credit columns rows : Byte) (h : Hub) : Hub :=
  let verdict := judgeHello h l identity credit columns rows
  let h := h.modLink l fun k => { k with rollWait := none, offered := none }
  let h := match verdict with
    | .ok n => joinScreen l a n credit h
    | .error reason => admitStranger l a identity reason credit columns rows h
  afterHello l a h

/-! ### Upstream packets (R129, R131 to R133, R195) -/

/-- R118: a packet that passes its check starts the silence timer of its address again, while it runs or may run. -/
def touchSilence (l : Fin 6) (address : Byte) (h : Hub) : Hub :=
  match rowOf address with
  | none => h
  | some a =>
    match h.links[l].rows[a].assignment with
    | .screen n =>
      if h.screens[n].state = .joined ∧ h.links[l].state = .up ∧ h.links[l].rows[a].pollAwaited = false then
        h.modRow l a fun r => { r with silence := some Config.linkSilenceTicks }
      else h
    | _ => h

/-- R129, R195: how an upstream packet of a listed kind is taken by its address: a stranger's, an unassigned one, or a
screen's. -/
inductive Sender where
  | stranger (row : Fin 2)
  | unassigned
  | screen (row : Fin 2) (n : Fin 8)
  deriving DecidableEq, Repr, Inhabited

def senderOf (h : Hub) (l : Fin 6) (address : Byte) : Sender :=
  match rowOf address with
  | none => .unassigned
  | some a =>
    match h.links[l].rows[a].assignment with
    | .unassigned => .unassigned
    | .screen n => .screen a n
    | .stranger _ => .stranger a

/-- R109, R195: a packet that has passed its check is taken while the receiver takes packets; an address byte above 15
fails the layout and is a check failure (R195 case 2). The silence timer starts again first (R118). -/
def takePacket (l : Fin 6) (address : Byte) (f : Hub → Hub) (h : Hub) : Hub :=
  if !receiverOpen h.links[l] then h
  else if 15 < address.toNat then checkFailure l h
  else f (touchSilence l address h)

/-- R129: a packet other than HELLO: R132 from a stranger, R131 from an unassigned address, else by its own rule. -/
def bySender (l : Fin 6) (address : Byte) (f : Fin 2 → Fin 8 → Hub → Hub) (h : Hub) : Hub :=
  match senderOf h l address with
  | .stranger _ => countStranger l h
  | .unassigned => protocolFault l address .address h
  | .screen a n => f a n h

/-- R96, R97, R100, R132: a TAKEN. -/
def takenTaken (l : Fin 6) (address : Byte) (tile : Half) (s : Signature) (h : Hub) : Hub :=
  match senderOf h l address with
  | .unassigned => protocolFault l address .address h
  | .stranger a =>
    match matchSent h l a tile.toNat with
    | some b => match h.buffers[b] with
      | some x => takenMatched b x s h
      | none => countStranger l h
    | none => countStranger l h
  | .screen a _ =>
    match matchSent h l a tile.toNat with
    | some b => match h.buffers[b] with
      | some x => takenMatched b x s h
      | none => countStray l h
    | none => countStray l h

/-- R105: a REFUSED with reason check raises the check-failure count. -/
def countIfCheck (l : Fin 6) (r : RefusedReason) (h : Hub) : Hub := if r = .check then checkFailure l h else h

/-- R96, R98, R100, R131, R132: a REFUSED. From a stranger's address a reason above 2 matches no buffer (R98), so that
the packet is dropped and counted as a stranger's (R132) and is no protocol fault of kind reason (DEDUCED, log 30). -/
def refusedTaken (l : Fin 6) (address : Byte) (tile : Half) (reason : Byte) (h : Hub) : Hub :=
  match senderOf h l address with
  | .unassigned => protocolFault l address .address h
  | .stranger a =>
    match refusedReasonOf reason, matchSent h l a tile.toNat with
    | some r, some b => match h.buffers[b] with
      | some x => countIfCheck l r (refusedMatched b x r h)
      | none => countStranger l h
    | _, _ => countStranger l h
  | .screen a _ =>
    match refusedReasonOf reason with
    | none => protocolFault l address .reason h
    | some r =>
      match matchSent h l a tile.toNat with
      | some b => match h.buffers[b] with
        | some x => countIfCheck l r (refusedMatched b x r h)
        | none => countIfCheck l r (countStray l h)
      | none => countIfCheck l r (countStray l h)

/-- R74, R131: a SHOWN. -/
def shownTaken (l : Fin 6) (address : Byte) (number : Half) (h : Hub) : Hub :=
  bySender l address (fun _ n h =>
    if h.screens[n].state = .joined then shownJoined l address n number h else protocolFault l address .shown h) h

/-- R56, R131: a LOSS. -/
def lossTaken (l : Fin 6) (address : Byte) (h : Hub) : Hub :=
  bySender l address (fun _ n h =>
    if h.screens[n].state = .joined then lossJoined n h else protocolFault l address .loss h) h

/-- R133: a NOTE whose payload fits. -/
def noteTaken (l : Fin 6) (address : Byte) (payload : List Byte) (h : Hub) : Hub :=
  bySender l address (fun _ n h =>
    if h.screens[n].state = .joined then
      notify (screenPorts h n) .touch (byteOfFin n :: counted (fun b => [b]) payload) h
    else countStranger l h) h

/-- R129, R131: a packet of no listed kind, from an address that is not a stranger's. -/
def unlistedTaken (l : Fin 6) (address : Byte) (h : Hub) : Hub :=
  match senderOf h l address with
  | .stranger _ => countStranger l h
  | .unassigned => protocolFault l address .kind h
  | .screen _ _ => protocolFault l address .kind h

/-- R115, R116, R129, R131: a HELLO. From a stranger's address it is dropped and counted as a stranger's (R129, R132) and
is no protocol fault of kind hello, the second HELLO for one offer among them (R130; DEDUCED, log 31). -/
def helloTaken (l : Fin 6) (address : Byte) (identity : Identity) (credit columns rows : Byte) (h : Hub) : Hub :=
  match senderOf h l address with
  | .stranger _ => countStranger l h
  | _ =>
    let k := h.links[l]
    match rowOf address with
    | none => protocolFault l address .hello h
    | some a =>
      if k.state = .rolling ∧ k.rollWait.isSome ∧ k.offered = some a then
        helloJudged l a identity credit columns rows h
      else protocolFault l address .hello h

/-- R119: a STATE that ends a keep-alive wait. -/
def stateAnswered (l : Fin 6) (a : Fin 2) (n : Fin 8) (h : Hub) : Hub :=
  failureClear n (h.modRow l a fun r =>
    { r with pollWait := none, pollAwaited := false, silence := some Config.linkSilenceTicks })

/-- R120: a STATE that returns a Lost screen. -/
def returnLost (l : Fin 6) (a : Fin 2) (n : Fin 8) (credit : Byte) (h : Hub) : Hub :=
  let h := h.modRow l a fun r => { r with lostPoll := none, silence := some Config.linkSilenceTicks }
  joinScreen l a n credit h

/-- R119, R120, R124, R131: a STATE. -/
def stateTaken (l : Fin 6) (address credit : Byte) (h : Hub) : Hub :=
  bySender l address (fun a n h =>
    match h.screens[n].state with
    | .joined => if h.links[l].rows[a].pollWait.isSome then stateAnswered l a n h else countStray l h
    | .lost => if creditInRange credit then returnLost l a n credit h else protocolFault l address .credit h
    | .parked => countStranger l h
    | .missing => countStray l h
    | .unbound => countStray l h) h

/-! ### Keep-alive timers (R118 to R120) -/

def silenceDue (h : Hub) (l : Fin 6) (a : Fin 2) : Bool := h.links[l].rows[a].silence.due
def pollWaitDue (h : Hub) (l : Fin 6) (a : Fin 2) : Bool := h.links[l].rows[a].pollWait.due
def lostPollDue (h : Hub) (l : Fin 6) (a : Fin 2) : Bool := h.links[l].rows[a].lostPoll.due

/-- R119: 20 ms of silence hand a keep-alive POLL on. -/
def silenceLinkExpire (l : Fin 6) (a : Fin 2) (h : Hub) : Hub :=
  if silenceDue h l a then
    handPacket l (.poll a true) (h.modRow l a fun r => { r with silence := none, pollAwaited := true })
  else h

/-- R119: the end of a keep-alive POLL starts the poll wait. -/
def pollSent (l : Fin 6) (a : Fin 2) (keepAlive : Bool) (h : Hub) : Hub :=
  if keepAlive ∧ h.links[l].rows[a].pollAwaited then h.modRow l a fun r => { r with pollWait := some Config.pollTicks }
  else h

/-- R119: the poll wait expires. -/
def pollWaitExpire (l : Fin 6) (a : Fin 2) (h : Hub) : Hub :=
  if pollWaitDue h l a then
    let h := h.modRow l a fun r =>
      { r with pollWait := none, pollAwaited := false, silence := some Config.linkSilenceTicks }
    match h.links[l].rows[a].assignment with
    | .screen n => failureRise n h
    | _ => h
  else h

/-- R120: a Lost screen is polled and the timer starts again. -/
def lostPollExpire (l : Fin 6) (a : Fin 2) (h : Hub) : Hub :=
  if lostPollDue h l a then
    handPacket l (.poll a false) (h.modRow l a fun r => { r with lostPoll := some Config.lostPollTicks })
  else h

/-! ### Parking and waking (R124 to R127) -/

/-- R127: the link enters Waking. -/
def Link.enterWaking (k : Link) : Link := { k with state := .waking, rate := none, warm := some k.warmUp.ticks }

/-- R125: a wake is taken. -/
def takeWake (l : Fin 6) (h : Hub) : Hub :=
  let h := notify (linkPorts h l) .wake [byteOfFin l] h
  if h.links[l].autoWake then h.modLink l Link.enterWaking else h

/-- R124, R153: a bound screen at the park of its link. -/
def parkScreen (h : Hub) (n : Fin 8) : Hub :=
  if h.screens[n].state = .joined ∨ h.screens[n].state = .lost ∨ h.screens[n].state = .missing then
    (setScreenState n .parked (abort n h)).modLevel n fun v => { v with current := 0 }
  else h

def AddressRow.stopTimers (r : AddressRow) : AddressRow :=
  { r with silence := none, pollWait := none, lostPoll := none, pollAwaited := false }

/-- R124: the end of PARK. -/
def parkSent (l : Fin 6) (h : Hub) : Hub :=
  let h := h.modLink l fun k => { k with parkPending := false, state := .parked, control := [] }
  let h := (boundTo h l).foldl parkScreen h
  let h := h.modLink l fun k => { k with rows := k.rows.map AddressRow.stopTimers }
  if h.links[l].wakeMode = .level ∧ h.links[l].wakeLine then takeWake l h else h

/-- R125: the wake line changes. A rising edge wakes in edge mode; in level mode the assertion does. -/
def wakeLineChanged (l : Fin 6) (asserted : Bool) (h : Hub) : Hub :=
  let rises := asserted && !h.links[l].wakeLine
  let h := h.modLink l fun k => { k with wakeLine := asserted }
  if rises ∧ h.links[l].state = .parked then takeWake l h else h

/-! ### The end of a transmission (R95): one rule for every kind of packet -/

/-- What is on the line, if its end of transmission is to have its effect. -/
def livePacket (k : Link) : Option Packet :=
  match k.line with
  | some o => if o.dead then none else some o.packet
  | none => none

/-- R195 with R194: the upstream kinds. -/
def listedUpstream (kind : Byte) : Bool := decide (0x81 ≤ kind.toNat) && decide (kind.toNat ≤ 0x87)

end Sys2Proof.Machine
end

