-- ==== Sys2Proof/Decode.lean ====
section
/-! DEFINITION. Words and packets read as commands: no row of the table gives bits, so no word spells a command; the bytes
of an upstream packet are judged whole (R194, R195) and are one of the packet commands. -/

namespace Sys2Proof

/-- No row of spec/opcode_table.json gives bits. -/
def decodeTableWord (_nbits _w : Nat) : Option Instr := none

/-- R194: a packet taken apart: address, kind, payload and check value. None where the bytes between the line's marks are
not the P + 6 that its length field names: no rule says how such a packet is judged, and the model takes it as one whose
check fails (DESIGN CHOICE, log 29). -/
def splitPacket : List Byte → Option (Byte × Byte × List Byte × BitVec 16)
  | address :: kind :: p1 :: p0 :: rest =>
    let n := (Machine.of16 p1 p0).toNat
    if rest.length = n + 2 then
      some (address, kind, rest.take n, Machine.of16 (rest.getD n 0) (rest.getD (n + 1) 0))
    else none
  | _ => none

/-- R195 case 2: a payload that fails its kind's length, or a NOTE its count, is a check failure. -/
def orFailure (l : Fin 6) (x : Option Instr) : Instr := x.getD (.upstreamCheckFailure l)

def takenPayload (l : Fin 6) (address : Byte) : List Byte → Option Instr
  | [t1, t0, s3, s2, s1, s0] => some (.taken l address (Machine.of16 t1 t0) (Machine.of32 s3 s2 s1 s0))
  | _ => none

def refusedPayload (l : Fin 6) (address : Byte) : List Byte → Option Instr
  | [t1, t0, reason] => some (.refused l address (Machine.of16 t1 t0) reason)
  | _ => none

def shownPayload (l : Fin 6) (address : Byte) : List Byte → Option Instr
  | [n1, n0] => some (.shown l address (Machine.of16 n1 n0))
  | _ => none

def lossPayload (l : Fin 6) (address : Byte) : List Byte → Option Instr
  | [] => some (.loss l address)
  | _ => none

def notePayload (l : Fin 6) (address : Byte) : List Byte → Option Instr
  | count :: bytes => if bytes.length = count.toNat ∧ bytes.length ≤ 16 then some (.note l address bytes) else none
  | [] => none

def helloPayload (l : Fin 6) (address : Byte) : List Byte → Option Instr
  | [b5, b4, b3, b2, b1, b0, credit, columns, rows] =>
    some (.hello l address (Machine.of48 b5 b4 b3 b2 b1 b0) credit columns rows)
  | _ => none

def statePayload (l : Fin 6) (address : Byte) : List Byte → Option Instr
  | [credit] => some (.state l address credit)
  | _ => none

/-- R195 cases 2 and 3: the payload of a listed kind by its layout (R194), and the kinds not listed. -/
def payloadCommand (l : Fin 6) (address kind : Byte) (payload : List Byte) : Instr :=
  if kind = 0x81 then orFailure l (takenPayload l address payload)
  else if kind = 0x82 then orFailure l (refusedPayload l address payload)
  else if kind = 0x83 then orFailure l (shownPayload l address payload)
  else if kind = 0x84 then orFailure l (lossPayload l address payload)
  else if kind = 0x85 then orFailure l (notePayload l address payload)
  else if kind = 0x86 then orFailure l (helloPayload l address payload)
  else if kind = 0x87 then orFailure l (statePayload l address payload)
  else .packetOfNoListedKind l address kind

/-- R195: the command that the bytes of an upstream packet are. -/
def packetCommand (l : Fin 6) (bytes : List Byte) : Instr :=
  match splitPacket bytes with
  | none => .upstreamCheckFailure l
  | some (address, kind, payload, check) =>
    if Machine.crc16 (bytes.take (payload.length + 4)) ≠ check then .upstreamCheckFailure l
    else if 15 < address.toNat then .upstreamCheckFailure l
    else payloadCommand l address kind payload

/-- R194: the bytes of the upstream packet that a command is, where it is one. -/
def upstreamBytes : Instr → Option (List Byte)
  | .taken _ address tile s => some (Machine.packetBytes address 0x81 (Machine.be16 tile ++ Machine.be32 s))
  | .refused _ address tile reason => some (Machine.packetBytes address 0x82 (Machine.be16 tile ++ [reason]))
  | .shown _ address number => some (Machine.packetBytes address 0x83 (Machine.be16 number))
  | .loss _ address => some (Machine.packetBytes address 0x84 [])
  | .note _ address payload => some (Machine.packetBytes address 0x85 (Machine.counted (fun b => [b]) payload))
  | .hello _ address identity credit columns rows =>
    some (Machine.packetBytes address 0x86 (Machine.be48 identity ++ [credit, columns, rows]))
  | .state _ address credit => some (Machine.packetBytes address 0x87 [credit])
  | _ => none

end Sys2Proof
end

