-- ==== Sys2Proof/Machine/Inputs.lean ====
section
/-! DEFINITION. Capture units and frame slots (chapter 1): tears (R8), frame starts (R9, R10), lines (R11), frame ends
(R12), silence (R7), and what INPUT-SET does to an input (R4, R5, R6). -/

namespace Sys2Proof.Machine

/-- R8: the open frame is torn; the caller sets the input state. -/
def tear (i : Fin 2) (r : TearReason) (h : Hub) : Hub :=
  let h := match h.captures[i].filling with
    | some k => h.modSlot i k fun _ => Slot.free
    | none => h
  let h := h.modCapture i fun c => { c with filling := none, lines := 0, running := [], torn := c.torn + 1 }
  notify (inputPorts h i) .torn ([byteOfFin i, r.code] ++ be32 h.captures[i].frames) h

def setInput (i : Fin 2) (s : InputState) (h : Hub) : Hub := h.modCapture i fun c => { c with state := s }

/-- R7: a SILENT notice with condition silent (0) or resumed (1). -/
def sendSilent (i : Fin 2) (condition : Byte) (h : Hub) : Hub :=
  notify (inputPorts h i) .silent ([byteOfFin i, condition] ++ be16 h.captures[i].silences) h

/-! ### Frame starts -/

/-- R13: the frame number of the Newest slot, absent when there is none. -/
def newestNumber (h : Hub) (i : Fin 2) : Option (BitVec 32) := (newestSlot h i).bind fun k => h.slots[i][k].number

/-- R9, R13: a dropped frame. -/
def dropFrame (i : Fin 2) (h : Hub) : Hub :=
  let armed := h.captures[i].dropArmed
  let h := h.modCapture i fun c => { c with state := .waiting, drops := c.drops + 1, dropArmed := false }
  if armed then
    notify (inputPorts h i) .dropped
      ([byteOfFin i] ++ be16 h.captures[i].drops ++ optional 4 be32 (newestNumber h i)) h
  else h

/-- R9: the frame takes the slot. -/
def beginFilling (i : Fin 2) (k : Fin 3) (h : Hub) : Hub :=
  let size := h.captures[i].size.getD { columns := 0, rows := 0 }
  let h := h.modSlot i k fun _ =>
    { state := .filling, number := none, size := some size, signatures := List.replicate size.tiles none,
      readers := ScreenSet.empty }
  h.modCapture i fun c =>
    { c with
      state := .filling, filling := some k, lines := 0, running := List.replicate size.columns signatureStart }

/-- R9: a frame start taken in Waiting or Silent, after its notice. -/
def acceptFrame (i : Fin 2) (h : Hub) : Hub :=
  let h := h.modCapture i fun c => { c with silence := some Config.silenceTicks }
  match freeSlot h i with
  | some k => beginFilling i k h
  | none => dropFrame i h

/-- R1, R7, R9, R10: a frame start, by input state. -/
def frameStarts (i : Fin 2) (h : Hub) : Hub :=
  match h.captures[i].state with
  | .off => h
  | .waiting => acceptFrame i h
  | .filling => acceptFrame i (tear i .restart h)
  | .silent => acceptFrame i (sendSilent i 1 h)

/-! ### Lines -/

/-- R11: the 120 bytes that a line adds to the tile column `c`. -/
def lineBytes (pixels : List Colour) (c : Nat) : List Byte := ((pixels.drop (40 * c)).take 40).flatMap Colour.bytes

/-- R11: where line `y` of a surface of `w` columns lies within tile column `c` of the slot region. -/
def lineAddress (i : Fin 2) (k : Fin 3) (w y c : Nat) : Nat :=
  Config.slotBase i.val k.val + (y / 40 * w + c) * Config.tileBytes + y % 40 * 120

/-- R11: the pixels of a line, tile column by tile column. -/
def writeLine (i : Fin 2) (k : Fin 3) (w y : Nat) (pixels : List Colour) (m : Memory) : Memory :=
  (List.range w).foldl (fun m c => m.writeBytes (lineAddress i k w y c) (lineBytes pixels c)) m

/-- R11: the running signatures after a line. -/
def runSignatures (running : List Signature) (pixels : List Colour) : List Signature :=
  running.mapIdx fun c r => (lineBytes pixels c).foldl signatureByte r

/-- R11: the finished signatures of tile row `row` entered in a signature table. -/
def enterRow (w row : Nat) (running : List Signature) (table : List (Option Signature)) : List (Option Signature) :=
  table.mapIdx fun t s => if row * w ≤ t ∧ t < row * w + w then (running[t - row * w]?).map (~~~ ·) else s

/-- R11: a line of the right length, within the frame. -/
def acceptLine (i : Fin 2) (k : Fin 3) (w : Nat) (pixels : List Colour) (h : Hub) : Hub :=
  let y := h.captures[i].lines
  let running := runSignatures h.captures[i].running pixels
  let h := { h with dram := writeLine i k w y pixels h.dram }
  if y % 40 = 39 then
    (h.modSlot i k fun s => { s with signatures := enterRow w (y / 40) running s.signatures }).modCapture i fun c =>
      { c with lines := y + 1, running := List.replicate w signatureStart }
  else h.modCapture i fun c => { c with lines := y + 1, running := running }

/-- R11: a line, checked when it ends. -/
def lineEnds (i : Fin 2) (pixels : List Colour) (h : Hub) : Hub :=
  match h.captures[i].filling, h.captures[i].size with
  | some k, some z =>
    if pixels.length ≠ 40 * z.columns then setInput i .waiting (tear i .length h)
    else if 40 * z.rows ≤ h.captures[i].lines then setInput i .waiting (tear i .long h)
    else acceptLine i k z.columns pixels h
  | _, _ => h

/-! ### Frame ends -/

/-- R12 step 2: the previous Newest slot. -/
def Slot.superseded (s : Slot) : Slot :=
  if s.state = .newest then if s.readers.isEmpty then Slot.free else { s with state := .held } else s

/-- R12: a frame closes. -/
def closeFrame (i : Fin 2) (k : Fin 3) (h : Hub) : Hub :=
  let number := h.captures[i].frames + 1
  let h := { h with slots := upd h.slots i fun v => v.map Slot.superseded }
  let h := h.modSlot i k fun s => { s with state := .newest, number := some number }
  h.modCapture i fun c =>
    { c with state := .waiting, frames := number, filling := none, lines := 0, running := [] }

/-- R12: a frame end. -/
def frameEnds (i : Fin 2) (h : Hub) : Hub :=
  match h.captures[i].filling, h.captures[i].size with
  | some k, some z =>
    if h.captures[i].lines = 40 * z.rows then closeFrame i k h else setInput i .waiting (tear i .short h)
  | _, _ => h

/-! ### Silence -/

/-- R7: the input becomes Silent. -/
def becomeSilent (i : Fin 2) (h : Hub) : Hub :=
  let h := h.modCapture i fun c => { c with state := .silent, silence := none, silences := c.silences + 1 }
  sendSilent i 0 h

def inputSilenceDue (h : Hub) (i : Fin 2) : Bool :=
  (h.captures[i].state == .waiting || h.captures[i].state == .filling) && h.captures[i].silence.due

/-- R7: the expiry of the silence timer. -/
def inputSilenceExpire (i : Fin 2) (h : Hub) : Hub :=
  if inputSilenceDue h i then
    if h.captures[i].state = .filling then becomeSilent i (tear i .silence h) else becomeSilent i h
  else h

/-! ### INPUT-SET -/

/-- R4, R5: the input is Waiting for a port with its silence timer started. -/
def beginWaiting (i : Fin 2) (p : Port) (h : Hub) : Hub :=
  h.modCapture i fun c => { c with state := .waiting, port := some p, silence := some Config.silenceTicks }

/-- R5: an accepted resize. -/
def resize (i : Fin 2) (p : Port) (z : Size) (h : Hub) : Hub :=
  let h := if h.captures[i].state = .filling then tear i .resize h else h
  let h := { h with slots := h.slots.set i (Vector.replicate 3 Slot.free) }
  beginWaiting i p (h.modCapture i fun c => { c with size := some z, frames := 0 })

/-- R5: the screens whose layouts reference the surface. -/
def surfaceUsers (h : Hub) (i : Fin 2) : List (Fin 8) := referencing h (.surface i)

/-- R4: an enable with the surface's present size. -/
def enableSameSize (i : Fin 2) (p : Port) (h : Hub) : Hub :=
  if h.captures[i].state = .off then beginWaiting i p h else h.modCapture i fun c => { c with port := some p }

/-- R6: a disable. -/
def disableInput (i : Fin 2) (h : Hub) : Hub :=
  let h := if h.captures[i].state = .filling then tear i .disable h else h
  h.modCapture i fun c => { c with state := .off, silence := none, port := none }

end Sys2Proof.Machine
end

