-- ==== Sys2Proof/Machine/Plates.lean ====
section
/-! DEFINITION. Plates (chapter 2): opening a copy (R24), the header judgement, the end and the damage of a write-through
PLATE-DATA (R26, R27, R28), commit (R29, R30) and drop (R35), with what a handled request answers. -/

namespace Sys2Proof.Machine

/-! ### Answers -/

/-- What the owning block makes of a request it handles: the part afterwards and the reply, if one is queued at that
event (R164). -/
structure Answer where
  hub : Hub
  reply : Option (Result × List Byte)
  deriving DecidableEq, Repr

def Hub.done (h : Hub) (data : List Byte) : Answer := { hub := h, reply := some (.done, data) }
def Hub.refuse (h : Hub) (r : Result) (data : List Byte) : Answer := { hub := h, reply := some (r, data) }
def Hub.noReply (h : Hub) : Answer := { hub := h, reply := none }

def setHandling (p : Port) (x : Option InHandling) (h : Hub) : Hub := h.modPort p fun y => { y with handling := x }

/-! ### Requests -/

/-- R24: PLATE-OPEN. -/
def openPlate (pl : Fin 16) (z : Size) (h : Hub) : Answer :=
  let c := workCopy h.plates[pl]
  let copy := h.plates[pl].copies[c]
  if copy.state = .empty ∨ copy.state = .loading then
    (h.modCopy pl c fun x =>
      { x with
        state := .loading, size := some z, written := TileSet.empty, damaged := TileSet.empty, signatures := [] }).done
      [byteOfFin pl, byteOfFin c]
  else h.refuse .busy [byteOfFin pl]

/-- R29: PLATE-COMMIT; an accepted one stays in handling. -/
def commitPlate (p : Port) (tag : Byte) (pl : Fin 16) (h : Hub) : Answer :=
  let c := workCopy h.plates[pl]
  let copy := h.plates[pl].copies[c]
  if copy.state ≠ .loading then h.refuse .wrongState [byteOfFin pl, copy.state.code]
  else if copy.outstanding ≠ 0 then h.refuse .incomplete [byteOfFin pl, byteOf copy.outstanding]
  else (setHandling p (some (.plateCommit tag pl)) (h.modCopy pl c fun x => { x with state := .committing })).noReply

/-- R35: a plate in use or with readers. -/
def plateInUse (h : Hub) (pl : Fin 16) : Bool :=
  !(useSet h pl).isEmpty || allCopies.any fun c => !(h.plates[pl].copies[c].readers.isEmpty)

/-- R35: PLATE-DROP. -/
def dropPlate (pl : Fin 16) (h : Hub) : Answer :=
  if plateInUse h pl then h.refuse .busy [byteOfFin pl]
  else
    (h.modPlate pl fun x =>
      { x with size := none, live := none, copies := Vector.replicate 2 PlateCopy.empty }).done [byteOfFin pl]

/-! ### Commit done -/

/-- R30 step 1: the signatures of a copy of `n` tiles. -/
def copySignatures (m : Memory) (pl : Fin 16) (c : Fin 2) (n : Nat) : List (Option Signature) :=
  (List.range n).map fun t =>
    some (signatureOf (m.readBytes (Config.copyBase pl.val c.val + t * Config.tileBytes) Config.tileBytes))

/-- R30 step 4: the copy that was live before. -/
def PlateCopy.superseded (c : PlateCopy) : PlateCopy :=
  if c.readers.isEmpty then PlateCopy.empty else { c with state := .retired }

/-- R30, steps 1 to 4. The plate trigger of step 5 is the version (R66). -/
def commitCopy (pl : Fin 16) (h : Hub) : Hub :=
  let c := workCopy h.plates[pl]
  let size := h.plates[pl].copies[c].size
  let table := copySignatures h.dram pl c ((size.map Size.tiles).getD 0)
  let h := match h.plates[pl].live with
    | some old => h.modCopy pl old PlateCopy.superseded
    | none => h
  let h := h.modCopy pl c fun x => { x with state := .live, signatures := table }
  h.modPlate pl fun x => { x with live := some c, size := size, version := x.version + 1 }

/-- R29: the commit of the plate that its writer port holds in handling, with the tag of its frame. -/
def commitTag (h : Hub) (pl : Fin 16) : Option Byte :=
  match (h.port (writerPort pl)).handling with
  | some (.plateCommit tag q) => if q = pl then some tag else none
  | _ => none

/-- R30: commit done of a plate whose commit is in handling. -/
def commitDone (pl : Fin 16) (h : Hub) : Hub :=
  match commitTag h pl with
  | none => h
  | some tag =>
    let c := workCopy h.plates[pl]
    let h := commitCopy pl h
    let h := reply (writerPort pl) 0x22 tag .done
      ([byteOfFin pl] ++ be16 h.plates[pl].version ++ [byteOfFin c]) h
    setHandling (writerPort pl) none h

/-! ### Write-through PLATE-DATA -/

/-- R26, R165: what is made of a PLATE-DATA header whose header check matches. -/
inductive HeaderVerdict where
  | dropped
  | refused (r : Result)
  | accepted (pl : Fin 16) (c : Fin 2) (tile : Nat)
  deriving DecidableEq, Repr

/-- R26 steps 3 to 5: the header against the plate it names. -/
def judgePlate (p : Port) (plate tile : Byte) (h : Hub) : HeaderVerdict :=
  if 16 ≤ plate.toNat then .refused .badValue
  else
    let pl : Fin 16 := Fin.ofNat 16 plate.toNat
    let c := workCopy h.plates[pl]
    let copy := h.plates[pl].copies[c]
    if writerPort pl ≠ p then .refused .notOwner
    else if copy.state ≠ .loading then .refused .wrongState
    else if (copy.size.map Size.tiles).getD 0 ≤ tile.toNat then .refused .badValue
    else .accepted pl c tile.toNat

/-- R26 steps 2 to 6, after the full reply queue of R165. -/
def judgeHeader (p : Port) (plate tile : Byte) (h : Hub) : HeaderVerdict :=
  let x := h.port p
  if x.freePlaces = 0 then .dropped
  else if !x.input.isEmpty || x.handling.isSome || x.lineSetUnsent then .refused .busy
  else judgePlate p plate tile h

/-- R26, R165: a header whose check matches; `through` of the reception says what follows with its pixels. -/
def takeHeader (p : Port) (tag plate tile : Byte) (h : Hub) : WriteThrough × Hub :=
  match judgeHeader p plate tile h with
  | .dropped => (.ignored, h.modPort p fun x => { x with dropped := x.dropped + 1 })
  | .refused r => (.ignored, reply p 0x21 tag r [plate, tile] h)
  | .accepted pl c t => (.accepted pl c t, setHandling p (some (.plateData tag pl tile)) h)

/-- R27: one pixel byte of an accepted PLATE-DATA. -/
def writePixel (pl : Fin 16) (c : Fin 2) (tile k : Nat) (b : Byte) (h : Hub) : Hub :=
  { h with dram := h.dram.write (Config.copyBase pl.val c.val + tile * Config.tileBytes + k) b }

def setTile (s : TileSet) (t : Nat) (v : Bool) : TileSet := s.set (Fin.ofNat 64 t) v

/-- R165: the tag of the PLATE-DATA in handling. -/
def dataTag (h : Hub) (p : Port) : Byte :=
  match (h.port p).handling with
  | some (.plateData tag _ _) => tag
  | _ => 0

/-- R27, R28: the reply of an accepted PLATE-DATA is queued and its handling ends. -/
def answerData (p : Port) (pl : Fin 16) (c : Fin 2) (tile : Nat) (damage : Option Byte) (h : Hub) : Hub :=
  let tag := dataTag h p
  let data := [byteOfFin pl, byteOf tile, byteOf h.plates[pl].copies[c].outstanding]
  let h := match damage with
    | none => reply p 0x21 tag .done data h
    | some reason => reply p 0x21 tag .damaged (data ++ [reason]) h
  setHandling p none h

/-- R27: the CRC matches. -/
def dataGood (p : Port) (pl : Fin 16) (c : Fin 2) (tile : Nat) (h : Hub) : Hub :=
  answerData p pl c tile none
    (h.modCopy pl c fun x =>
      { x with written := setTile x.written tile true, damaged := setTile x.damaged tile false })

/-- R27: the CRC does not match. -/
def dataMismatch (p : Port) (pl : Fin 16) (c : Fin 2) (tile : Nat) (h : Hub) : Hub :=
  answerData p pl c tile (some damagedCrc)
    (h.modCopy pl c fun x => { x with written := setTile x.written tile true, damaged := setTile x.damaged tile true })

/-- R28: a line error ends an accepted PLATE-DATA before its CRC. -/
def dataBroken (p : Port) (pl : Fin 16) (c : Fin 2) (tile : Nat) (reason : Byte) (h : Hub) : Hub :=
  answerData p pl c tile (some reason) (h.modCopy pl c fun x => { x with damaged := setTile x.damaged tile true })

end Sys2Proof.Machine
end

