-- ==== Sys2Proof/Machine/Screens.lean ====
section
/-! DEFINITION. Requests that name a screen (chapters 3, 4 and 7): bind and unbind (R39, R60), layouts and fill colours
(R42, R43, R45), pace and group (R65, R81, R82), and ownership (R138, R139, R141, R142, R144). -/

namespace Sys2Proof.Machine

/-! ### Binding -/

/-- R39 case 2: another slot bound to the link that has the identity. -/
def identityHolder (h : Hub) (l : Fin 6) (identity : Identity) : Option (Fin 8) :=
  (boundTo h l).find? fun n => h.screens[n].identity == some identity

/-- R39: an accepted bind at the slot. The fill signature of R193 is computed here. -/
def Screen.bind (p : Port) (l : Fin 6) (identity : Identity) (z : Size) (fill : Colour) : Screen :=
  { Screen.reset with
    state := .missing, link := some l, identity := some identity, size := some z, fill := some fill,
    fillSignature := some (fillSignatureOf fill), owner := some p, entries := List.replicate z.tiles Entry.absent }

/-- R39: SCREEN-BIND. -/
def bindScreen (p : Port) (n : Fin 8) (l : Fin 6) (identity : Identity) (z : Size) (fill : Colour) (h : Hub) :
    Answer :=
  let noRoom := h.refuse .noRoom (be16Of (freeEntries h) ++ [byteOf (boundTo h l).length])
  if h.screens[n].state ≠ .unbound then h.refuse .wrongState [byteOfFin n, h.screens[n].state.code]
  else
    match identityHolder h l identity with
    | some m => h.refuse .wrongState [byteOfFin m, h.screens[m].state.code]
    | none =>
      if 2 ≤ (boundTo h l).length then noRoom
      else if freeEntries h < z.tiles then noRoom
      else
        let h := h.modScreen n fun _ => Screen.bind p l identity z fill
        h.done (byteOfFin n :: be16Of (freeEntries h))

/-- R60, R132: the row that names the unbound screen keeps its controller as a stranger with the same identity. -/
def AddressRow.disown (n : Fin 8) (identity : Identity) (r : AddressRow) : AddressRow :=
  if r.assignment = .screen n then
    { r with
      assignment := .stranger identity, silence := none, pollWait := none, lostPoll := none, pollAwaited := false }
  else r

/-- R60: the slot after an unbind; the pace count goes on counting (R79). -/
def Screen.unbound (x : Screen) : Screen :=
  { Screen.reset with engine := { Engine.reset with paceCount := min x.engine.paceCount Engine.reset.paceCount } }

/-- R60 step 2: BLANK with the fill colour for the address of a Joined screen. -/
def blankScreen (n : Fin 8) (h : Hub) : Hub :=
  match addressOf h n with
  | some (l, a) => handPacket l (.blank a (h.screens[n].fill.getD default)) h
  | none => h

/-- R60: SCREEN-UNBIND, the slot bound and the owner checked. A POLL that waits for a Lost screen is removed with its
binding, as R79 removes it at an abort: a stranger is never polled (R132; DEDUCED, log 16). -/
def unbindScreen (n : Fin 8) (h : Hub) : Answer :=
  let identity := h.screens[n].identity.getD 0
  let h := if h.screens[n].state = .joined then blankScreen n (abort n h) else abortAtLink n h
  let h := leaveRunning n h
  let h := { h with links := h.links.map fun (k : Link) => { k with rows := k.rows.map (AddressRow.disown n identity) } }
  let h := h.modScreen n Screen.unbound
  h.done (byteOfFin n :: be16Of (freeEntries h))

/-! ### Layouts and fill colours -/

/-- R43 check 1: the view lies within the screen. -/
def View.within (v : View) (z : Size) : Bool :=
  decide (v.placeColumn + v.columns ≤ z.columns) && decide (v.placeRow + v.rows ≤ z.rows)

/-- R43 checks 2 and 3: the view's block lies within its source. -/
def View.blockWithin (v : View) (z : Size) : Bool :=
  decide (v.originColumn + v.columns ≤ z.columns) && decide (v.originRow + v.rows ≤ z.rows)

/-- R43: one view of a layout for a screen. -/
def viewFits (h : Hub) (n : Fin 8) (v : View) : Bool :=
  (match h.screens[n].size with
    | some z => v.within z
    | none => false) &&
  match v.source with
  | .surface i => match h.captures[i].size with
    | some z => v.blockWithin z
    | none => false
  | .plate p => v.blockWithin (h.plates[p].size.getD { columns := 8, rows := 8 })

/-- R43: the position of the first view that fails. -/
def badView (h : Hub) (n : Fin 8) (l : Layout) : Option Nat := l.findIdx? fun v => !viewFits h n v

/-- R46: a layout becomes pending, the flag is set and the stamp rises. -/
def Screen.setPending (l : Layout) (x : Screen) : Screen :=
  { x with pendingLayout := some l, pendingFlag := true, stamp := x.stamp + 1 }

/-- R45: LAYOUT-SET. -/
def setLayout (n : Fin 8) (expected : Option Half) (l : Layout) (h : Hub) : Answer :=
  let stamp := h.screens[n].stamp
  if expected.isSome && expected != some stamp then h.refuse .stale (byteOfFin n :: be16 stamp)
  else
    match badView h n l with
    | some k => h.refuse .badValue [0, byteOf k]
    | none => (h.modScreen n (Screen.setPending l)).done (byteOfFin n :: be16 (stamp + 1))

/-- R42: FILL-SET. -/
def setFill (n : Fin 8) (c : Colour) (h : Hub) : Answer :=
  (h.modScreen n fun x => { x with pendingFill := some c, pendingFlag := true }).done [byteOfFin n]

/-! ### Pace and group -/

/-- R65: PACE-SET naming a screen. -/
def setScreenPace (n : Fin 8) (pace : Nat) (h : Hub) : Answer :=
  (h.modScreen n fun x => { x with pace := pace, engine := { x.engine with paceCount := 0 } }).done
    ([0, byteOfFin n] ++ be16Of pace)

/-- R82: PACE-SET naming a group. -/
def setGroupPace (g : Fin 4) (pace : Nat) (h : Hub) : Answer :=
  (h.modGroup g fun x => { x with pace := pace, count := 0 }).done ([1, byteOfFin g] ++ be16Of pace)

/-- R81: the group field of a screen changes; the screen leaves the running set it is in. -/
def changeGroup (n : Fin 8) (g : Option (Fin 4)) (h : Hub) : Hub :=
  if h.screens[n].group = g then h else (leaveRunning n h).modScreen n fun x => { x with group := g }

/-- R81: GROUP-SET. -/
def setGroup (n : Fin 8) (g : Option (Fin 4)) (h : Hub) : Answer :=
  (changeGroup n g h).done (byteOfFin n :: optionalByte byteOfFin g)

/-! ### Ownership -/

/-- R137: the data of a NotOwner reply for a screen. -/
def notOwnerData (x : Screen) : List Byte := [portCode x.owner, flag x.seize.isSome]

/-- R138: CLAIM. -/
def claimScreen (p : Port) (n : Fin 8) (h : Hub) : Answer :=
  if h.screens[n].owner = none then
    (h.modScreen n fun x => { x with owner := some p }).done
      ([byteOfFin n, portCode (some p)] ++ be16 h.screens[n].stamp)
  else h.refuse .notOwner (notOwnerData h.screens[n])

/-- R139: YIELD, the owner checked. -/
def yieldOwner (n : Fin 8) (h : Hub) : Answer :=
  if h.screens[n].seize.isSome then h.refuse .wrongState [byteOfFin n, h.screens[n].state.code]
  else (h.modScreen n fun x => { x with owner := none }).done (byteOfFin n :: be16 h.screens[n].stamp)

/-- R141 step 1: the record of a first SEIZE; R142: the record that stands. -/
def Screen.seizeRecord (x : Screen) : SeizeRecord :=
  x.seize.getD { owner := x.owner, layout := x.pendingLayout.getD x.layout, group := x.group, pace := x.pace }

/-- R141 steps 1 to 4, R142: what a SEIZE makes of the slot. -/
def Screen.seized (l : Layout) (x : Screen) : Screen :=
  { x.setPending l with seize := some x.seizeRecord, owner := some .b, group := none }

/-- R141, R142: SEIZE from port B. -/
def seizeScreen (n : Fin 8) (l : Layout) (h : Hub) : Answer :=
  match badView h n l with
  | some k => h.refuse .badValue [0, byteOf k]
  | none =>
    let before := h.screens[n]
    let h := leaveRunning n (h.modScreen n (Screen.seized l))
    let h := seizeCycle n h
    let h := if before.seize.isNone ∧ before.owner = some .a then
        notify [.a] .seized ([byteOfFin n] ++ be16 (before.stamp + 1) ++ optionalByte byteOfFin before.group) h
      else h
    h.done ([byteOfFin n] ++ be16 (before.stamp + 1) ++ [portCode before.seizeRecord.owner])

/-- R144 step 4: the pace count at a RETURN. -/
def returnedCount (x : Screen) (pace : Nat) : Nat := if paceOpen x then pace else min x.engine.paceCount pace

/-- R144 steps 1 to 5: what a RETURN makes of the slot. -/
def Screen.returned (r : SeizeRecord) (x : Screen) : Screen :=
  { x.setPending r.layout with
    owner := r.owner, group := r.group, pace := r.pace, seize := none,
    engine := { x.engine with paceCount := returnedCount x r.pace } }

/-- R144: RETURN from port B. -/
def returnOwner (n : Fin 8) (h : Hub) : Answer :=
  match h.screens[n].seize with
  | none => h.refuse .wrongState [byteOfFin n, h.screens[n].state.code]
  | some r =>
    let stamp := h.screens[n].stamp + 1
    let h := (leaveRunning n h).modScreen n (Screen.returned r)
    let h := notify (screenPorts h n) .returned
      ([byteOfFin n] ++ be16 stamp ++ [portCode r.owner] ++ optionalByte byteOfFin r.group) h
    h.done ([byteOfFin n] ++ be16 stamp ++ [portCode r.owner])

end Sys2Proof.Machine
end

