-- ==== Sys2Proof/Machine/Levels.lean ====
section
/-! DEFINITION. Backlight levels and ambient light (chapter 8): LEVEL-SET (R150), the level tick (R151, R152), the light
converter (R154, R155), the curves (R156, R157). -/

namespace Sys2Proof.Machine

/-! ### Curves -/

/-- R156: the level between two neighbouring points, the quotient truncated toward zero. -/
def interpolate (lo hi : CurvePoint) (r : Reading) : Byte :=
  let rise : Int := (hi.level.toNat : Int) - (lo.level.toNat : Int)
  let run : Int := (r.toNat : Int) - (lo.reading.toNat : Int)
  let width : Int := (hi.reading.toNat : Int) - (lo.reading.toNat : Int)
  byteOf ((lo.level.toNat : Int) + (rise * run).tdiv width).toNat

/-- R156: the level for a reading above the reading of the first of the points. -/
def alongCurve (r : Reading) : List CurvePoint → Byte
  | [] => 0
  | [p] => p.level
  | p :: q :: rest => if r.toNat < q.reading.toNat then interpolate p q r else alongCurve r (q :: rest)

/-- R156: the level that a curve gives for a reading. -/
def curveLevel (curve : Curve) (r : Reading) : Byte :=
  let first := curve[(0 : Fin 8)]
  if r.toNat ≤ first.reading.toNat then first.level else alongCurve r curve.toList

/-- R157: the first point whose reading is not greater than the one before it. -/
def firstNotAscending (points : List CurvePoint) : Option Nat :=
  ((points.zip points.tail).findIdx? fun (a, b) => decide (b.reading.toNat ≤ a.reading.toNat)).map (· + 1)

/-- The eight points of a list as a curve. -/
def curveOf (points : List CurvePoint) : Curve := Vector.ofFn fun i => points.getD i.val ⟨0, 0⟩

/-- R157: CURVE-SET. -/
def setCurve (k : Fin 4) (points : List CurvePoint) (h : Hub) : Answer :=
  match firstNotAscending points with
  | some i => h.refuse .badValue [0, byteOf i]
  | none => ({ h with curves := h.curves.set k (curveOf points) } : Hub).done [byteOfFin k]

/-! ### LEVEL-SET -/

/-- R150: the target a LEVEL-SET sets. -/
def chosenTarget (h : Hub) (m : LevelMode) (target : Byte) (i : Fin 2) (k : Fin 4) : Byte :=
  match m, h.lights[i].reading with
  | .ambient, some r => curveLevel h.curves[k] r
  | .ambient, none => target
  | .manual, _ => target

/-- R150: LEVEL-SET. -/
def setLevel (n : Fin 8) (m : LevelMode) (target step : Byte) (i : Fin 2) (k : Fin 4) (h : Hub) : Answer :=
  let t := chosenTarget h m target i k
  (h.modLevel n fun v => { v with mode := m, target := t, step := step, input := i, curve := k }).done
    [byteOfFin n, m.code, t, h.screens[n].level.current]

/-! ### The level tick -/

/-- R151: the current level moves toward the target, never past it. -/
def Level.tick (v : Level) : Level :=
  if v.step = 0 then { v with current := v.target }
  else if v.current.toNat < v.target.toNat then
    { v with current := byteOf (min (v.current.toNat + v.step.toNat) v.target.toNat) }
  else { v with current := byteOf (max (v.current.toNat - v.step.toNat) v.target.toNat) }

/-- R151, R152: one screen slot at a level tick. -/
def rampScreen (h : Hub) (n : Fin 8) : Hub :=
  let v := h.screens[n].level.tick
  if v.current = h.screens[n].level.current then h
  else
    let h := h.modLevel n fun _ => v
    match addressOf h n with
    | some (l, a) => if h.screens[n].state = .joined then handPacket l (.level a v.current) h else h
    | none => h

/-- R151: the level tick, where one is due. -/
def levelTick (h : Hub) : Hub :=
  if h.levelDue then allScreens.foldl rampScreen { h with levelDue := false } else h

/-! ### The light converter -/

/-- R154: both inputs begin converting, where a start is due. -/
def startConversions (h : Hub) : Hub :=
  if h.conversionDue then
    { h with
      conversionDue := false
      lights := h.lights.map fun (x : LightInput) => { x with conversion := some Config.conversionTicks } }
  else h

/-- R155: the target of one screen recomputed at a conversion end of input `i`. -/
def retarget (i : Fin 2) (r : Reading) (h : Hub) (n : Fin 8) : Hub :=
  let x := h.screens[n]
  if x.bound ∧ x.level.mode = .ambient ∧ x.level.input = i then
    h.modLevel n fun v => { v with target := curveLevel h.curves[v.curve] r }
  else h

def conversionEnds (h : Hub) (i : Fin 2) : Bool := h.lights[i].conversion.due

/-- R154, R155: a conversion end, where one is due. -/
def endConversion (i : Fin 2) (r : Reading) (h : Hub) : Hub :=
  if conversionEnds h i then
    allScreens.foldl (retarget i r) (h.modLight i fun _ => { reading := some r, conversion := none })
  else h

end Sys2Proof.Machine
end

