-- ==== Sys2Proof/Machine/Reports.lean ====
section
/-! DEFINITION. The bodies of the six ASK requests (R184, R185), each from the state at the event of handling. -/

namespace Sys2Proof.Machine

/-- The number of members of a reader set. -/
def readerCount (s : ScreenSet) : Byte := byteOf s.members.length

/-- R184: one slot of INPUT-ASK. -/
def slotReport (s : Slot) : List Byte := [s.state.code] ++ optional 4 be32 s.number ++ [readerCount s.readers]

/-- R184, R18: INPUT-ASK. -/
def inputReport (h : Hub) (i : Fin 2) : List Byte :=
  let c := h.captures[i]
  [byteOfFin i, c.state.code] ++ optionalSize c.size ++ [portCode c.port] ++ be32 c.frames ++ be16 c.drops ++
    be16 c.torn ++ be16 c.silences ++ [flag c.dropArmed] ++ allSlots.flatMap fun k => slotReport h.slots[i][k]

/-- R184: one copy of PLATE-ASK. -/
def copyReport (c : PlateCopy) : List Byte :=
  [c.state.code] ++ optionalSize c.size ++ [byteOf c.reportedOutstanding] ++
    counted (fun t => [byteOfFin t]) c.damagedTiles ++ [readerCount c.readers]

/-- R184, R36: PLATE-ASK. -/
def plateReport (h : Hub) (p : Fin 16) : List Byte :=
  let x := h.plates[p]
  [byteOfFin p, portCode (some (writerPort p))] ++ optionalSize x.size ++ optionalByte byteOfFin x.live ++
    be16 x.version ++ [screensByte (useSet h p)] ++ allCopies.flatMap fun c => copyReport x.copies[c]

/-- R184: the plates that the current layout names, with the versions last gathered. -/
def platesReport (x : Screen) : List Byte :=
  counted (fun p => byteOfFin p :: optional 2 be16 x.lastVersions[p])
    (allPlates.filter fun p => x.layout.names (.plate p))

/-- R184: the pending layout, a presence byte followed by the layout when there is one. -/
def pendingReport : Option Layout → List Byte
  | none => [0]
  | some l => 1 :: layoutBytes l

/-- R184: the body of a bound slot after its number and state. -/
def boundReport (x : Screen) : List Byte :=
  [byteOfFin (x.link.getD 0)] ++ be48 (x.identity.getD 0) ++ (x.size.getD { columns := 0, rows := 0 }).bytes ++
    (x.fill.getD default).bytes ++ optional 3 Colour.bytes x.pendingFill ++ [portCode x.owner, flag x.seize.isSome] ++
    be16 x.stamp ++ [flag x.pendingFlag] ++ layoutBytes x.layout ++ pendingReport x.pendingLayout ++
    optionalByte byteOfFin x.group ++ be16Of x.pace ++ [byteOf x.failures] ++ be16 x.present ++
    optionalByte CycleState.code x.engine.cycle ++ be16Of (countEntries x .absent) ++ be16Of (countEntries x .held) ++
    be16Of (countEntries x .behind) ++ be16Of (countEntries x .sending) ++
    (allInputs.flatMap fun i => optional 4 be32 x.lastFrames[i]) ++ platesReport x

/-- R184, R61: SCREEN-ASK. -/
def screenReport (h : Hub) (n : Fin 8) : List Byte :=
  let x := h.screens[n]
  [byteOfFin n, x.state.code] ++ if x.bound then boundReport x else []

/-- R185: the training stage, present in Training. -/
def stageOf : LinkState → Option Byte
  | .training .hold => some 0
  | .training (.attempt _) => some 1
  | .off => none
  | .rolling => none
  | .up => none
  | .parked => none
  | .waking => none
  | .down => none

/-- R185: the assignment, the screen and the identity of a row. -/
def assignmentReport (h : Hub) : Assignment → List Byte
  | .unassigned => [0, 0] ++ be48 0
  | .screen n => [1, byteOfFin n] ++ be48 (h.screens[n].identity.getD 0)
  | .stranger identity => [2, 0] ++ be48 identity

/-- R185: one address of LINK-ASK. -/
def rowReport (h : Hub) (l : Fin 6) (a : Fin 2) : List Byte :=
  let r := h.links[l].rows[a]
  assignmentReport h r.assignment ++ optionalByte byteOf r.credit ++
    [byteOf (outstandingCredit h l a), byteOf (outstandingCredit h l a)]

/-- R185, R134: LINK-ASK. -/
def linkReport (h : Hub) (l : Fin 6) : List Byte :=
  let k := h.links[l]
  [byteOfFin l, flag k.enabled, k.state.code] ++ optionalByte id (stageOf k.state) ++
    optionalByte LinkRate.code (attemptRate k) ++ [k.configuredCap.code, k.currentCap.code] ++
    optionalByte LinkRate.code k.rate ++
    [k.wakeMode.code, flag k.autoWake, k.warmUp.code, flag k.wakeLine, flag k.parkPending] ++
    (allRows.flatMap fun a => rowReport h l a) ++ [byteOf k.checkFailures] ++ be16 k.strays ++
    be16 k.protocolFaults ++ be16 k.strangerPackets

/-- R185, R158: LIGHT-ASK. -/
def lightReport (h : Hub) : List Byte :=
  (allInputs.flatMap fun i =>
    optional 2 (fun r => be16 (r.setWidth 16)) h.lights[i].reading ++ [flag h.lights[i].conversion.isSome]) ++
    (h.curves.toList.flatMap fun k => k.toList.flatMap fun p => be16 (p.reading.setWidth 16) ++ [p.level]) ++
    allScreens.flatMap fun n =>
      let v := h.screens[n].level
      [v.mode.code, v.target, v.current, v.step, byteOfFin v.input, byteOfFin v.curve]

/-- R185: one port of HUB-ASK. -/
def portReport (x : PortState) : List Byte :=
  [x.rate.code] ++ optionalByte LineRate.code x.pendingRate ++ be16 x.framingErrors ++ be16 x.gapErrors ++
    be16 x.lengthErrors ++ be16 x.crcErrors ++ be16 x.headerErrors ++ be16 x.overruns ++ be16 x.dropped ++
    [byteOf x.input.length, byteOf x.notices.length] ++ be16 x.mask ++ [flag x.lost]

/-- R185: one group of HUB-ASK. -/
def groupReport (h : Hub) (g : Fin 4) : List Byte :=
  let x := h.groups[g]
  [screensByte (members h g)] ++ be16Of x.pace ++ [flag (groupRunning x), ScreenSet.byte x.running]

/-- R185, R172: HUB-ASK. -/
def hubReport (h : Hub) (p : Port) : List Byte :=
  portReport h.portA ++ portReport h.portB ++ [flag (h.port p).errorArmed] ++ be16Of (freeEntries h) ++
    [byteOf (freeBuffers h)] ++ allGroups.flatMap fun g => groupReport h g

end Sys2Proof.Machine
end

