-- ==== Sys2Proof/Machine/LinkRequests.lean ====
section
/-! DEFINITION. Requests that name a link (chapter 6): LINK-SET (R110, R111), LINK-RESET and LINK-WAKE (R126) and
LINK-PARK (R123). -/

namespace Sys2Proof.Machine

/-- R110: the settings of a LINK-SET. -/
structure LinkSettings where
  cap : LinkRate
  wakeMode : WakeMode
  autoWake : Bool
  warmUp : WarmUp
  deriving DecidableEq, Repr

def Link.set (s : LinkSettings) (k : Link) : Link :=
  { k with
    configuredCap := s.cap, currentCap := s.cap, wakeMode := s.wakeMode, autoWake := s.autoWake, warmUp := s.warmUp }

/-- R125: a LINK-SET that selects level mode on a Parked link whose line is asserted is a wake. -/
def selectsWake (s : LinkSettings) (k : Link) : Bool :=
  k.state == .parked && k.wakeMode == .edge && s.wakeMode == .level && k.wakeLine

/-- The reply data of LINK-SET, LINK-RESET and LINK-WAKE (R182): the link and its state after. -/
def linkStateData (h : Hub) (l : Fin 6) : List Byte := [byteOfFin l, h.links[l].state.code]

/-- R110: LINK-SET with enable on. -/
def enableLink (l : Fin 6) (s : LinkSettings) (h : Hub) : Hub :=
  let before := h.links[l]
  let h := h.modLink l (Link.set s)
  if before.state = .off then h.modLink l fun k => { k.enterHold with enabled := true }
  else if selectsWake s before then takeWake l h
  else h

def enableRequest (l : Fin 6) (s : LinkSettings) (h : Hub) : Answer :=
  let h := enableLink l s h
  h.done (linkStateData h l)

/-- R111: LINK-SET with enable off. -/
def disableRequest (l : Fin 6) (h : Hub) : Answer :=
  let h := if h.links[l].state = .off then h else disableLink l h
  h.done (linkStateData h l)

def restoreCap (l : Fin 6) (h : Hub) : Hub := h.modLink l fun k => { k with currentCap := k.configuredCap }

/-- R126: LINK-RESET, by link state. In Waking the warm-up timer starts again with the link's present warm-up time, also
after a LINK-SET in Waking that changed it (R110; DESIGN CHOICE, log 32). -/
def resetRequest (l : Fin 6) (h : Hub) : Answer :=
  match h.links[l].state with
  | .off => h.refuse .wrongState (linkStateData h l)
  | .parked =>
    let h := (restoreCap l h).modLink l Link.enterWaking
    h.done (linkStateData h l)
  | .waking =>
    let h := (restoreCap l h).modLink l fun k => { k with warm := some k.warmUp.ticks }
    h.done (linkStateData h l)
  | .training _ | .rolling | .up | .down =>
    let h := resetLink l h.links[l].configuredCap h
    h.done (linkStateData h l)

/-- R126: LINK-WAKE. -/
def wakeRequest (l : Fin 6) (h : Hub) : Answer :=
  if h.links[l].state = .parked then
    let h := h.modLink l Link.enterWaking
    h.done (linkStateData h l)
  else h.refuse .wrongState (linkStateData h l)

/-- R123 case 2: the lowest-numbered Joined screen on the link that the port does not own. -/
def foreignJoined (p : Port) (h : Hub) (l : Fin 6) : Option (Fin 8) :=
  (boundTo h l).find? fun n => h.screens[n].state == .joined && h.screens[n].owner != some p

/-- R123: an accepted park. -/
def acceptPark (l : Fin 6) (h : Hub) : Hub := handPacket l .park (h.modLink l fun k => { k with parkPending := true })

/-- R123: LINK-PARK. -/
def parkRequest (p : Port) (l : Fin 6) (h : Hub) : Answer :=
  let k := h.links[l]
  if k.state ≠ .up ∨ k.parkPending then h.refuse .wrongState (linkStateData h l)
  else
    match foreignJoined p h l with
    | some n => h.refuse .notOwner [byteOfFin n, portCode h.screens[n].owner]
    | none =>
      if k.wakeMode = .level ∧ k.wakeLine then h.refuse .wrongState (linkStateData h l)
      else (acceptPark l h).done [byteOfFin l]

end Sys2Proof.Machine
end

