-- ==== Sys2Proof/Machine/Operands.lean ====
section
/-! DEFINITION. Requests: their kinds (R192), the layout of their bodies (R174 to R183, R190), the reading of a body with
the length check (R173 step 2), and the range check of the fields in their listed order (R173 step 3, R175). -/

namespace Sys2Proof.Machine

/-- R192: the 30 request kinds. -/
inductive RequestKind where
  | hubAsk
  | hubReset
  | lineSet
  | noticeSet
  | inputSet
  | inputAsk
  | plateOpen
  | plateData
  | plateCommit
  | plateDrop
  | plateAsk
  | screenBind
  | screenUnbind
  | screenAsk
  | layoutSet
  | groupSet
  | paceSet
  | fillSet
  | claim
  | yieldScreen
  | seize
  | returnScreen
  | linkSet
  | linkReset
  | linkPark
  | linkWake
  | linkAsk
  | levelSet
  | curveSet
  | lightAsk
  deriving DecidableEq, Repr, Inhabited

def RequestKind.code : RequestKind → Byte
  | .hubAsk => 0x01
  | .hubReset => 0x02
  | .lineSet => 0x03
  | .noticeSet => 0x04
  | .inputSet => 0x10
  | .inputAsk => 0x11
  | .plateOpen => 0x20
  | .plateData => 0x21
  | .plateCommit => 0x22
  | .plateDrop => 0x23
  | .plateAsk => 0x24
  | .screenBind => 0x30
  | .screenUnbind => 0x31
  | .screenAsk => 0x32
  | .layoutSet => 0x33
  | .groupSet => 0x34
  | .paceSet => 0x35
  | .fillSet => 0x36
  | .claim => 0x38
  | .yieldScreen => 0x39
  | .seize => 0x3A
  | .returnScreen => 0x3B
  | .linkSet => 0x40
  | .linkReset => 0x41
  | .linkPark => 0x42
  | .linkWake => 0x43
  | .linkAsk => 0x44
  | .levelSet => 0x50
  | .curveSet => 0x51
  | .lightAsk => 0x52

def allKinds : List RequestKind :=
  [.hubAsk, .hubReset, .lineSet, .noticeSet, .inputSet, .inputAsk, .plateOpen, .plateData, .plateCommit, .plateDrop,
    .plateAsk, .screenBind, .screenUnbind, .screenAsk, .layoutSet, .groupSet, .paceSet, .fillSet, .claim, .yieldScreen,
    .seize, .returnScreen, .linkSet, .linkReset, .linkPark, .linkWake, .linkAsk, .levelSet, .curveSet, .lightAsk]

/-- R173 step 1: the request kind of a kind byte. -/
def requestKind (b : Byte) : Option RequestKind := allKinds.find? fun k => k.code == b

/-- A request with the raw bytes of its fields; a write-through PLATE-DATA is not among them (R173 step 2). -/
inductive Request where
  | hubAsk
  | hubReset
  | lineSet (rate : Byte)
  | noticeSet (kinds : Half)
  | inputSet (input enable columns rows : Byte)
  | inputAsk (input : Byte)
  | plateOpen (plate columns rows : Byte)
  | plateCommit (plate : Byte)
  | plateDrop (plate : Byte)
  | plateAsk (plate : Byte)
  | screenBind (screen link : Byte) (identity : Identity) (columns rows : Byte) (fill : Colour)
  | screenUnbind (screen : Byte)
  | screenAsk (screen : Byte)
  | layoutSet (screen present : Byte) (stamp : Half) (views : List RawView)
  | groupSet (screen present group : Byte)
  | paceSet (target number : Byte) (pace : Half)
  | fillSet (screen : Byte) (fill : Colour)
  | claim (screen : Byte)
  | yieldScreen (screen : Byte)
  | seize (screen : Byte) (views : List RawView)
  | returnScreen (screen : Byte)
  | linkSet (link enable cap wakeMode autoWake warmUp : Byte)
  | linkReset (link : Byte)
  | linkPark (link : Byte)
  | linkWake (link : Byte)
  | linkAsk (link : Byte)
  | levelSet (screen mode target step input curve : Byte)
  | curveSet (curve : Byte) (points : List RawPoint)
  | lightAsk
  deriving DecidableEq, Repr, Inhabited

def Request.kind : Request → RequestKind
  | .hubAsk => .hubAsk
  | .hubReset => .hubReset
  | .lineSet .. => .lineSet
  | .noticeSet .. => .noticeSet
  | .inputSet .. => .inputSet
  | .inputAsk .. => .inputAsk
  | .plateOpen .. => .plateOpen
  | .plateCommit .. => .plateCommit
  | .plateDrop .. => .plateDrop
  | .plateAsk .. => .plateAsk
  | .screenBind .. => .screenBind
  | .screenUnbind .. => .screenUnbind
  | .screenAsk .. => .screenAsk
  | .layoutSet .. => .layoutSet
  | .groupSet .. => .groupSet
  | .paceSet .. => .paceSet
  | .fillSet .. => .fillSet
  | .claim .. => .claim
  | .yieldScreen .. => .yieldScreen
  | .seize .. => .seize
  | .returnScreen .. => .returnScreen
  | .linkSet .. => .linkSet
  | .linkReset .. => .linkReset
  | .linkPark .. => .linkPark
  | .linkWake .. => .linkWake
  | .linkAsk .. => .linkAsk
  | .levelSet .. => .levelSet
  | .curveSet .. => .curveSet
  | .lightAsk => .lightAsk

/-! ### Bodies -/

/-- R190: the seven bytes of a view. -/
def RawView.bytes (v : RawView) : List Byte :=
  [v.source, v.originColumn, v.originRow, v.columns, v.rows, v.placeColumn, v.placeRow]

def RawPoint.bytes (p : RawPoint) : List Byte := be16 p.reading ++ [p.level]

/-- The body of a request as a controller sends it. -/
def Request.body : Request → List Byte
  | .hubAsk => []
  | .hubReset => []
  | .lineSet rate => [rate]
  | .noticeSet kinds => be16 kinds
  | .inputSet input enable columns rows => [input, enable, columns, rows]
  | .inputAsk input => [input]
  | .plateOpen plate columns rows => [plate, columns, rows]
  | .plateCommit plate => [plate]
  | .plateDrop plate => [plate]
  | .plateAsk plate => [plate]
  | .screenBind screen link identity columns rows fill => [screen, link] ++ be48 identity ++ [columns, rows] ++ fill.bytes
  | .screenUnbind screen => [screen]
  | .screenAsk screen => [screen]
  | .layoutSet screen present stamp views => [screen, present] ++ be16 stamp ++ counted RawView.bytes views
  | .groupSet screen present group => [screen, present, group]
  | .paceSet target number pace => [target, number] ++ be16 pace
  | .fillSet screen fill => screen :: fill.bytes
  | .claim screen => [screen]
  | .yieldScreen screen => [screen]
  | .seize screen views => screen :: counted RawView.bytes views
  | .returnScreen screen => [screen]
  | .linkSet link enable cap wakeMode autoWake warmUp => [link, enable, cap, wakeMode, autoWake, warmUp]
  | .linkReset link => [link]
  | .linkPark link => [link]
  | .linkWake link => [link]
  | .linkAsk link => [link]
  | .levelSet screen mode target step input curve => [screen, mode, target, step, input, curve]
  | .curveSet curve points => curve :: points.flatMap RawPoint.bytes
  | .lightAsk => []

/-- R190: the views of a list of bytes, seven each. -/
def parseViews : List Byte → Option (List RawView)
  | [] => some []
  | b0 :: b1 :: b2 :: b3 :: b4 :: b5 :: b6 :: rest => (parseViews rest).map fun vs => ⟨b0, b1, b2, b3, b4, b5, b6⟩ :: vs
  | _ => none

/-- R183: the points of a list of bytes, three each. -/
def parsePoints : List Byte → Option (List RawPoint)
  | [] => some []
  | b1 :: b0 :: level :: rest => (parsePoints rest).map fun ps => ⟨of16 b1 b0, level⟩ :: ps
  | _ => none

/-- R173 step 2, R190: the views that a view count announces, at most four. -/
def parseCounted (count : Byte) (bytes : List Byte) : Option (List RawView) :=
  (parseViews bytes).bind fun vs => if vs.length = count.toNat ∧ vs.length ≤ 4 then some vs else none

/-! Bodies of 0 to 6 fields of one byte. -/

def noField (r : Request) : List Byte → Option Request
  | [] => some r
  | _ => none

def oneField (f : Byte → Request) : List Byte → Option Request
  | [a] => some (f a)
  | _ => none

def twoFields (f : Byte → Byte → Request) : List Byte → Option Request
  | [a, b] => some (f a b)
  | _ => none

def threeFields (f : Byte → Byte → Byte → Request) : List Byte → Option Request
  | [a, b, c] => some (f a b c)
  | _ => none

def fourFields (f : Byte → Byte → Byte → Byte → Request) : List Byte → Option Request
  | [a, b, c, d] => some (f a b c d)
  | _ => none

def sixFields (f : Byte → Byte → Byte → Byte → Byte → Byte → Request) : List Byte → Option Request
  | [a, b, c, d, e, g] => some (f a b c d e g)
  | _ => none

/-- R179: the body of a SCREEN-BIND. -/
def parseBind : List Byte → Option Request
  | [screen, link, b5, b4, b3, b2, b1, b0, columns, rows, red, green, blue] =>
    some (.screenBind screen link (of48 b5 b4 b3 b2 b1 b0) columns rows ⟨red, green, blue⟩)
  | _ => none

/-- R180: the body of a LAYOUT-SET. -/
def parseLayout : List Byte → Option Request
  | screen :: present :: b1 :: b0 :: count :: bytes =>
    (parseCounted count bytes).map fun vs => .layoutSet screen present (of16 b1 b0) vs
  | _ => none

/-- R181: the body of a SEIZE. -/
def parseSeize : List Byte → Option Request
  | screen :: count :: bytes => (parseCounted count bytes).map fun vs => .seize screen vs
  | _ => none

/-- R183: the body of a CURVE-SET. -/
def parseCurve : List Byte → Option Request
  | curve :: bytes => (parsePoints bytes).bind fun ps => if ps.length = 8 then some (.curveSet curve ps) else none
  | [] => none

/-- R173 step 2: the request of a kind whose body has the length the kind requires. No ordinary frame has the length of a
write-through PLATE-DATA. -/
def parseBody (k : RequestKind) (body : List Byte) : Option Request :=
  match k with
  | .hubAsk => noField .hubAsk body
  | .hubReset => noField .hubReset body
  | .lineSet => oneField .lineSet body
  | .noticeSet => twoFields (fun b1 b0 => .noticeSet (of16 b1 b0)) body
  | .inputSet => fourFields .inputSet body
  | .inputAsk => oneField .inputAsk body
  | .plateOpen => threeFields .plateOpen body
  | .plateData => none
  | .plateCommit => oneField .plateCommit body
  | .plateDrop => oneField .plateDrop body
  | .plateAsk => oneField .plateAsk body
  | .screenBind => parseBind body
  | .screenUnbind => oneField .screenUnbind body
  | .screenAsk => oneField .screenAsk body
  | .layoutSet => parseLayout body
  | .groupSet => threeFields .groupSet body
  | .paceSet => fourFields (fun target number b1 b0 => .paceSet target number (of16 b1 b0)) body
  | .fillSet => fourFields (fun screen red green blue => .fillSet screen ⟨red, green, blue⟩) body
  | .claim => oneField .claim body
  | .yieldScreen => oneField .yieldScreen body
  | .seize => parseSeize body
  | .returnScreen => oneField .returnScreen body
  | .linkSet => sixFields .linkSet body
  | .linkReset => oneField .linkReset body
  | .linkPark => oneField .linkPark body
  | .linkWake => oneField .linkWake body
  | .linkAsk => oneField .linkAsk body
  | .levelSet => sixFields .levelSet body
  | .curveSet => parseCurve body
  | .lightAsk => noField .lightAsk body

/-- R173 steps 1 and 2: a frame's kind and body read as a request, or the result that refuses it. -/
def parse (kind : Byte) (body : List Byte) : Except Result Request :=
  match requestKind kind with
  | none => .error .badKind
  | some k =>
    match parseBody k body with
    | none => .error .badLength
    | some r => .ok r

/-- The frame that carries a request. -/
def Request.frame (r : Request) (tag : Byte) : Frame := { kind := r.kind.code, tag := tag, body := r.body }

/-! ### Ranges -/

def within (lo hi : Nat) (b : Byte) : Bool := decide (lo ≤ b.toNat) && decide (b.toNat ≤ hi)

/-- R173 step 3: the position, from 1, of the first field whose check fails. -/
def firstBad (checks : List Bool) : Option Nat := (checks.findIdx? fun ok => !ok).map (· + 1)

/-- R180: the view fields in their order. -/
def RawView.checks (v : RawView) : List Bool :=
  [decide (v.source.toNat ≤ 1) || within 0x10 0x1F v.source, within 0 63 v.originColumn, within 0 35 v.originRow,
    within 1 64 v.columns, within 1 36 v.rows, within 0 63 v.placeColumn, within 0 35 v.placeRow]

/-- R175: the failing field and the item of the first view, counted from `k`, out of range. -/
def badViews : Nat → List RawView → Option (Nat × Nat)
  | _, [] => none
  | k, v :: vs =>
    match firstBad (RawView.checks v) with
    | some f => some (f, k)
    | none => badViews (k + 1) vs

/-- R175: the item of a field that stands in no list. -/
def noItem : Nat := 255

def plainBad (checks : List Bool) : Option (Nat × Nat) := (firstBad checks).map fun f => (f, noItem)

/-- R183: the reading is field 2 of its entry (PRESUMED, log 12); the item is the point. -/
def badPoint (points : List RawPoint) : Option (Nat × Nat) :=
  (points.findIdx? fun p => decide (1023 < p.reading.toNat)).map fun k => (2, k)

/-- R173 step 3, R175: the field number and the item of the first field out of range. -/
def Request.badField : Request → Option (Nat × Nat)
  | .hubAsk => none
  | .hubReset => none
  | .lineSet rate => plainBad [within 0 3 rate]
  | .noticeSet kinds => plainBad [decide (kinds.toNat < 16384)]
  | .inputSet input enable columns rows =>
    plainBad ([within 0 1 input, within 0 1 enable] ++
      if enable = 1 then [within 1 64 columns, within 1 36 rows] else [])
  | .inputAsk input => plainBad [within 0 1 input]
  | .plateOpen plate columns rows => plainBad [within 0 15 plate, within 1 8 columns, within 1 8 rows]
  | .plateCommit plate => plainBad [within 0 15 plate]
  | .plateDrop plate => plainBad [within 0 15 plate]
  | .plateAsk plate => plainBad [within 0 15 plate]
  | .screenBind screen link _ columns rows _ =>
    plainBad [within 0 7 screen, within 0 5 link, true, within 1 64 columns, within 1 36 rows]
  | .screenUnbind screen => plainBad [within 0 7 screen]
  | .screenAsk screen => plainBad [within 0 7 screen]
  | .layoutSet screen present _ views => (plainBad [within 0 7 screen, within 0 1 present]).or (badViews 0 views)
  | .groupSet screen present group =>
    plainBad [within 0 7 screen, within 0 1 present && (present != 1 || within 0 3 group)]
  | .paceSet target number pace =>
    plainBad [within 0 1 target, if target = 0 then within 0 7 number else within 0 3 number, decide (pace.toNat ≤ 1000)]
  | .fillSet screen _ => plainBad [within 0 7 screen]
  | .claim screen => plainBad [within 0 7 screen]
  | .yieldScreen screen => plainBad [within 0 7 screen]
  | .seize screen views => (plainBad [within 0 7 screen]).or (badViews 0 views)
  | .returnScreen screen => plainBad [within 0 7 screen]
  | .linkSet link enable cap wakeMode autoWake warmUp =>
    plainBad ([within 0 5 link, within 0 1 enable] ++
      if enable = 1 then [within 0 2 cap, within 0 1 wakeMode, within 0 1 autoWake, within 0 3 warmUp] else [])
  | .linkReset link => plainBad [within 0 5 link]
  | .linkPark link => plainBad [within 0 5 link]
  | .linkWake link => plainBad [within 0 5 link]
  | .linkAsk link => plainBad [within 0 5 link]
  | .levelSet screen mode _ _ input curve =>
    plainBad [within 0 7 screen, within 0 1 mode, true, true, within 0 1 input, within 0 3 curve]
  | .curveSet curve points => (plainBad [within 0 3 curve]).or (badPoint points)
  | .lightAsk => none

/-! ### Field values, in range -/

def inputOf (b : Byte) : Fin 2 := Fin.ofNat 2 b.toNat
def plateOf (b : Byte) : Fin 16 := Fin.ofNat 16 b.toNat
def screenOf (b : Byte) : Fin 8 := Fin.ofNat 8 b.toNat
def linkOf (b : Byte) : Fin 6 := Fin.ofNat 6 b.toNat
def groupOf (b : Byte) : Fin 4 := Fin.ofNat 4 b.toNat
def curveIndexOf (b : Byte) : Fin 4 := Fin.ofNat 4 b.toNat
def sizeOf (columns rows : Byte) : Size := { columns := columns.toNat, rows := rows.toNat }

/-- R190: the source byte. -/
def sourceOf (b : Byte) : Source :=
  if b.toNat < 0x10 then .surface (Fin.ofNat 2 b.toNat) else .plate (Fin.ofNat 16 (b.toNat - 0x10))

/-- The view of its seven bytes. -/
def RawView.view (v : RawView) : View :=
  { source := sourceOf v.source, originColumn := v.originColumn.toNat, originRow := v.originRow.toNat,
    columns := v.columns.toNat, rows := v.rows.toNat, placeColumn := v.placeColumn.toNat,
    placeRow := v.placeRow.toNat }

def layoutOf (views : List RawView) : Layout := views.map RawView.view

def RawPoint.point (p : RawPoint) : CurvePoint := { reading := p.reading.setWidth 10, level := p.level }

/-- R174: an optional field, given its presence byte. -/
def presentOf {α : Type} (present : Byte) (x : α) : Option α := if present = 1 then some x else none

end Sys2Proof.Machine
end

