-- ==== Sys2Proof/Machine/Handle.lean ====
section
/-! DEFINITION. The handling of a frame (R164, R173): the judgement of its form, the Unbound, port and owner checks of
R137, the writer check of R22, and the one call of the owning block's rule for each request. -/

namespace Sys2Proof.Machine

/-! ### The checks of port and owner (R173 step 4, R137) -/

/-- R39: the Unbound check. -/
def onBound (n : Fin 8) (f : Hub → Answer) (h : Hub) : Answer :=
  if h.screens[n].bound then f h else h.refuse .wrongState [byteOfFin n, h.screens[n].state.code]

/-- R137: a NotOwner refusal for a screen. -/
def refuseOwner (n : Fin 8) (h : Hub) : Answer := h.refuse .notOwner (notOwnerData h.screens[n])

/-- R136: the owner check, after the Unbound check. -/
def asOwner (p : Port) (n : Fin 8) (f : Hub → Answer) (h : Hub) : Answer :=
  onBound n (fun h => if h.screens[n].owner = some p then f h else refuseOwner n h) h

/-- R137: the port check of SEIZE and RETURN, after the Unbound check. -/
def fromB (p : Port) (n : Fin 8) (f : Hub → Answer) (h : Hub) : Answer :=
  onBound n (fun h => if p = .b then f h else refuseOwner n h) h

/-- R22: the writer check. -/
def asWriter (p : Port) (pl : Fin 16) (f : Hub → Answer) (h : Hub) : Answer :=
  if writerPort pl = p then f h else h.refuse .notOwner [portCode (some (writerPort pl))]

/-! ### Hub and line requests -/

/-- R172: HUB-ASK; the line-error notice is armed after the report. -/
def askHub (p : Port) (h : Hub) : Answer :=
  (h.modPort p fun x => { x with errorArmed := true }).done (hubReport h p)

/-- R171: HUB-RESET. -/
def resetHub (p : Port) (h : Hub) : Answer :=
  if p = .b then (setHandling p (some .hubReset) h).done [] else h.refuse .notOwner []

/-- R169: LINE-SET. -/
def setLine (p : Port) (rate : Byte) (h : Hub) : Answer :=
  (h.modPort p fun x => { x with pendingRate := some (lineRateOf rate) }).done [rate]

/-- R167: NOTICE-SET. -/
def setNotices (p : Port) (kinds : Half) (h : Hub) : Answer :=
  (h.modPort p fun x => { x with mask := kinds }).done (be16 kinds)

/-! ### Input requests -/

/-- R4, R5: INPUT-SET with enable on. -/
def enableInput (p : Port) (i : Fin 2) (z : Size) (h : Hub) : Answer :=
  if h.captures[i].size = some z then
    let h := enableSameSize i p h
    h.done [byteOfFin i, h.captures[i].state.code]
  else if surfaceUsers h i ≠ [] then h.refuse .busy [byteOfFin i, byteOf (surfaceUsers h i).length]
  else
    let h := resize i p z h
    h.done [byteOfFin i, h.captures[i].state.code]

/-- R6: INPUT-SET with enable off. -/
def disableInputRequest (i : Fin 2) (h : Hub) : Answer :=
  let h := disableInput i h
  h.done [byteOfFin i, h.captures[i].state.code]

/-- R18: INPUT-ASK; the drop notice is armed after the report. -/
def askInput (i : Fin 2) (h : Hub) : Answer :=
  (h.modCapture i fun c => { c with dropArmed := true }).done (inputReport h i)

/-! ### One call for each request -/

/-- R173 steps 4 and 5: a request whose form is good. -/
def perform (p : Port) (tag : Byte) : Request → Hub → Answer
  | .hubAsk, h => askHub p h
  | .hubReset, h => resetHub p h
  | .lineSet rate, h => setLine p rate h
  | .noticeSet kinds, h => setNotices p kinds h
  | .inputSet input enable columns rows, h =>
    if enable = 1 then enableInput p (inputOf input) (sizeOf columns rows) h else disableInputRequest (inputOf input) h
  | .inputAsk input, h => askInput (inputOf input) h
  | .plateOpen plate columns rows, h => asWriter p (plateOf plate) (openPlate (plateOf plate) (sizeOf columns rows)) h
  | .plateCommit plate, h => asWriter p (plateOf plate) (commitPlate p tag (plateOf plate)) h
  | .plateDrop plate, h => asWriter p (plateOf plate) (dropPlate (plateOf plate)) h
  | .plateAsk plate, h => h.done (plateReport h (plateOf plate))
  | .screenBind screen link identity columns rows fill, h =>
    bindScreen p (screenOf screen) (linkOf link) identity (sizeOf columns rows) fill h
  | .screenUnbind screen, h => asOwner p (screenOf screen) (unbindScreen (screenOf screen)) h
  | .screenAsk screen, h => h.done (screenReport h (screenOf screen))
  | .layoutSet screen present stamp views, h =>
    asOwner p (screenOf screen) (setLayout (screenOf screen) (presentOf present stamp) (layoutOf views)) h
  | .groupSet screen present group, h =>
    asOwner p (screenOf screen) (setGroup (screenOf screen) (presentOf present (groupOf group))) h
  | .paceSet target number pace, h =>
    if target = 0 then asOwner p (screenOf number) (setScreenPace (screenOf number) pace.toNat) h
    else setGroupPace (groupOf number) pace.toNat h
  | .fillSet screen fill, h => asOwner p (screenOf screen) (setFill (screenOf screen) fill) h
  | .claim screen, h => onBound (screenOf screen) (claimScreen p (screenOf screen)) h
  | .yieldScreen screen, h => asOwner p (screenOf screen) (yieldOwner (screenOf screen)) h
  | .seize screen views, h => fromB p (screenOf screen) (seizeScreen (screenOf screen) (layoutOf views)) h
  | .returnScreen screen, h => fromB p (screenOf screen) (returnOwner (screenOf screen)) h
  | .linkSet link enable cap wakeMode autoWake warmUp, h =>
    if enable = 1 then
      enableRequest (linkOf link)
        { cap := linkRateOf cap, wakeMode := wakeModeOf wakeMode, autoWake := autoWake == 1,
          warmUp := warmUpOf warmUp } h
    else disableRequest (linkOf link) h
  | .linkReset link, h => resetRequest (linkOf link) h
  | .linkPark link, h => parkRequest p (linkOf link) h
  | .linkWake link, h => wakeRequest (linkOf link) h
  | .linkAsk link, h => h.done (linkReport h (linkOf link))
  | .levelSet screen mode target step input curve, h =>
    asOwner p (screenOf screen)
      (setLevel (screenOf screen) (levelModeOf mode) target step (inputOf input) (curveIndexOf curve)) h
  | .curveSet curve points, h => setCurve (curveIndexOf curve) (points.map RawPoint.point) h
  | .lightAsk, h => h.done (lightReport h)

/-- R173 step 3: the range check, before everything else the request does. -/
def judge (p : Port) (tag : Byte) (r : Request) (h : Hub) : Answer :=
  match r.badField with
  | some (field, item) => h.refuse .badValue [byteOf field, byteOf item]
  | none => perform p tag r h

/-- R164, R165: the answer's reply joins the reply queue of the port. -/
def queueAnswer (p : Port) (kind tag : Byte) (x : Answer) : Hub :=
  match x.reply with
  | some (r, data) => reply p kind tag r data x.hub
  | none => x.hub

/-- R164: the handling of a request whose kind and length are good. -/
def handleRequest (p : Port) (tag : Byte) (r : Request) (h : Hub) : Hub :=
  queueAnswer p r.kind.code tag (judge p tag r h)

/-- R164, R173: the handling of a frame. -/
def handleFrame (p : Port) (f : Frame) (h : Hub) : Hub :=
  match parse f.kind f.body with
  | .error r => reply p f.kind f.tag r [] h
  | .ok r => handleRequest p f.tag r h

end Sys2Proof.Machine
end

