-- ==== Sys2Proof/Machine/Ports.lean ====
section
/-! DEFINITION. Control ports (chapter 9): the receiver (R160, R161), line errors (R162), the arrival of a frame (R163),
write-through reception (R26 to R28), the transmitter (R166), the line rate change (R169), the resets of the whole part
and the end of Starting (R170, R171). -/

namespace Sys2Proof.Machine

/-! ### Line errors -/

/-- R162: the counter of a class rises. -/
def PortState.countError (e : ErrorClass) (x : PortState) : PortState :=
  match e with
  | .framing => { x with framingErrors := x.framingErrors + 1 }
  | .gap => { x with gapErrors := x.gapErrors + 1 }
  | .length => { x with lengthErrors := x.lengthErrors + 1 }
  | .crc => { x with crcErrors := x.crcErrors + 1 }
  | .header => { x with headerErrors := x.headerErrors + 1 }

def PortState.errorCount (e : ErrorClass) (x : PortState) : Half :=
  match e with
  | .framing => x.framingErrors
  | .gap => x.gapErrors
  | .length => x.lengthErrors
  | .crc => x.crcErrors
  | .header => x.headerErrors

/-- The receiver is Hunting and its gap timer stopped. -/
def PortState.hunt (x : PortState) : PortState := { x with receiver := .hunting, gap := none }

/-- R162: the notice of an error, if armed. -/
def PortState.reportError (e : ErrorClass) (x : PortState) : PortState :=
  if x.errorArmed then
    { x with errorArmed := false }.offer .lineError (e.code :: be16 (x.errorCount e))
  else x

/-- R162: a line error. -/
def lineError (p : Port) (e : ErrorClass) (h : Hub) : Hub := h.modPort p fun x => ((x.hunt).countError e).reportError e

/-- R27, R28, R162: a line error and what the plate store answers, for the frame in reception. -/
def abandon (p : Port) (e : ErrorClass) (r : Reception) (h : Hub) : Hub :=
  let h := match r.through with
    | some (.accepted pl c t) =>
      match e with
      | .framing => dataBroken p pl c t damagedFraming h
      | .gap => dataBroken p pl c t damagedGap h
      | .crc => dataMismatch p pl c t h
      | .length => h
      | .header => h
    | some .ignored => h
    | none => h
  lineError p e h

/-! ### Arrival -/

/-- R163: the arrival of a good frame that is not received by write-through. -/
def arrival (p : Port) (f : Frame) (h : Hub) : Hub :=
  let x := h.port p
  if x.input.length < Config.inputCapacity then h.modPort p fun x => { x with input := x.input ++ [f] }
  else if 0 < x.freePlaces then
    (reply p f.kind f.tag .overrun [] h).modPort p fun x => { x with overruns := x.overruns + 1 }
  else h.modPort p fun x => { x with dropped := x.dropped + 1 }

/-! ### The receiver -/

/-- R160: the parity bit makes the count of ones even and the stop bit is high. -/
def characterGood (b : Byte) (parityBit stopBit : Bool) : Bool :=
  let ones := ((List.finRange 8).filter fun i => b.getLsbD i.val).length + if parityBit then 1 else 0
  decide (ones % 2 = 0) && stopBit

def Reception.start : Reception :=
  { position := .length, got := 0, length := 0, kind := 0, tag := 0, body := [], crc := crc16Start,
    headerCrc := crc8Start, firstCheck := 0, through := none }

/-- R161: the frame is received by write-through. -/
def Reception.isThrough (r : Reception) : Bool := r.kind == 0x21 && r.length == 4803

/-- R191: a byte covered by the CRC-16. -/
def Reception.cover (b : Byte) (r : Reception) : Reception := { r with crc := crc16Byte r.crc b }

/-- R191: a byte covered by both check values. -/
def Reception.coverHeader (b : Byte) (r : Reception) : Reception :=
  { r.cover b with headerCrc := crc8Byte r.headerCrc b }

def setReception (p : Port) (r : Reception) (h : Hub) : Hub :=
  h.modPort p fun x => { x with receiver := .receiving r, gap := some Config.gapTicks }

/-- R161: the position after a body byte. -/
def Reception.nextBody (r : Reception) : Reception :=
  if r.got + 1 = r.length then { r with position := .check, got := 0 } else { r with got := r.got + 1 }

/-- R26, R27: a body byte of a write-through PLATE-DATA. -/
def throughByte (p : Port) (b : Byte) (r : Reception) (h : Hub) : Hub :=
  if r.got < 2 then
    let r := r.coverHeader b
    setReception p ({ r with body := r.body ++ [b] } : Reception).nextBody h
  else if r.got = 2 then
    if b = r.headerCrc then
      let (through, h) := takeHeader p r.tag (r.body.getD 0 0) (r.body.getD 1 0) h
      setReception p ({ r.cover b with through := some through } : Reception).nextBody h
    else abandon p .header r h
  else
    let h := match r.through with
      | some (.accepted pl c t) => writePixel pl c t (r.got - 3) b h
      | some .ignored => h
      | none => h
    setReception p (r.cover b).nextBody h

/-- R161, R27: the second check byte. -/
def frameEndsAt (p : Port) (b : Byte) (r : Reception) (h : Hub) : Hub :=
  if of16 r.firstCheck b = r.crc then
    let h := h.modPort p PortState.hunt
    match r.through with
    | some (.accepted pl c t) => dataGood p pl c t h
    | some .ignored => h
    | none => arrival p { kind := r.kind, tag := r.tag, body := r.body } h
  else abandon p .crc r h

/-- R161: a byte without a framing fault inside a frame. -/
def receiveByte (p : Port) (b : Byte) (r : Reception) (h : Hub) : Hub :=
  match r.position with
  | .length =>
    if r.got = 0 then setReception p { r.coverHeader b with length := b.toNat * 256, got := 1 } h
    else if 4803 < r.length + b.toNat then abandon p .length r h
    else setReception p { r.coverHeader b with length := r.length + b.toNat, position := .kind, got := 0 } h
  | .kind =>
    if 256 < r.length ∧ b ≠ 0x21 then abandon p .length r h
    else setReception p { r.coverHeader b with kind := b, position := .tag } h
  | .tag =>
    setReception p
      { r.coverHeader b with tag := b, position := if r.length = 0 then .check else .body, got := 0 } h
  | .body =>
    if r.isThrough then throughByte p b r h
    else
      let r := r.cover b
      setReception p ({ r with body := r.body ++ [b] } : Reception).nextBody h
  | .check =>
    if r.got = 0 then setReception p { r with firstCheck := b, got := 1 } h else frameEndsAt p b r h

/-- R160, R161, R170: one character, taken at its stop bit. -/
def byteArrives (p : Port) (b : Byte) (good : Bool) (h : Hub) : Hub :=
  if h.starting then h
  else
    match (h.port p).receiver with
    | .hunting => if good ∧ b = 0xC3 then setReception p Reception.start h else h
    | .receiving r => if good then receiveByte p b r h else abandon p .framing r h

/-! ### Events that stand for a run of characters -/

/-- The port can take a frame as one event: the part is not Starting and no write-through frame is in reception
(log 15). -/
def takesFrames (p : Port) (h : Hub) : Bool := !h.starting && !(h.port p).inThrough

/-- R161: the body fits a frame that is not received by write-through. -/
def ordinaryFrame (f : Frame) : Bool :=
  decide (f.body.length ≤ 256) || (f.kind == 0x21 && decide (f.body.length < 4803))

/-- R164: a frame that arrives now is handled at its arrival. -/
def beginsAtOnce (x : PortState) : Bool := x.handling.isNone && x.input.isEmpty && decide (0 < x.freePlaces)

/-- R163, R164: a good frame arrives, its characters taken as one event (log 15); it is handled at its arrival when the
port can begin it, and is treated by its input queue otherwise. -/
def frameArrives (p : Port) (f : Frame) (h : Hub) : Hub :=
  if takesFrames p h && ordinaryFrame f then
    let h := h.modPort p PortState.hunt
    if beginsAtOnce (h.port p) then handleFrame p f h else arrival p f h
  else h

/-- R163: the frame that carries a request arrives. -/
def requestArrives (p : Port) (tag : Byte) (r : Request) (h : Hub) : Hub := frameArrives p (r.frame tag) h

/-- R26: the first eight bytes of a write-through PLATE-DATA, taken as one event (log 15). -/
def plateDataArrives (p : Port) (tag plate tile headerCheck : Byte) (h : Hub) : Hub :=
  if takesFrames p h then
    [0xC3, 0x12, 0xC3, 0x21, tag, plate, tile, headerCheck].foldl (fun h b => byteArrives p b true h)
      (h.modPort p PortState.hunt)
  else h

/-- R27: the reception whose next byte is the second check byte of an accepted PLATE-DATA. -/
def Reception.atThroughEnd (r : Reception) : Bool :=
  r.position == .check && r.got == 1 &&
    match r.through with
    | some (.accepted ..) => true
    | some .ignored => false
    | none => false

/-- R27: the end of an accepted PLATE-DATA. -/
def plateDataEnds (p : Port) (b : Byte) (h : Hub) : Hub :=
  match (h.port p).receiver with
  | .hunting => h
  | .receiving r => if r.atThroughEnd then byteArrives p b true h else h

/-- R161: the fault can be met at the frame's position. -/
def Reception.canFail (r : Reception) : LineFault → Bool
  | .framing => true
  | .length =>
    (r.position == .length && r.got == 1 && decide (4803 < r.length + 255)) ||
      (r.position == .kind && decide (256 < r.length))
  | .crc => r.position == .check && r.got == 1

def faultClass : LineFault → ErrorClass
  | .framing => .framing
  | .length => .length
  | .crc => .crc

/-- R162: a framing, length or crc fault inside a frame. -/
def lineFaults (p : Port) (f : LineFault) (h : Hub) : Hub :=
  match (h.port p).receiver with
  | .hunting => h
  | .receiving r => if r.canFail f then abandon p (faultClass f) r h else h

def gapDue (h : Hub) (p : Port) : Bool := (h.port p).gap.due

/-- R161: the expiry of the gap timer inside a frame. -/
def gapExpire (p : Port) (h : Hub) : Hub :=
  match (h.port p).receiver with
  | .hunting => h
  | .receiving r => if gapDue h p then abandon p .gap r h else h

/-! ### The transmitter -/

/-- R166: the transmitter, when idle, takes the head of the reply queue, or else of the notice queue. -/
def PortState.transmit (x : PortState) : PortState :=
  if x.line.isSome then x
  else
    match x.replies with
    | f :: rest => { x with replies := rest, line := some f }
    | [] =>
      match x.notices with
      | f :: rest => { x with notices := rest, line := some f }
      | [] => x

def transmitPort (h : Hub) (p : Port) : Hub := if h.starting then h else h.modPort p PortState.transmit

/-- R169: the end of a LINE-SET's Done reply. -/
def PortState.changeRate (x : PortState) : PortState :=
  match x.pendingRate with
  | some r => { x.hunt with rate := r, pendingRate := none }
  | none => x.hunt

/-- The levels of the wake lines, which no reset changes (log 6). -/
def wakeLines (h : Hub) : Vector Bool 6 := h.links.map (·.wakeLine)

/-- R171: the HUB-RESET takes effect. -/
def hubResets (h : Hub) : Hub :=
  { Hub.reset .hubReset h.portA.rate h.portB.rate (wakeLines h) with free := h.free }

/-- R166: the end of a control frame, with what R169 and R171 do there. -/
def frameSent (p : Port) (h : Hub) : Hub :=
  match (h.port p).line with
  | none => h
  | some f =>
    let h := h.modPort p fun x => { x with line := none }
    if f.isLineSetDone then h.modPort p PortState.changeRate
    else if f.isHubResetDone && (h.port p).handling == some .hubReset then hubResets h
    else h

/-! ### Power-on and the end of Starting -/

/-- R160: the rate of two straps. -/
def strapRate (first second : Bool) : LineRate :=
  match first, second with
  | false, false => .half
  | false, true => .one
  | true, false => .two
  | true, true => .four

/-- R170: the release of the reset pin. -/
def powersOn (a1 a2 b1 b2 : Bool) (h : Hub) : Hub :=
  { Hub.reset .powerOn (strapRate a1 a2) (strapRate b1 b2) (wakeLines h) with free := h.free }

def startingOver (h : Hub) : Bool := h.starting && decide (Config.startingTicks ≤ h.ticks)

def sendReady (h : Hub) (p : Port) : Hub :=
  notify [p] .ready [h.cause.code, (h.port p).rate.code] h

/-- R170: Starting ends and READY is offered to both ports. -/
def startingEnds (h : Hub) : Hub :=
  if startingOver h then bothPorts.foldl sendReady { h with starting := false } else h

end Sys2Proof.Machine
end

