-- ==== Sys2Proof/Machine/Settle.lean ====
section
/-! DEFINITION. What follows at the event itself (log 2): the steps of the engines that become possible at the event of a
command, the grants of the arbiter, the starts of transmissions and the handling of waiting frames. -/

namespace Sys2Proof.Machine

/-- The steps of chapters 4 to 6 whose conditions hold, once each in the order of log 2: R121, R71, R78, R73, R84, R67,
R83, R91, R95, R166. -/
def consequences (h : Hub) : Hub :=
  let h := allLinks.foldl resetIfAllLost h
  let h := allScreens.foldl endGathering h
  let h := allScreens.foldl endCut h
  let h := allScreens.foldl showIfReady h
  let h := allGroups.foldl releaseGroup h
  let h := allScreens.foldl startScreen h
  let h := allGroups.foldl startGroup h
  let h := grants 32 h
  let h := allLinks.foldl transmitNext h
  bothPorts.foldl transmitPort h

/-- R164: a port that may begin its oldest frame, port A before port B (log 2). -/
def beginningPort (h : Hub) : Option Port :=
  if h.starting then none
  else if h.portA.mayBegin then some .a
  else if h.portB.mayBegin then some .b
  else none

/-- R164: the port takes its oldest frame and handles it. -/
def handleOldest (p : Port) (h : Hub) : Hub :=
  match (h.port p).input with
  | [] => h
  | f :: rest => handleFrame p f (h.modPort p fun x => { x with input := rest })

/-- R164: frames are handled while a port may begin one; the two input queues hold eight at most. -/
def drain : Nat → Hub → Hub
  | 0, h => h
  | k + 1, h =>
    match beginningPort h with
    | some p => drain k (consequences (handleOldest p h))
    | none => h

/-- Everything that follows at the event of a command. -/
def settle (h : Hub) : Hub := drain 8 (consequences h)

end Sys2Proof.Machine
end

