-- ==== Sys2Proof/Machine/Time.lean ====
section
/-! DEFINITION. The time base (R63): the events that are overdue at a tick (log 3), and what one tick counts. -/

namespace Sys2Proof.Machine

/-- R105: the check-failure counts of all links become 0, where the window's tick has come. -/
def clearWindow (h : Hub) : Hub :=
  if h.windowDue then
    { h with windowDue := false, links := h.links.map fun (k : Link) => { k with checkFailures := 0 } }
  else h

/-- R154: a conversion end whose result the sender did not give: a free value (log 4). -/
def endConversionFree (i : Fin 2) (h : Hub) : Hub :=
  endConversion i (Config.lightSample h.free) { h with free := h.free + 1 }

/-! ### Events that are due -/

/-- An event of the time base: when it is due, and its effect. -/
structure TimedEvent where
  due : Hub → Bool
  fire : Hub → Hub

def portEvents (p : Port) : List TimedEvent := [⟨fun h => gapDue h p, gapExpire p⟩]
def inputEvents (i : Fin 2) : List TimedEvent := [⟨fun h => inputSilenceDue h i, inputSilenceExpire i⟩]
def bufferEvents (b : Fin 32) : List TimedEvent := [⟨fun h => replyTimerDue h b, replyTimerExpire b⟩]
def screenEvents (n : Fin 8) : List TimedEvent := [⟨fun h => showTimerDue h n, showTimerExpire n⟩]

def linkEvents (l : Fin 6) : List TimedEvent :=
  [⟨fun h => holdDue h l, holdExpire l⟩, ⟨fun h => attemptDue h l, attemptExpire l⟩,
    ⟨fun h => retryDue h l, retryExpire l⟩, ⟨fun h => warmDue h l, warmExpire l⟩,
    ⟨fun h => rollDue h l, rollExpire l⟩]

def rowEvents (l : Fin 6) (a : Fin 2) : List TimedEvent :=
  [⟨fun h => silenceDue h l a, silenceLinkExpire l a⟩, ⟨fun h => pollWaitDue h l a, pollWaitExpire l a⟩,
    ⟨fun h => lostPollDue h l a, lostPollExpire l a⟩]

def conversionEvents (i : Fin 2) : List TimedEvent := [⟨fun h => conversionEnds h i, endConversionFree i⟩]

/-- Every event that a tick of the time base makes due, in the order of log 3. -/
def timedEvents : List TimedEvent :=
  [⟨startingOver, startingEnds⟩] ++ bothPorts.flatMap portEvents ++ allInputs.flatMap inputEvents ++
    allBuffers.flatMap bufferEvents ++ allScreens.flatMap screenEvents ++ allLinks.flatMap linkEvents ++
    (allLinks.flatMap fun l => allRows.flatMap (rowEvents l)) ++ [⟨Hub.levelDue, levelTick⟩] ++
    [⟨Hub.conversionDue, startConversions⟩] ++ allInputs.flatMap conversionEvents ++ [⟨Hub.windowDue, clearWindow⟩]

/-- One event, taken if it is due, with what follows at it. -/
def takeDue (h : Hub) (e : TimedEvent) : Hub := if e.due h then settle (e.fire h) else h

/-- Log 3: the events still due when the next tick comes. -/
def takeOverdue (h : Hub) : Hub := timedEvents.foldl takeDue h

/-- No event is due. -/
def nothingOverdue (h : Hub) : Bool := timedEvents.all fun e => !e.due h

/-! ### One tick -/

def Capture.tick (c : Capture) : Capture := { c with silence := c.silence.tick }

/-- R65: the pace count of a slot. -/
def Screen.tick (x : Screen) : Screen :=
  { x with
    engine :=
      { x.engine with
        paceCount := if x.engine.paceCount < x.pace then x.engine.paceCount + 1 else x.engine.paceCount
        showTimer := x.engine.showTimer.tick } }

/-- R82: the group pace count. -/
def Group.tick (g : Group) : Group := { g with count := if g.count < g.pace then g.count + 1 else g.count }

def Lend.tick (x : Lend) : Lend := { x with replyTimer := x.replyTimer.tick }

def AddressRow.tick (r : AddressRow) : AddressRow :=
  { r with silence := r.silence.tick, pollWait := r.pollWait.tick, lostPoll := r.lostPoll.tick }

def Link.tick (k : Link) : Link :=
  { k with
    hold := k.hold.tick, attempt := k.attempt.tick, retry := k.retry.tick, warm := k.warm.tick,
    rollWait := k.rollWait.tick, rows := k.rows.map AddressRow.tick }

def LightInput.tick (x : LightInput) : LightInput := { x with conversion := x.conversion.tick }

def PortState.tick (x : PortState) : PortState := { x with gap := x.gap.tick }

/-- R63: every timer and count takes one tick, and the periodic work of this tick becomes due. -/
def countTick (h : Hub) : Hub :=
  let t := h.ticks + 1
  { h with
    ticks := t
    levelDue := t % Config.levelPeriod == 0
    conversionDue := t % Config.conversionPeriod == 0
    windowDue := t % Config.windowPeriod == 0
    captures := h.captures.map Capture.tick
    screens := h.screens.map Screen.tick
    groups := h.groups.map Group.tick
    buffers := h.buffers.map fun (x : Option Lend) => x.map Lend.tick
    links := h.links.map Link.tick
    lights := h.lights.map LightInput.tick
    portA := h.portA.tick
    portB := h.portB.tick }

/-- R63: the tick, after the events that were still due. A cycle start or joint start that a gate opening at this tick
allows follows at the tick itself, before the sender can name an expiry that falls due at it: one of the two orders that
R63 allows (DESIGN CHOICE, log 28). -/
def tickArrives (h : Hub) : Hub := countTick (takeOverdue h)

end Sys2Proof.Machine
end

