-- ==== Sys2Proof/Machine/Complete.lean ====
section
/-! DEFINITION. The form of every meaning: the command's own effect on the part, then what follows at the same event
(log 2); and the end of a transmission on a link (R95), one rule for every kind of packet. -/

namespace Sys2Proof.Machine

/-- A command with the effect `f`: the next state, with the part settled and the queue as it was. -/
def complete (f : Hub → Hub) (s : State) : Host.Outcome State Fault Refusal :=
  .next { s with hub := settle (f s.hub) }

/-- R95, R111: the end of the transmission of a packet on a link, whose effect `f` gives for the kinds it is about. A
packet finished after a disable has no effect. -/
def packetSent (l : Fin 6) (f : Packet → Option (Hub → Hub)) (h : Hub) : Hub :=
  match h.links[l].line with
  | none => h
  | some o =>
    match f o.packet with
    | none => h
    | some effect => if o.dead then clearLine l h else effect (clearLine l h)

end Sys2Proof.Machine
end

