-- ==== Sys2Proof/Machine/CycleCommands.lean ====
section
/-! DEFINITION. The meanings of the events of the present engines and group gates: PACE_GATE_OPENS,
GROUP_PACE_GATE_OPENS, CYCLE_START, JOINT_START, GATHERING_END, CUT_END, GROUP_RELEASE, SHOW_TIMER_EXPIRY. What such an
event does also follows at the event that makes it possible (log 2). -/

namespace Sys2Proof.Machine

/-- R65, R67: the pace gate of a screen is open; a cycle starts where the rest of R67 holds. -/
def execPaceGateOpens (screen : Fin 8) (s : State) : Host.Outcome State Fault Refusal :=
  complete (fun h => if paceOpen h.screens[screen] then startScreen h screen else h) s

/-- R82, R83: the pace gate of a group is open; a joint start is made where the rest of R83 holds. -/
def execGroupPaceGateOpens (group : Fin 4) (s : State) : Host.Outcome State Fault Refusal :=
  complete (fun h => if groupPaceOpen h.groups[group] then startGroup h group else h) s

/-- R67, R68: the cycle start of an ungrouped screen. -/
def execCycleStart (screen : Fin 8) (s : State) : Host.Outcome State Fault Refusal :=
  complete (fun h => startScreen h screen) s

/-- R83: a joint start. -/
def execJointStart (group : Fin 4) (s : State) : Host.Outcome State Fault Refusal :=
  complete (fun h => startGroup h group) s

/-- R71, R73: gathering ends; SHOW follows at the same event for a screen in no running set. -/
def execGatheringEnd (screen : Fin 8) (s : State) : Host.Outcome State Fault Refusal :=
  complete (fun h => showIfReady (endGathering h screen) screen) s

/-- R78: the cut ends with a cycle start. -/
def execCutEnd (screen : Fin 8) (s : State) : Host.Outcome State Fault Refusal :=
  complete (fun h => endCut h screen) s

/-- R84: the release of a running set. -/
def execGroupRelease (group : Fin 4) (s : State) : Host.Outcome State Fault Refusal :=
  complete (fun h => releaseGroup h group) s

/-- R75, R76: the expiry of the show timer. -/
def execShowTimerExpiry (screen : Fin 8) (s : State) : Host.Outcome State Fault Refusal :=
  complete (showTimerExpire screen) s

end Sys2Proof.Machine
end

