-- ==== Sys2Proof/Machine/DeliveryCommands.lean ====
section
/-! DEFINITION. The meanings of the events of buffers and link transmitters: BUFFER_GRANT, LOAD_END, TILE_TRANSMITTED,
SHOW_TRANSMITTED, ROLL_TRANSMITTED, POLL_TRANSMITTED, PARK_TRANSMITTED, LEVEL_OR_BLANK_TRANSMITTED,
REPLY_TIMER_EXPIRY. -/

namespace Sys2Proof.Machine

/-- R91, R92: one grant. -/
def execBufferGrant (s : State) : Host.Outcome State Fault Refusal := complete (fun h => (grantOnce h).getD h) s

/-- R93: load end. -/
def execLoadEnd (buffer : Fin 32) (s : State) : Host.Outcome State Fault Refusal := complete (loadEnds buffer) s

/-- R95: the effect of the end of a TILE. -/
def tileEffect (l : Fin 6) : Packet → Option (Hub → Hub)
  | .tile b _ _ _ _ => some (tileSent l b)
  | _ => none

/-- R95: the end of a TILE. -/
def execTileTransmitted (link : Fin 6) (s : State) : Host.Outcome State Fault Refusal :=
  complete (packetSent link (tileEffect link)) s

/-- R73, R84: the effect of the end of a SHOW. -/
def showEffect : Packet → Option (Hub → Hub)
  | .showFrame _ number screens => some (startShowTimers number screens)
  | _ => none

/-- R73: the end of a SHOW. -/
def execShowTransmitted (link : Fin 6) (s : State) : Host.Outcome State Fault Refusal :=
  complete (packetSent link showEffect) s

/-- R114: the effect of the end of a ROLL. -/
def rollEffect (l : Fin 6) : Packet → Option (Hub → Hub)
  | .roll a => some (rollSent l a)
  | _ => none

/-- R114: the end of a ROLL. -/
def execRollTransmitted (link : Fin 6) (s : State) : Host.Outcome State Fault Refusal :=
  complete (packetSent link (rollEffect link)) s

/-- R119: the effect of the end of a POLL. -/
def pollEffect (l : Fin 6) : Packet → Option (Hub → Hub)
  | .poll a keepAlive => some (pollSent l a keepAlive)
  | _ => none

/-- R119: the end of a POLL. -/
def execPollTransmitted (link : Fin 6) (s : State) : Host.Outcome State Fault Refusal :=
  complete (packetSent link (pollEffect link)) s

/-- R124: the effect of the end of PARK. -/
def parkEffect (l : Fin 6) : Packet → Option (Hub → Hub)
  | .park => some (parkSent l)
  | _ => none

/-- R124: the end of PARK. -/
def execParkTransmitted (link : Fin 6) (s : State) : Host.Outcome State Fault Refusal :=
  complete (packetSent link (parkEffect link)) s

/-- R95: the end of a LEVEL or a BLANK only frees the line. -/
def levelOrBlankEffect : Packet → Option (Hub → Hub)
  | .level _ _ => some id
  | .blank _ _ => some id
  | _ => none

/-- R95: the end of a LEVEL or a BLANK. -/
def execLevelOrBlankTransmitted (link : Fin 6) (s : State) : Host.Outcome State Fault Refusal :=
  complete (packetSent link levelOrBlankEffect) s

/-- R99: the expiry of a reply timer. -/
def execReplyTimerExpiry (buffer : Fin 32) (s : State) : Host.Outcome State Fault Refusal :=
  complete (replyTimerExpire buffer) s

end Sys2Proof.Machine
end

