-- ==== Sys2Proof/Machine/HubRequests.lean ====
section
/-! DEFINITION. The meanings of the requests to the hub and its inputs: HUB_ASK, HUB_RESET, LINE_SET, NOTICE_SET,
INPUT_SET_ENABLE, INPUT_SET_DISABLE, INPUT_ASK. -/

namespace Sys2Proof.Machine

/-- R172: HUB-ASK. -/
def execHubAsk (port : Port) (tag : Byte) (s : State) : Host.Outcome State Fault Refusal :=
  complete (requestArrives port tag (.hubAsk)) s

/-- R171: HUB-RESET. -/
def execHubReset (port : Port) (tag : Byte) (s : State) : Host.Outcome State Fault Refusal :=
  complete (requestArrives port tag (.hubReset)) s

/-- R169: LINE-SET. -/
def execLineSet (port : Port) (tag rate : Byte) (s : State) : Host.Outcome State Fault Refusal :=
  complete (requestArrives port tag (.lineSet rate)) s

/-- R167: NOTICE-SET. -/
def execNoticeSet (port : Port) (tag : Byte) (kinds : Half) (s : State) : Host.Outcome State Fault Refusal :=
  complete (requestArrives port tag (.noticeSet kinds)) s

/-- R4, R5: INPUT-SET with enable on. -/
def execInputSetEnable (port : Port) (tag input columns rows : Byte) (s : State) : Host.Outcome State Fault Refusal :=
  complete (requestArrives port tag (.inputSet input 1 columns rows)) s

/-- R6: INPUT-SET with enable off. -/
def execInputSetDisable (port : Port) (tag input columns rows : Byte) (s : State) : Host.Outcome State Fault Refusal :=
  complete (requestArrives port tag (.inputSet input 0 columns rows)) s

/-- R18: INPUT-ASK. -/
def execInputAsk (port : Port) (tag input : Byte) (s : State) : Host.Outcome State Fault Refusal :=
  complete (requestArrives port tag (.inputAsk input)) s

end Sys2Proof.Machine
end

