-- ==== Sys2Proof/Machine/InputCommands.lean ====
section
/-! DEFINITION. The meanings of the events of a picture input: FRAME_START, LINE, FRAME_END, SILENCE_TIMER_EXPIRY. -/

namespace Sys2Proof.Machine

/-- R9, R10: a frame start. -/
def execFrameStart (i : Fin 2) (s : State) : Host.Outcome State Fault Refusal := complete (frameStarts i) s

/-- R11: a line with its pixels. -/
def execLine (i : Fin 2) (pixels : List Colour) (s : State) : Host.Outcome State Fault Refusal :=
  complete (lineEnds i pixels) s

/-- R12: a frame end. -/
def execFrameEnd (i : Fin 2) (s : State) : Host.Outcome State Fault Refusal := complete (frameEnds i) s

/-- R7: the expiry of the silence timer of an input. -/
def execSilenceTimerExpiry (i : Fin 2) (s : State) : Host.Outcome State Fault Refusal :=
  complete (inputSilenceExpire i) s

end Sys2Proof.Machine
end

