-- ==== Sys2Proof/Machine/LevelCommands.lean ====
section
/-! DEFINITION. The meanings of the periodic work of levels and light: LEVEL_TICK, CONVERSION_START, CONVERSION_END. -/

namespace Sys2Proof.Machine

/-- R151, R152: the level tick. -/
def execLevelTick (s : State) : Host.Outcome State Fault Refusal := complete levelTick s

/-- R154: both light inputs begin converting. -/
def execConversionStart (s : State) : Host.Outcome State Fault Refusal := complete startConversions s

/-- R155: a conversion end with its result. -/
def execConversionEnd (input : Fin 2) (result : Reading) (s : State) : Host.Outcome State Fault Refusal :=
  complete (endConversion input result) s

end Sys2Proof.Machine
end

