-- ==== Sys2Proof/Machine/LinkCommands.lean ====
section
/-! DEFINITION. The meanings of the events of a link engine: CHECK_WINDOW_CLEAR, HOLD_TIMER_EXPIRY, LOCK,
ATTEMPT_TIMER_EXPIRY, RETRY_TIMER_EXPIRY, LOSS_OF_LOCK, ROLL_WAIT_EXPIRY, SILENCE_TIMER_EXPIRY_LINK, POLL_WAIT_EXPIRY,
LOST_POLL_TIMER_EXPIRY, WAKE_LINE_CHANGE, WARM_UP_TIMER_EXPIRY. -/

namespace Sys2Proof.Machine

/-- R105: the window's clearing tick. -/
def execCheckWindowClear (s : State) : Host.Outcome State Fault Refusal := complete clearWindow s

/-- R113: the end of the hold. -/
def execHoldTimerExpiry (link : Fin 6) (s : State) : Host.Outcome State Fault Refusal := complete (holdExpire link) s

/-- R113: lock is reported at a rate. -/
def execLock (link : Fin 6) (rate : LinkRate) (s : State) : Host.Outcome State Fault Refusal :=
  complete (lockReported link rate) s

/-- R113: an attempt fails. -/
def execAttemptTimerExpiry (link : Fin 6) (s : State) : Host.Outcome State Fault Refusal :=
  complete (attemptExpire link) s

/-- R113: the end of the wait in Down. -/
def execRetryTimerExpiry (link : Fin 6) (s : State) : Host.Outcome State Fault Refusal := complete (retryExpire link) s

/-- R122: loss of lock. -/
def execLossOfLock (link : Fin 6) (s : State) : Host.Outcome State Fault Refusal := complete (lockLost link) s

/-- R114: the roll wait expires. -/
def execRollWaitExpiry (link : Fin 6) (s : State) : Host.Outcome State Fault Refusal := complete (rollExpire link) s

/-- R119: 20 ms of silence. -/
def execSilenceTimerExpiryLink (link : Fin 6) (row : Fin 2) (s : State) : Host.Outcome State Fault Refusal :=
  complete (silenceLinkExpire link row) s

/-- R119: the poll wait expires. -/
def execPollWaitExpiry (link : Fin 6) (row : Fin 2) (s : State) : Host.Outcome State Fault Refusal :=
  complete (pollWaitExpire link row) s

/-- R120: the lost poll timer expires. -/
def execLostPollTimerExpiry (link : Fin 6) (row : Fin 2) (s : State) : Host.Outcome State Fault Refusal :=
  complete (lostPollExpire link row) s

/-- R125: the wake line changes. -/
def execWakeLineChange (link : Fin 6) (asserted : Bool) (s : State) : Host.Outcome State Fault Refusal :=
  complete (wakeLineChanged link asserted) s

/-- R127: the end of Waking. -/
def execWarmUpTimerExpiry (link : Fin 6) (s : State) : Host.Outcome State Fault Refusal := complete (warmExpire link) s

end Sys2Proof.Machine
end

