-- ==== Sys2Proof/Machine/LinkLevelRequests.lean ====
section
/-! DEFINITION. The meanings of the requests that name a link, a level or a curve: LINK_SET_ENABLE, LINK_SET_DISABLE, LINK_RESET,
LINK_PARK, LINK_WAKE, LINK_ASK, LEVEL_SET, CURVE_SET, LIGHT_ASK. -/

namespace Sys2Proof.Machine

/-- R110: LINK-SET with enable on. -/
def execLinkSetEnable (port : Port) (tag link cap wakeMode autoWake warmUp : Byte) (s : State) :
    Host.Outcome State Fault Refusal :=
  complete (requestArrives port tag (.linkSet link 1 cap wakeMode autoWake warmUp)) s

/-- R111: LINK-SET with enable off. -/
def execLinkSetDisable (port : Port) (tag link cap wakeMode autoWake warmUp : Byte) (s : State) :
    Host.Outcome State Fault Refusal :=
  complete (requestArrives port tag (.linkSet link 0 cap wakeMode autoWake warmUp)) s

/-- R126: LINK-RESET. -/
def execLinkReset (port : Port) (tag link : Byte) (s : State) : Host.Outcome State Fault Refusal :=
  complete (requestArrives port tag (.linkReset link)) s

/-- R123: LINK-PARK. -/
def execLinkPark (port : Port) (tag link : Byte) (s : State) : Host.Outcome State Fault Refusal :=
  complete (requestArrives port tag (.linkPark link)) s

/-- R126: LINK-WAKE. -/
def execLinkWake (port : Port) (tag link : Byte) (s : State) : Host.Outcome State Fault Refusal :=
  complete (requestArrives port tag (.linkWake link)) s

/-- R134: LINK-ASK. -/
def execLinkAsk (port : Port) (tag link : Byte) (s : State) : Host.Outcome State Fault Refusal :=
  complete (requestArrives port tag (.linkAsk link)) s

/-- R150: LEVEL-SET. -/
def execLevelSet (port : Port) (tag screen mode target step input curve : Byte) (s : State) :
    Host.Outcome State Fault Refusal :=
  complete (requestArrives port tag (.levelSet screen mode target step input curve)) s

/-- R157: CURVE-SET. -/
def execCurveSet (port : Port) (tag curve : Byte) (points : List RawPoint) (s : State) :
    Host.Outcome State Fault Refusal :=
  complete (requestArrives port tag (.curveSet curve points)) s

/-- R158: LIGHT-ASK. -/
def execLightAsk (port : Port) (tag : Byte) (s : State) : Host.Outcome State Fault Refusal :=
  complete (requestArrives port tag (.lightAsk)) s

end Sys2Proof.Machine
end

