-- ==== Sys2Proof/Machine/PacketCommands.lean ====
section
/-! DEFINITION. The meanings of the upstream packets: TAKEN, REFUSED, SHOWN, LOSS, HELLO, STATE, NOTE,
UPSTREAM_CHECK_FAILURE, PACKET_OF_NO_LISTED_KIND. -/

namespace Sys2Proof.Machine

/-- R97: a TAKEN. -/
def execTaken (link : Fin 6) (address : Byte) (tile : Half) (signature : Signature) (s : State) :
    Host.Outcome State Fault Refusal :=
  complete (takePacket link address (takenTaken link address tile signature)) s

/-- R98: a REFUSED. -/
def execRefused (link : Fin 6) (address : Byte) (tile : Half) (reason : Byte) (s : State) :
    Host.Outcome State Fault Refusal :=
  complete (takePacket link address (refusedTaken link address tile reason)) s

/-- R74: a SHOWN. -/
def execShown (link : Fin 6) (address : Byte) (number : Half) (s : State) : Host.Outcome State Fault Refusal :=
  complete (takePacket link address (shownTaken link address number)) s

/-- R56: a LOSS. -/
def execLoss (link : Fin 6) (address : Byte) (s : State) : Host.Outcome State Fault Refusal :=
  complete (takePacket link address (lossTaken link address)) s

/-- R115: a HELLO. -/
def execHello (link : Fin 6) (address : Byte) (identity : Identity) (credit columns rows : Byte) (s : State) :
    Host.Outcome State Fault Refusal :=
  complete (takePacket link address (helloTaken link address identity credit columns rows)) s

/-- R119, R120: a STATE. -/
def execState (link : Fin 6) (address credit : Byte) (s : State) : Host.Outcome State Fault Refusal :=
  complete (takePacket link address (stateTaken link address credit)) s

/-- R133, R195: a NOTE; one of more than 16 bytes fails its layout. -/
def noteArrives (l : Fin 6) (address : Byte) (payload : List Byte) (h : Hub) : Hub :=
  if 16 < payload.length then upstreamFailure l h else takePacket l address (noteTaken l address payload) h

/-- R133: a NOTE. -/
def execNote (link : Fin 6) (address : Byte) (payload : List Byte) (s : State) : Host.Outcome State Fault Refusal :=
  complete (noteArrives link address payload) s

/-- R105: an upstream packet that fails its check or its layout. -/
def execUpstreamCheckFailure (link : Fin 6) (s : State) : Host.Outcome State Fault Refusal :=
  complete (upstreamFailure link) s

/-- R131, R195: a packet whose kind is none of the upstream kinds; a listed kind is no such packet. -/
def unlistedArrives (l : Fin 6) (address kind : Byte) (h : Hub) : Hub :=
  if listedUpstream kind then h else takePacket l address (unlistedTaken l address) h

/-- R131: a packet of no listed kind. -/
def execPacketOfNoListedKind (link : Fin 6) (address kind : Byte) (s : State) : Host.Outcome State Fault Refusal :=
  complete (unlistedArrives link address kind) s

end Sys2Proof.Machine
end

