-- ==== Sys2Proof/Machine/PlateRequests.lean ====
section
/-! DEFINITION. The meanings of the requests to the plate store and of its own event: PLATE_OPEN, PLATE_COMMIT, COMMIT_DONE,
PLATE_DROP, PLATE_ASK. -/

namespace Sys2Proof.Machine

/-- R24: PLATE-OPEN. -/
def execPlateOpen (port : Port) (tag plate columns rows : Byte) (s : State) : Host.Outcome State Fault Refusal :=
  complete (requestArrives port tag (.plateOpen plate columns rows)) s

/-- R29: PLATE-COMMIT. -/
def execPlateCommit (port : Port) (tag plate : Byte) (s : State) : Host.Outcome State Fault Refusal :=
  complete (requestArrives port tag (.plateCommit plate)) s

/-- R30: commit done of a plate. -/
def execCommitDone (plate : Fin 16) (s : State) : Host.Outcome State Fault Refusal := complete (commitDone plate) s

/-- R35: PLATE-DROP. -/
def execPlateDrop (port : Port) (tag plate : Byte) (s : State) : Host.Outcome State Fault Refusal :=
  complete (requestArrives port tag (.plateDrop plate)) s

/-- R36: PLATE-ASK. -/
def execPlateAsk (port : Port) (tag plate : Byte) (s : State) : Host.Outcome State Fault Refusal :=
  complete (requestArrives port tag (.plateAsk plate)) s

end Sys2Proof.Machine
end

