-- ==== Sys2Proof/Machine/PortCommands.lean ====
section
/-! DEFINITION. The meanings of the events of a control port's line: BYTE_EVENT, FRAME_ARRIVAL, LINE_ERROR,
GAP_TIMER_EXPIRY, CONTROL_FRAME_TRANSMITTED, BAD_KIND, PLATE_DATA, PLATE_DATA_END. -/

namespace Sys2Proof.Machine

/-- R160, R161: one character. -/
def execByteEvent (p : Port) (b : Byte) (parityBit stopBit : Bool) (s : State) : Host.Outcome State Fault Refusal :=
  complete (byteArrives p b (characterGood b parityBit stopBit)) s

/-- R163: a good frame arrives. -/
def execFrameArrival (p : Port) (kind tag : Byte) (body : List Byte) (s : State) : Host.Outcome State Fault Refusal :=
  complete (frameArrives p { kind := kind, tag := tag, body := body }) s

/-- R162: a framing, length or crc fault inside a frame. -/
def execLineError (p : Port) (fault : LineFault) (s : State) : Host.Outcome State Fault Refusal :=
  complete (lineFaults p fault) s

/-- R161: the expiry of the gap timer. -/
def execGapTimerExpiry (p : Port) (s : State) : Host.Outcome State Fault Refusal := complete (gapExpire p) s

/-- R166: the end of transmission of a reply or notice. -/
def execControlFrameTransmitted (p : Port) (s : State) : Host.Outcome State Fault Refusal := complete (frameSent p) s

/-- R173 step 1: the arrival of a frame whose kind is no request kind. -/
def badKindArrives (p : Port) (kind tag : Byte) (h : Hub) : Hub :=
  if (requestKind kind).isNone then frameArrives p { kind := kind, tag := tag, body := [] } h else h

/-- R173: a frame of no request kind, refused BadKind when it is handled. -/
def execBadKind (p : Port) (kind tag : Byte) (s : State) : Host.Outcome State Fault Refusal :=
  complete (badKindArrives p kind tag) s

/-- R26: a write-through PLATE-DATA, up to and with its header check byte. -/
def execPlateData (p : Port) (tag plate tile headerCheck : Byte) (s : State) : Host.Outcome State Fault Refusal :=
  complete (plateDataArrives p tag plate tile headerCheck) s

/-- R27: the second check byte of an accepted PLATE-DATA. -/
def execPlateDataEnd (p : Port) (lastCheckByte : Byte) (s : State) : Host.Outcome State Fault Refusal :=
  complete (plateDataEnds p lastCheckByte) s

end Sys2Proof.Machine
end

