-- ==== Sys2Proof/Machine/ResetCommands.lean ====
section
/-! DEFINITION. The meanings of POWER_ON, STARTING_END and TIME_BASE_TICK. -/

namespace Sys2Proof.Machine

/-- R170, R160: the reset pin is released; the straps of port A and of port B, first and second, are read. -/
def execPowerOn (a1 a2 b1 b2 : Bool) (s : State) : Host.Outcome State Fault Refusal :=
  complete (powersOn a1 a2 b1 b2) s

/-- R170: Starting ends, from the 20th tick on. -/
def execStartingEnd (s : State) : Host.Outcome State Fault Refusal := complete startingEnds s

/-- R63: one tick of the time base. -/
def execTimeBaseTick (s : State) : Host.Outcome State Fault Refusal := complete tickArrives s

end Sys2Proof.Machine
end

