-- ==== Sys2Proof/Machine/ScreenRequests.lean ====
section
/-! DEFINITION. The meanings of the requests that name a screen or a group: SCREEN_BIND, SCREEN_UNBIND, SCREEN_ASK,
LAYOUT_SET, FILL_SET, PACE_SET_SCREEN, PACE_SET_GROUP, GROUP_SET, CLAIM, YIELD, SEIZE, RETURN. -/

namespace Sys2Proof.Machine

/-- R39: SCREEN-BIND. -/
def execScreenBind (port : Port) (tag screen link : Byte) (identity : Identity) (columns rows : Byte) (fill : Colour)
    (s : State) : Host.Outcome State Fault Refusal :=
  complete (requestArrives port tag (.screenBind screen link identity columns rows fill)) s

/-- R60: SCREEN-UNBIND. -/
def execScreenUnbind (port : Port) (tag screen : Byte) (s : State) : Host.Outcome State Fault Refusal :=
  complete (requestArrives port tag (.screenUnbind screen)) s

/-- R61: SCREEN-ASK. -/
def execScreenAsk (port : Port) (tag screen : Byte) (s : State) : Host.Outcome State Fault Refusal :=
  complete (requestArrives port tag (.screenAsk screen)) s

/-- R45: LAYOUT-SET. -/
def execLayoutSet (port : Port) (tag screen stampPresent : Byte) (stamp : Half) (views : List RawView) (s : State) :
    Host.Outcome State Fault Refusal :=
  complete (requestArrives port tag (.layoutSet screen stampPresent stamp views)) s

/-- R42: FILL-SET. -/
def execFillSet (port : Port) (tag screen : Byte) (fill : Colour) (s : State) : Host.Outcome State Fault Refusal :=
  complete (requestArrives port tag (.fillSet screen fill)) s

/-- R65: PACE-SET naming a screen. -/
def execPaceSetScreen (port : Port) (tag screen : Byte) (pace : Half) (s : State) : Host.Outcome State Fault Refusal :=
  complete (requestArrives port tag (.paceSet 0 screen pace)) s

/-- R82: PACE-SET naming a group. -/
def execPaceSetGroup (port : Port) (tag group : Byte) (pace : Half) (s : State) : Host.Outcome State Fault Refusal :=
  complete (requestArrives port tag (.paceSet 1 group pace)) s

/-- R81: GROUP-SET. -/
def execGroupSet (port : Port) (tag screen groupPresent group : Byte) (s : State) : Host.Outcome State Fault Refusal :=
  complete (requestArrives port tag (.groupSet screen groupPresent group)) s

/-- R138: CLAIM. -/
def execClaim (port : Port) (tag screen : Byte) (s : State) : Host.Outcome State Fault Refusal :=
  complete (requestArrives port tag (.claim screen)) s

/-- R139: YIELD. -/
def execYield (port : Port) (tag screen : Byte) (s : State) : Host.Outcome State Fault Refusal :=
  complete (requestArrives port tag (.yieldScreen screen)) s

/-- R141, R142: SEIZE. -/
def execSeize (port : Port) (tag screen : Byte) (views : List RawView) (s : State) : Host.Outcome State Fault Refusal :=
  complete (requestArrives port tag (.seize screen views)) s

/-- R144: RETURN. -/
def execReturn (port : Port) (tag screen : Byte) (s : State) : Host.Outcome State Fault Refusal :=
  complete (requestArrives port tag (.returnScreen screen)) s

end Sys2Proof.Machine
end

