-- ==== Sys2Proof/Machine/Dispatch.lean ====
section
/-! DEFINITION. The meaning of every command: one arm per constructor, each one direct call. -/

namespace Sys2Proof.Machine

/-- The command's effect on everything but the queue. -/
def exec (i : Instr) (s : State) : Host.Outcome State Fault Refusal :=
  match i with
  | .powerOn a1 a2 b1 b2 => Sys2Proof.Machine.execPowerOn a1 a2 b1 b2 s
  | .startingEnd => Sys2Proof.Machine.execStartingEnd s
  | .timeBaseTick => Sys2Proof.Machine.execTimeBaseTick s
  | .frameStart input => Sys2Proof.Machine.execFrameStart input s
  | .line input pixels => Sys2Proof.Machine.execLine input pixels s
  | .frameEnd input => Sys2Proof.Machine.execFrameEnd input s
  | .silenceTimerExpiry input => Sys2Proof.Machine.execSilenceTimerExpiry input s
  | .frameArrival port kind tag body => Sys2Proof.Machine.execFrameArrival port kind tag body s
  | .lineError port fault => Sys2Proof.Machine.execLineError port fault s
  | .gapTimerExpiry port => Sys2Proof.Machine.execGapTimerExpiry port s
  | .controlFrameTransmitted port => Sys2Proof.Machine.execControlFrameTransmitted port s
  | .badKind port kind tag => Sys2Proof.Machine.execBadKind port kind tag s
  | .hubAsk port tag => Sys2Proof.Machine.execHubAsk port tag s
  | .hubReset port tag => Sys2Proof.Machine.execHubReset port tag s
  | .lineSet port tag rate => Sys2Proof.Machine.execLineSet port tag rate s
  | .noticeSet port tag kinds => Sys2Proof.Machine.execNoticeSet port tag kinds s
  | .inputSetEnable port tag input columns rows => Sys2Proof.Machine.execInputSetEnable port tag input columns rows s
  | .inputSetDisable port tag input columns rows => Sys2Proof.Machine.execInputSetDisable port tag input columns rows s
  | .inputAsk port tag input => Sys2Proof.Machine.execInputAsk port tag input s
  | .plateOpen port tag plate columns rows => Sys2Proof.Machine.execPlateOpen port tag plate columns rows s
  | .plateData port tag plate tile headerCheck => Sys2Proof.Machine.execPlateData port tag plate tile headerCheck s
  | .plateDataEnd port lastCheckByte => Sys2Proof.Machine.execPlateDataEnd port lastCheckByte s
  | .plateCommit port tag plate => Sys2Proof.Machine.execPlateCommit port tag plate s
  | .commitDone plate => Sys2Proof.Machine.execCommitDone plate s
  | .plateDrop port tag plate => Sys2Proof.Machine.execPlateDrop port tag plate s
  | .plateAsk port tag plate => Sys2Proof.Machine.execPlateAsk port tag plate s
  | .screenBind port tag screen link identity columns rows fill => Sys2Proof.Machine.execScreenBind port tag screen link identity columns rows fill s
  | .screenUnbind port tag screen => Sys2Proof.Machine.execScreenUnbind port tag screen s
  | .screenAsk port tag screen => Sys2Proof.Machine.execScreenAsk port tag screen s
  | .layoutSet port tag screen stampPresent stamp views => Sys2Proof.Machine.execLayoutSet port tag screen stampPresent stamp views s
  | .fillSet port tag screen fill => Sys2Proof.Machine.execFillSet port tag screen fill s
  | .paceSetScreen port tag screen pace => Sys2Proof.Machine.execPaceSetScreen port tag screen pace s
  | .paceSetGroup port tag group pace => Sys2Proof.Machine.execPaceSetGroup port tag group pace s
  | .groupSet port tag screen groupPresent group => Sys2Proof.Machine.execGroupSet port tag screen groupPresent group s
  | .claim port tag screen => Sys2Proof.Machine.execClaim port tag screen s
  | .yieldScreen port tag screen => Sys2Proof.Machine.execYield port tag screen s
  | .seize port tag screen views => Sys2Proof.Machine.execSeize port tag screen views s
  | .returnScreen port tag screen => Sys2Proof.Machine.execReturn port tag screen s
  | .linkSetEnable port tag link cap wakeMode autoWake warmUp => Sys2Proof.Machine.execLinkSetEnable port tag link cap wakeMode autoWake warmUp s
  | .linkSetDisable port tag link cap wakeMode autoWake warmUp => Sys2Proof.Machine.execLinkSetDisable port tag link cap wakeMode autoWake warmUp s
  | .linkReset port tag link => Sys2Proof.Machine.execLinkReset port tag link s
  | .linkPark port tag link => Sys2Proof.Machine.execLinkPark port tag link s
  | .linkWake port tag link => Sys2Proof.Machine.execLinkWake port tag link s
  | .linkAsk port tag link => Sys2Proof.Machine.execLinkAsk port tag link s
  | .levelSet port tag screen mode target step input curve => Sys2Proof.Machine.execLevelSet port tag screen mode target step input curve s
  | .curveSet port tag curve points => Sys2Proof.Machine.execCurveSet port tag curve points s
  | .lightAsk port tag => Sys2Proof.Machine.execLightAsk port tag s
  | .paceGateOpens screen => Sys2Proof.Machine.execPaceGateOpens screen s
  | .groupPaceGateOpens group => Sys2Proof.Machine.execGroupPaceGateOpens group s
  | .cycleStart screen => Sys2Proof.Machine.execCycleStart screen s
  | .jointStart group => Sys2Proof.Machine.execJointStart group s
  | .bufferGrant => Sys2Proof.Machine.execBufferGrant s
  | .loadEnd buffer => Sys2Proof.Machine.execLoadEnd buffer s
  | .tileTransmitted link => Sys2Proof.Machine.execTileTransmitted link s
  | .showTransmitted link => Sys2Proof.Machine.execShowTransmitted link s
  | .rollTransmitted link => Sys2Proof.Machine.execRollTransmitted link s
  | .pollTransmitted link => Sys2Proof.Machine.execPollTransmitted link s
  | .parkTransmitted link => Sys2Proof.Machine.execParkTransmitted link s
  | .taken link address tile signature => Sys2Proof.Machine.execTaken link address tile signature s
  | .refused link address tile reason => Sys2Proof.Machine.execRefused link address tile reason s
  | .replyTimerExpiry buffer => Sys2Proof.Machine.execReplyTimerExpiry buffer s
  | .gatheringEnd screen => Sys2Proof.Machine.execGatheringEnd screen s
  | .cutEnd screen => Sys2Proof.Machine.execCutEnd screen s
  | .groupRelease group => Sys2Proof.Machine.execGroupRelease group s
  | .shown link address number => Sys2Proof.Machine.execShown link address number s
  | .showTimerExpiry screen => Sys2Proof.Machine.execShowTimerExpiry screen s
  | .loss link address => Sys2Proof.Machine.execLoss link address s
  | .upstreamCheckFailure link => Sys2Proof.Machine.execUpstreamCheckFailure link s
  | .checkWindowClear => Sys2Proof.Machine.execCheckWindowClear s
  | .holdTimerExpiry link => Sys2Proof.Machine.execHoldTimerExpiry link s
  | .lock link rate => Sys2Proof.Machine.execLock link rate s
  | .attemptTimerExpiry link => Sys2Proof.Machine.execAttemptTimerExpiry link s
  | .retryTimerExpiry link => Sys2Proof.Machine.execRetryTimerExpiry link s
  | .lossOfLock link => Sys2Proof.Machine.execLossOfLock link s
  | .hello link address identity credit columns rows => Sys2Proof.Machine.execHello link address identity credit columns rows s
  | .rollWaitExpiry link => Sys2Proof.Machine.execRollWaitExpiry link s
  | .silenceTimerExpiryLink link row => Sys2Proof.Machine.execSilenceTimerExpiryLink link row s
  | .pollWaitExpiry link row => Sys2Proof.Machine.execPollWaitExpiry link row s
  | .lostPollTimerExpiry link row => Sys2Proof.Machine.execLostPollTimerExpiry link row s
  | .state link address credit => Sys2Proof.Machine.execState link address credit s
  | .note link address payload => Sys2Proof.Machine.execNote link address payload s
  | .wakeLineChange link asserted => Sys2Proof.Machine.execWakeLineChange link asserted s
  | .warmUpTimerExpiry link => Sys2Proof.Machine.execWarmUpTimerExpiry link s
  | .levelTick => Sys2Proof.Machine.execLevelTick s
  | .conversionStart => Sys2Proof.Machine.execConversionStart s
  | .conversionEnd input result => Sys2Proof.Machine.execConversionEnd input result s
  | .byteEvent port byte parityBit stopBit => Sys2Proof.Machine.execByteEvent port byte parityBit stopBit s
  | .levelOrBlankTransmitted link => Sys2Proof.Machine.execLevelOrBlankTransmitted link s
  | .packetOfNoListedKind link address kind => Sys2Proof.Machine.execPacketOfNoListedKind link address kind s

end Sys2Proof.Machine
end

