-- ==== Sys2Proof/WellFormed.lean ====
section
/-! DEFINITION. The commands that the outside can form: what a row says of its event, decided of its operands. The
meanings are total: a command that is not well formed is a frame, packet or kind the part judges or that cannot occur,
and changes no more than that. -/

namespace Sys2Proof

/-- R194: the address of a packet that passes its layout is 0 to 15. -/
def addressByte (b : Byte) : Bool := decide (b.toNat ≤ 15)

/-- A LAYOUT-SET or SEIZE carries 0 to 4 views (R180), a CURVE-SET 8 points (R183), a NOTE 0 to 16 bytes (R194); an
arriving frame is not one of write-through (R161); BAD_KIND names no request kind (R173) and PACKET_OF_NO_LISTED_KIND no
upstream kind (R195). -/
def Instr.wellFormed : Instr → Bool
  | .powerOn .. => true
  | .startingEnd => true
  | .timeBaseTick => true
  | .frameStart .. => true
  | .line .. => true
  | .frameEnd .. => true
  | .silenceTimerExpiry .. => true
  | .frameArrival _ kind tag body => Machine.ordinaryFrame { kind := kind, tag := tag, body := body }
  | .lineError .. => true
  | .gapTimerExpiry .. => true
  | .controlFrameTransmitted .. => true
  | .badKind _ kind _ => (Machine.requestKind kind).isNone
  | .hubAsk .. => true
  | .hubReset .. => true
  | .lineSet .. => true
  | .noticeSet .. => true
  | .inputSetEnable .. => true
  | .inputSetDisable .. => true
  | .inputAsk .. => true
  | .plateOpen .. => true
  | .plateData .. => true
  | .plateDataEnd .. => true
  | .plateCommit .. => true
  | .commitDone .. => true
  | .plateDrop .. => true
  | .plateAsk .. => true
  | .screenBind .. => true
  | .screenUnbind .. => true
  | .screenAsk .. => true
  | .layoutSet _ _ _ _ _ views => decide (views.length ≤ 4)
  | .fillSet .. => true
  | .paceSetScreen .. => true
  | .paceSetGroup .. => true
  | .groupSet .. => true
  | .claim .. => true
  | .yieldScreen .. => true
  | .seize _ _ _ views => decide (views.length ≤ 4)
  | .returnScreen .. => true
  | .linkSetEnable .. => true
  | .linkSetDisable .. => true
  | .linkReset .. => true
  | .linkPark .. => true
  | .linkWake .. => true
  | .linkAsk .. => true
  | .levelSet .. => true
  | .curveSet _ _ _ points => decide (points.length = 8)
  | .lightAsk .. => true
  | .paceGateOpens .. => true
  | .groupPaceGateOpens .. => true
  | .cycleStart .. => true
  | .jointStart .. => true
  | .bufferGrant => true
  | .loadEnd .. => true
  | .tileTransmitted .. => true
  | .showTransmitted .. => true
  | .rollTransmitted .. => true
  | .pollTransmitted .. => true
  | .parkTransmitted .. => true
  | .taken _ address _ _ => addressByte address
  | .refused _ address _ _ => addressByte address
  | .replyTimerExpiry .. => true
  | .gatheringEnd .. => true
  | .cutEnd .. => true
  | .groupRelease .. => true
  | .shown _ address _ => addressByte address
  | .showTimerExpiry .. => true
  | .loss _ address => addressByte address
  | .upstreamCheckFailure .. => true
  | .checkWindowClear => true
  | .holdTimerExpiry .. => true
  | .lock .. => true
  | .attemptTimerExpiry .. => true
  | .retryTimerExpiry .. => true
  | .lossOfLock .. => true
  | .hello _ address _ _ _ _ => addressByte address
  | .rollWaitExpiry .. => true
  | .silenceTimerExpiryLink .. => true
  | .pollWaitExpiry .. => true
  | .lostPollTimerExpiry .. => true
  | .state _ address _ => addressByte address
  | .note _ address payload => addressByte address && decide (payload.length ≤ 16)
  | .wakeLineChange .. => true
  | .warmUpTimerExpiry .. => true
  | .levelTick => true
  | .conversionStart => true
  | .conversionEnd .. => true
  | .byteEvent .. => true
  | .levelOrBlankTransmitted .. => true
  | .packetOfNoListedKind _ address kind => addressByte address && !Machine.listedUpstream kind

end Sys2Proof
end

