-- ==== Sys2Proof/Safety.lean ====
section
/-! DEFINITION. The words the statements are written in: what it is for a command to complete with a given effect, when a
port handles a frame at its arrival, what the consequences of an event leave alone, and the laws of the device that a step
keeps. -/

namespace Sys2Proof.Machine

/-- The command completes, and its own effect on the part is `h`; what then follows at the event is `settle` (log 2). -/
def Completes (c : Instr) (s : State) (h : Hub) : Prop := exec c s = .next { s with hub := settle h }

/-- The part with the receiver of a port Hunting, as it is after the last byte of a frame (R161). -/
def Hub.hunting (p : Port) (h : Hub) : Hub := h.modPort p PortState.hunt

/-- R164: a frame that arrives on the port now is handled at its arrival. -/
def handlesAtOnce (p : Port) (h : Hub) : Bool := takesFrames p h && beginsAtOnce (h.port p)

/-- No frame waits in an input queue. -/
def noFrameWaits (h : Hub) : Prop := h.portA.input = [] ∧ h.portB.input = []

/-! ### What an event's consequences leave alone -/

/-- Binding, owner, stamp, group, pace, seize record, level settings, present number and failure run of a slot, and the
number of its directory entries. -/
def Screen.Kept (x y : Screen) : Prop :=
  y.link = x.link ∧ y.identity = x.identity ∧ y.size = x.size ∧ y.owner = x.owner ∧ y.stamp = x.stamp ∧
    y.group = x.group ∧ y.pace = x.pace ∧ y.seize = x.seize ∧ y.failures = x.failures ∧ y.present = x.present ∧
    y.entries.length = x.entries.length ∧ y.level = x.level

/-- Settings, counters and the wake line of a link. -/
def Link.Kept (x y : Link) : Prop :=
  y.enabled = x.enabled ∧ y.configuredCap = x.configuredCap ∧ y.currentCap = x.currentCap ∧ y.wakeMode = x.wakeMode ∧
    y.autoWake = x.autoWake ∧ y.warmUp = x.warmUp ∧ y.protocolFaults = x.protocolFaults ∧
    y.strangerPackets = x.strangerPackets ∧ y.strays = x.strays ∧ y.wakeLine = x.wakeLine

/-- Everything of a port but its reply and notice queues and the frame on its line. -/
def PortState.Kept (x y : PortState) : Prop :=
  y = { x with replies := y.replies, notices := y.notices, line := y.line }

/-- The address lies outside the buffers' tile copies. -/
def outsideBuffers (a : Nat) : Prop := a < Config.bufferBase 0 ∨ Config.bufferBase 32 ≤ a

/-- What the consequences of an event leave alone while no frame waits. -/
structure Hub.Kept (h k : Hub) : Prop where
  starting : k.starting = h.starting
  cause : k.cause = h.cause
  ticks : k.ticks = h.ticks
  levelDue : k.levelDue = h.levelDue
  windowDue : k.windowDue = h.windowDue
  conversionDue : k.conversionDue = h.conversionDue
  free : k.free = h.free
  captures : k.captures = h.captures
  lights : k.lights = h.lights
  curves : k.curves = h.curves
  plates : ∀ p : Fin 16, k.plates[p].size = h.plates[p].size ∧ k.plates[p].live = h.plates[p].live ∧
    k.plates[p].version = h.plates[p].version
  screens : ∀ n : Fin 8, Screen.Kept h.screens[n] k.screens[n]
  groups : ∀ g : Fin 4, k.groups[g].pace = h.groups[g].pace
  links : ∀ l : Fin 6, Link.Kept h.links[l] k.links[l]
  portA : PortState.Kept h.portA k.portA
  portB : PortState.Kept h.portB k.portB
  dram : ∀ a, outsideBuffers a → k.dram.read a = h.dram.read a

/-! ### Laws of the device -/

/-- R140: a screen with a seize record is owned by port B. -/
def seizedOwnedByB (h : Hub) : Prop := ∀ n : Fin 8, h.screens[n].seize.isSome → h.screens[n].owner = some .b

/-- R40: the directory entries of all screens total at most 8192, and an Unbound slot has none. -/
def poolLaw (h : Hub) : Prop :=
  (allScreens.map fun n => h.screens[n].entries.length).sum ≤ Config.poolEntries ∧
    ∀ n : Fin 8, h.screens[n].state = .unbound → h.screens[n].entries = []

/-- R159, R165: an input queue holds at most 4 frames, a reply queue with its reserved place at most 8 replies and a
notice queue at most 32 notices; an accepted PLATE-DATA in reception holds its place in handling (R26). -/
def PortState.bounded (x : PortState) : Prop :=
  x.input.length ≤ Config.inputCapacity ∧ x.replies.length + x.reserved ≤ Config.replyCapacity ∧
    x.notices.length ≤ Config.noticeCapacity ∧
    ∀ r pl c t, x.receiver = .receiving r → r.through = some (.accepted pl c t) →
      ∃ tag tile, x.handling = some (.plateData tag pl tile)

def queuesBounded (h : Hub) : Prop := h.portA.bounded ∧ h.portB.bounded

/-- R14, first law, with the fields of the capture unit that go with it: a surface has one Filling slot exactly when its
input is Filling, the capture unit names it, and it has no reader. -/
def fillingLaw (h : Hub) : Prop :=
  ∀ i : Fin 2, (∀ k : Fin 3, h.slots[i][k].state = .filling ↔ h.captures[i].filling = some k) ∧
    (∀ k : Fin 3, h.slots[i][k].state = .filling → h.slots[i][k].readers = ScreenSet.empty) ∧
    (h.captures[i].filling.isSome ↔ h.captures[i].state = .filling)

/-- R14, second law: a surface has at most one Newest slot. -/
def newestLaw (h : Hub) : Prop :=
  ∀ (i : Fin 2) (j k : Fin 3), h.slots[i][j].state = .newest → h.slots[i][k].state = .newest → j = k

/-- R23, with what goes with it: a Loading or Committing copy is not the live one and has no reader, an Empty copy has no
reader, and the live copy is Live. -/
def plateLaw (h : Hub) : Prop :=
  ∀ (p : Fin 16) (c : Fin 2) (x : PlateCopy), x = h.plates[p].copies[c] →
    (x.state = .loading ∨ x.state = .committing → h.plates[p].live ≠ some c) ∧
    (x.state = .loading ∨ x.state = .committing ∨ x.state = .empty → x.readers = ScreenSet.empty) ∧
    (h.plates[p].live = some c → x.state = .live)

/-- R64: a present engine has a cycle state exactly while its screen is Joined. -/
def cycleLaw (h : Hub) : Prop := ∀ n : Fin 8, h.screens[n].engine.cycle.isSome ↔ h.screens[n].state = .joined

/-- R71: a screen is in the reader set of at most one slot of a surface and one copy of a plate, and only while it is
Gathering. -/
def readerLaw (h : Hub) : Prop :=
  ∀ n : Fin 8,
    (∀ (i : Fin 2) (j k : Fin 3), h.slots[i][j].readers[n] = true → h.slots[i][k].readers[n] = true → j = k) ∧
    (∀ (p : Fin 16) (c d : Fin 2), h.plates[p].copies[c].readers[n] = true → h.plates[p].copies[d].readers[n] = true →
      c = d) ∧
    (∀ (i : Fin 2) (j : Fin 3), h.slots[i][j].readers[n] = true → h.screens[n].engine.cycle = some .gathering) ∧
    (∀ (p : Fin 16) (c : Fin 2), h.plates[p].copies[c].readers[n] = true →
      h.screens[n].engine.cycle = some .gathering)

/-- R73, R71: an entry is Behind or Sending only while its screen is Gathering or Cutting, so a SHOW, which is handed on
from Ready and in Presenting, finds none. -/
def showLaw (h : Hub) : Prop :=
  ∀ n : Fin 8, ∀ e ∈ h.screens[n].entries, e.state = .behind ∨ e.state = .sending →
    h.screens[n].engine.cycle = some .gathering ∨ h.screens[n].engine.cycle = some .cutting

/-- R92: the buffer carries the entry: it is lent for it and not voided. -/
def carries (h : Hub) (b : Fin 32) (n : Fin 8) (t : Nat) : Prop :=
  ∃ x, h.buffers[b] = some x ∧ x.voided = false ∧ x.screen = n ∧ x.tile = t

/-- R92: an entry is Sending exactly when a buffer carries it, and no two do; a buffer that carries an entry is lent to
the address that names the screen. -/
def sendingLaw (h : Hub) : Prop :=
  (∀ (n : Fin 8) (t : Nat),
    (h.screens[n].entries[t]?).map (·.state) = some .sending ↔ ∃ b, carries h b n t) ∧
  (∀ (b c : Fin 32) (n : Fin 8) (t : Nat), carries h b n t → carries h c n t → b = c) ∧
  ∀ (b : Fin 32) (x : Lend), h.buffers[b] = some x → x.voided = false →
    h.links[x.link].rows[x.row].assignment = .screen x.screen

/-- R94: the buffers of a screen that are not voided. -/
def unvoided (h : Hub) (n : Fin 8) : Nat :=
  (allBuffers.filter fun b =>
    match h.buffers[b] with
    | some x => !x.voided && x.screen == n
    | none => false).length

/-- R94: no Joined screen has more buffers that are not voided than the credit its address advertised. -/
def creditLaw (h : Hub) : Prop :=
  ∀ (n : Fin 8) (l : Fin 6) (a : Fin 2), h.screens[n].state = .joined →
    h.links[l].rows[a].assignment = .screen n → ∃ c, h.links[l].rows[a].credit = some c ∧ unvoided h n ≤ c

/-- R108, R115: a Joined or Lost screen holds one address of its link, which is Rolling or Up; an address names only a
screen bound to its link, no screen has two, and in Rolling and Up none is named that is not Joined or Lost. So no link
has more than two Joined screens, at different addresses. -/
def addressLaw (h : Hub) : Prop :=
  (∀ n : Fin 8, h.screens[n].state = .joined ∨ h.screens[n].state = .lost →
    ∃ (l : Fin 6) (a : Fin 2), h.screens[n].link = some l ∧ h.links[l].rows[a].assignment = .screen n ∧
      (h.links[l].state = .rolling ∨ h.links[l].state = .up)) ∧
  ∀ (l : Fin 6) (a : Fin 2) (n : Fin 8), h.links[l].rows[a].assignment = .screen n →
    h.screens[n].link = some l ∧ h.screens[n].state ≠ .unbound ∧
      h.links[l].rows[other a].assignment ≠ .screen n ∧
      (h.links[l].state = .rolling ∨ h.links[l].state = .up →
        h.screens[n].state = .joined ∨ h.screens[n].state = .lost)

/-- The address a ROLL offers. -/
def Packet.rollRow : Packet → Option (Fin 2)
  | .roll a => some a
  | _ => none

/-- The packets of a link that wait or are on its line and whose end is to have its effect. -/
def Link.packets (k : Link) : List Packet := (livePacket k).toList ++ k.control

/-- R114: the addresses that a link offers or is about to offer. -/
def Link.offers (k : Link) : List (Fin 2) := k.offered.toList ++ k.packets.filterMap Packet.rollRow

/-- R114: a link offers one address at a time, in Rolling only, whose row and the rows after it are unassigned; the roll
wait runs exactly while an offer stands. R123: PARK waits only while the link is Up. -/
def rollLaw (h : Hub) : Prop :=
  ∀ (l : Fin 6) (k : Link), k = h.links[l] →
    k.offers.length ≤ 1 ∧ (k.offers ≠ [] → k.state = .rolling) ∧
      (∀ a ∈ k.offers, ∀ b : Fin 2, a ≤ b → k.rows[b].assignment = .unassigned) ∧
      (k.rollWait.isSome ↔ k.offered.isSome) ∧ (.park ∈ k.packets → k.state = .up)

/-- The laws of reader sets and plate copies (R23, R71), with R64. -/
def readerLaws (h : Hub) : Prop := plateLaw h ∧ cycleLaw h ∧ readerLaw h

/-- The laws of delivery (R73, R92, R94, R115), with R64 and what R108 and R114 say of addresses. -/
def deliveryLaws (h : Hub) : Prop :=
  cycleLaw h ∧ showLaw h ∧ sendingLaw h ∧ creditLaw h ∧ addressLaw h ∧ rollLaw h

end Sys2Proof.Machine
end

