-- ==== Sys2Proof/Certificates/Slice0/Obligations.lean ====
section
/-! DEFINITION. The statements for the provers. `Completes c s h` says that the command completes, its own effect on the
part being `h`; `WhatFollowsAtAnEvent` says what then follows at the same event (log 2). A request whose port
`handlesAtOnce` arrives as one event (log 15). A command outside its condition leaves the part alone (log 1). Where an
effect is written as a record update, everything the update does not name is unchanged. -/

open Sys2Proof Sys2Proof.Machine

/-! ### The queue, reset and time -/

/-- A step runs the command at the front of the queue on the part with the queue's rest; on an empty queue the part
idles (MODEL's choice, log 14). -/
def Obligations.StepTakesTheFrontCommand : Prop :=
  (∀ (c : Instr) (rest : List Instr) (s : State), s.pending = c :: rest → step s = exec c { s with pending := rest }) ∧
  ∀ s : State, s.pending = [] → step s = .next s

/-- Every command completes in every state, and touches no other command of the queue. -/
def Obligations.EveryCommandCompletes : Prop :=
  ∀ (c : Instr) (s : State), ∃ t, exec c s = .next t ∧ t.pending = s.pending

/-- R191, R193: the check values over the nine bytes 31h to 39h, and the order of the bytes of a 16-bit field (R174);
the tile of a fill colour (R93) and its signature. -/
def Obligations.CheckValues : Prop :=
  crc16 [0x31, 0x32, 0x33, 0x34, 0x35, 0x36, 0x37, 0x38, 0x39] = 0x29B1 ∧
    crc8 [0x31, 0x32, 0x33, 0x34, 0x35, 0x36, 0x37, 0x38, 0x39] = 0xF4 ∧
    signatureOf [0x31, 0x32, 0x33, 0x34, 0x35, 0x36, 0x37, 0x38, 0x39] = 0xFC891918 ∧
    (∀ x : Half, be16 x = [x.extractLsb' 8 8, x.extractLsb' 0 8]) ∧
    ∀ c : Colour, fillTile c = (List.replicate 1600 [c.red, c.green, c.blue]).flatten ∧
      fillSignatureOf c = signatureOf (fillTile c)

/-- R170, R160: POWER_ON, the release of the reset pin (log 22), gives the whole part its values after power-on, the
rates of the straps, and Starting. MODEL's choices: the wake lines keep their levels (log 6) and the index of the free
values stays (log 4). R170: from the 20th tick of the time base on (log 3) STARTING_END ends Starting and offers READY,
with the cause and the port's own rate, to both ports; before it, it changes nothing (log 1). -/
def Obligations.PowerOnAndStarting : Prop :=
  ((∀ (a1 a2 b1 b2 : Bool) (s : State),
    Completes (.powerOn a1 a2 b1 b2) s
      { Hub.reset .powerOn (strapRate a1 a2) (strapRate b1 b2) (s.hub.links.map (·.wakeLine)) with free := s.hub.free }) ∧
    strapRate false false = .half ∧ strapRate false true = .one ∧ strapRate true false = .two ∧
    strapRate true true = .four) ∧
  (∀ s : State, s.hub.starting = true → 20 ≤ s.hub.ticks →
    Completes .startingEnd s
      (notify [.b] .ready [s.hub.cause.code, s.hub.portB.rate.code]
        (notify [.a] .ready [s.hub.cause.code, s.hub.portA.rate.code] { s.hub with starting := false }))) ∧
    ∀ s : State, (s.hub.starting = false ∨ s.hub.ticks < 20) → Completes .startingEnd s s.hub

/-- R63, R65, R82: a tick, when no event is due any more, counts one tick for the time base, for every timer that runs,
for every pace count below its interval and for every group pace count below the group pace. R151, R154, R105: the
level tick, the conversion start and the clearing of the window become due at every 10th, 100th and 1000th tick.
MODEL's choice (log 3): events still due when a tick comes are taken first, each by the effect of its command and with
what follows at it; a conversion end takes a free value then (log 4). The timers and the periodic work that make an
event due; the expiry of a timer that is not due, and periodic work that is not due, change nothing (log 1,
DEDUCED). -/
def Obligations.TickCounts : Prop :=
  (∀ s : State, nothingOverdue s.hub = true →
    Completes .timeBaseTick s (countTick s.hub) ∧ (countTick s.hub).ticks = s.hub.ticks + 1 ∧
      ∃ k, k = countTick s.hub ∧
      (k = { s.hub with
        ticks := s.hub.ticks + 1, levelDue := k.levelDue, conversionDue := k.conversionDue, windowDue := k.windowDue,
        captures := k.captures, lights := k.lights, screens := k.screens, groups := k.groups, buffers := k.buffers,
        links := k.links, portA := k.portA, portB := k.portB }) ∧
      (∀ (n : Fin 8) (x : Screen), x = s.hub.screens[n] →
        k.screens[n] =
          { x with
            engine :=
              { x.engine with
                paceCount :=
                  if x.engine.paceCount < x.pace then x.engine.paceCount + 1 else x.engine.paceCount
                showTimer := x.engine.showTimer.map (· - 1) } }) ∧
      (∀ (g : Fin 4) (x : Group), x = s.hub.groups[g] →
        k.groups[g] = { x with count := if x.count < x.pace then x.count + 1 else x.count }) ∧
      (∀ i : Fin 2,
        k.captures[i] = { s.hub.captures[i] with silence := s.hub.captures[i].silence.map (· - 1) } ∧
        k.lights[i] = { s.hub.lights[i] with conversion := s.hub.lights[i].conversion.map (· - 1) }) ∧
      (∀ b : Fin 32, k.buffers[b] =
        match s.hub.buffers[b] with
        | some x => some { x with replyTimer := x.replyTimer.map (· - 1) }
        | none => none) ∧
      (∀ (l : Fin 6) (x : Link), x = s.hub.links[l] →
        k.links[l] =
          { x with
            hold := x.hold.map (· - 1), attempt := x.attempt.map (· - 1), retry := x.retry.map (· - 1),
            warm := x.warm.map (· - 1), rollWait := x.rollWait.map (· - 1)
            rows := x.rows.map fun (r : AddressRow) =>
              { r with
                silence := r.silence.map (· - 1), pollWait := r.pollWait.map (· - 1)
                lostPoll := r.lostPoll.map (· - 1) } }) ∧
      ∀ p : Port, k.port p = { s.hub.port p with gap := (s.hub.port p).gap.map (· - 1) }) ∧
  (∀ h : Hub,
    ((countTick h).levelDue = true ↔ (h.ticks + 1) % 10 = 0) ∧
      ((countTick h).conversionDue = true ↔ (h.ticks + 1) % 100 = 0) ∧
      ((countTick h).windowDue = true ↔ (h.ticks + 1) % 1000 = 0)) ∧
  (∀ s : State,
    Completes .timeBaseTick s
      (countTick (timedEvents.foldl (fun h e => if e.due h then settle (e.fire h) else h) s.hub))) ∧
  (∀ h : Hub, nothingOverdue h = true ↔
    ¬(h.starting = true ∧ 20 ≤ h.ticks) ∧ h.levelDue = false ∧ h.conversionDue = false ∧ h.windowDue = false ∧
      (∀ p : Port, (h.port p).gap ≠ some 0) ∧
      (∀ i : Fin 2, h.captures[i].state = .waiting ∨ h.captures[i].state = .filling → h.captures[i].silence ≠ some 0) ∧
      (∀ i : Fin 2, h.lights[i].conversion ≠ some 0) ∧
      (∀ (b : Fin 32) (x : Lend), h.buffers[b] = some x → x.phase = .sent → x.replyTimer ≠ some 0) ∧
      (∀ n : Fin 8, h.screens[n].engine.cycle = some .presenting → h.screens[n].engine.showTimer ≠ some 0) ∧
      (∀ (l : Fin 6) (k : Link), k = h.links[l] →
        (k.state = .training .hold → k.hold ≠ some 0) ∧
        (∀ r, k.state = .training (.attempt r) → k.attempt ≠ some 0) ∧ (k.state = .down → k.retry ≠ some 0) ∧
        (k.state = .waking → k.warm ≠ some 0) ∧ (k.state = .rolling → k.rollWait ≠ some 0) ∧
        ∀ a : Fin 2, k.rows[a].silence ≠ some 0 ∧ k.rows[a].pollWait ≠ some 0 ∧ k.rows[a].lostPoll ≠ some 0)) ∧
  (∀ h : Hub, nothingOverdue h = true ↔ ∀ e ∈ timedEvents, e.due h = false) ∧
  (∀ (s : State), ∀ e ∈ timedEvents, e.due s.hub = true → ∃ c k, Completes c { s with hub := k } (e.fire s.hub) ∧
    (k = s.hub ∨ k = { s.hub with free := s.hub.free + 1 } ∧
      ∃ i, c = .conversionEnd i (Config.lightSample s.hub.free))) ∧
  ∀ (s : State) (h : Hub), h = s.hub →
    (h.conversionDue = false → Completes .conversionStart s h) ∧ (h.windowDue = false → Completes .checkWindowClear s h) ∧
    (∀ p : Port, (h.port p).gap ≠ some 0 ∨ (h.port p).receiver = .hunting → Completes (.gapTimerExpiry p) s h) ∧
    (∀ i : Fin 2,
      h.captures[i].silence ≠ some 0 ∨ h.captures[i].state = .off ∨ h.captures[i].state = .silent →
      Completes (.silenceTimerExpiry i) s h) ∧
    (∀ (i : Fin 2) (r : Reading), h.lights[i].conversion ≠ some 0 → Completes (.conversionEnd i r) s h) ∧
    (∀ b : Fin 32, (∀ x, h.buffers[b] = some x → x.phase ≠ .sent ∨ x.replyTimer ≠ some 0) →
      Completes (.replyTimerExpiry b) s h) ∧
    (∀ n : Fin 8, h.screens[n].engine.cycle ≠ some .presenting ∨ h.screens[n].engine.showTimer ≠ some 0 →
      Completes (.showTimerExpiry n) s h) ∧
    ∀ (l : Fin 6) (k : Link), k = h.links[l] →
      (k.state ≠ .training .hold ∨ k.hold ≠ some 0 → Completes (.holdTimerExpiry l) s h) ∧
      ((∀ r, k.state ≠ .training (.attempt r)) ∨ k.attempt ≠ some 0 → Completes (.attemptTimerExpiry l) s h) ∧
      (k.state ≠ .down ∨ k.retry ≠ some 0 → Completes (.retryTimerExpiry l) s h) ∧
      (k.state ≠ .waking ∨ k.warm ≠ some 0 → Completes (.warmUpTimerExpiry l) s h) ∧
      (k.state ≠ .rolling ∨ k.rollWait ≠ some 0 → Completes (.rollWaitExpiry l) s h) ∧
      ∀ a : Fin 2,
        (k.rows[a].silence ≠ some 0 → Completes (.silenceTimerExpiryLink l a) s h) ∧
        (k.rows[a].pollWait ≠ some 0 → Completes (.pollWaitExpiry l a) s h) ∧
        (k.rows[a].lostPoll ≠ some 0 → Completes (.lostPollTimerExpiry l a) s h)

/-! ### Picture inputs -/

/-- R9, R10, R7, R13: a frame start takes the lowest-numbered Free slot; from Silent it sends SILENT resumed first;
with no Free slot the frame is dropped and counted, and reported when the drop notice is armed, with the frame number
of the Newest slot; in Filling the open frame is torn first; in Off nothing happens. -/
def Obligations.FrameStart : Prop :=
  (∀ (h : Hub) (i : Fin 2) (k : Fin 3) (z : Size), h.captures[i].size = some z → freeSlot h i = some k →
    acceptFrame i h =
      { h with
        captures := upd h.captures i fun c =>
          { c with
            state := .filling, silence := some 100, filling := some k, lines := 0,
            running := List.replicate z.columns 0xFFFFFFFF }
        slots := upd h.slots i fun v => upd v k fun _ =>
          { state := .filling, number := none, size := some z,
            signatures := List.replicate (z.columns * z.rows) none, readers := ScreenSet.empty } }) ∧
    (∀ (h : Hub) (i : Fin 2), freeSlot h i = none →
      acceptFrame i h =
        (let k := { h with
            captures := upd h.captures i fun c =>
              { c with state := .waiting, silence := some 100, drops := c.drops + 1, dropArmed := false } }
          if h.captures[i].dropArmed then
            notify (ownerOrBoth h.captures[i].port) .dropped
              ([byteOfFin i] ++ be16 (h.captures[i].drops + 1) ++ optional 4 be32 (newestNumber h i)) k
          else k)) ∧
    (∀ (s : State) (i : Fin 2), s.hub.captures[i].state = .waiting →
      Completes (.frameStart i) s (acceptFrame i s.hub)) ∧
    (∀ (s : State) (i : Fin 2), s.hub.captures[i].state = .filling →
      Completes (.frameStart i) s (acceptFrame i (tear i .restart s.hub))) ∧
    (∀ (s : State) (i : Fin 2), s.hub.captures[i].state = .silent →
      Completes (.frameStart i) s
        (acceptFrame i
          (notify (ownerOrBoth s.hub.captures[i].port) .silent ([byteOfFin i, 1] ++ be16 s.hub.captures[i].silences)
            s.hub))) ∧
    (∀ (s : State) (i : Fin 2), s.hub.captures[i].state = .off → Completes (.frameStart i) s s.hub) ∧
    ∀ (h : Hub) (i : Fin 2),
      (∀ k, freeSlot h i = some k ↔ h.slots[i][k].state = .free ∧ ∀ j < k, h.slots[i][j].state ≠ .free) ∧
      (freeSlot h i = none ↔ ∀ k : Fin 3, h.slots[i][k].state ≠ .free) ∧
      newestNumber h i = (newestSlot h i).bind fun k => h.slots[i][k].number

/-- R8: a tear frees the filling slot, clears the fields of the open frame, raises the torn counter and sends TORN with
the frame counter unchanged; the running signatures become the empty list (MODEL's choice, log 26). R11: a line of
another pixel count tears the frame with reason length; a line beyond the 40 × rows with reason long; with no frame
open a line is discarded. -/
def Obligations.Tears : Prop :=
  (∀ (h : Hub) (i : Fin 2) (k : Fin 3) (r : TearReason), h.captures[i].filling = some k →
    tear i r h =
      notify (ownerOrBoth h.captures[i].port) .torn ([byteOfFin i, r.code] ++ be32 h.captures[i].frames)
        { h with
          captures := upd h.captures i fun c =>
            { c with filling := none, lines := 0, running := [], torn := c.torn + 1 }
          slots := upd h.slots i fun v => upd v k fun _ => Slot.free }) ∧
  ∀ (s : State) (i : Fin 2) (pixels : List Colour),
    (∀ (k : Fin 3) (z : Size), s.hub.captures[i].filling = some k → s.hub.captures[i].size = some z →
      (pixels.length ≠ 40 * z.columns →
        Completes (.line i pixels) s ((tear i .length s.hub).modCapture i fun c => { c with state := .waiting })) ∧
      (pixels.length = 40 * z.columns → 40 * z.rows ≤ s.hub.captures[i].lines →
        Completes (.line i pixels) s ((tear i .long s.hub).modCapture i fun c => { c with state := .waiting }))) ∧
    (s.hub.captures[i].filling = none → Completes (.line i pixels) s s.hub)

/-- R11: an accepted line raises the line count by one, stores each of its bytes in its tile of the filling slot and no
other byte of the DRAM, and leaves every slot but the filling one alone. R11: the line that ends tile row r enters the
finished signatures at indices r × w to r × w + w − 1 and no other, and the running signatures start again; any other
line enters none, and its bytes are combined into the running signatures. The bytes of tile column c are those of the
pixels 40 × c to 40 × c + 39, red, green and blue of each. -/
def Obligations.LineAccepted : Prop :=
  (∀ (s : State) (i : Fin 2) (k : Fin 3) (z : Size) (pixels : List Colour), s.hub.dram.wf = true →
    s.hub.captures[i].filling = some k → s.hub.captures[i].size = some z → pixels.length = 40 * z.columns →
    s.hub.captures[i].lines < 40 * z.rows →
    ∃ h, Completes (.line i pixels) s h ∧ h.captures[i].lines = s.hub.captures[i].lines + 1 ∧
      (∀ c < z.columns, ∀ j < 120,
        h.dram.read (lineAddress i k z.columns s.hub.captures[i].lines c + j) = (lineBytes pixels c).getD j 0) ∧
      (∀ a, (∀ c < z.columns, ∀ j < 120, a ≠ lineAddress i k z.columns s.hub.captures[i].lines c + j) →
        h.dram.read a = s.hub.dram.read a) ∧
      (∀ j : Fin 2, j ≠ i → h.captures[j] = s.hub.captures[j] ∧ h.slots[j] = s.hub.slots[j]) ∧
      (∀ m : Fin 3, m ≠ k → h.slots[i][m] = s.hub.slots[i][m]) ∧
      (h = { s.hub with captures := h.captures, slots := h.slots, dram := h.dram }) ∧
      h.captures[i] =
        { s.hub.captures[i] with lines := s.hub.captures[i].lines + 1, running := h.captures[i].running } ∧
      h.slots[i][k] = { s.hub.slots[i][k] with signatures := h.slots[i][k].signatures }) ∧
  (∀ (pixels : List Colour) (c : Nat),
    lineBytes pixels c = ((pixels.drop (40 * c)).take 40).flatMap fun x => [x.red, x.green, x.blue]) ∧
  ∀ (s : State) (i : Fin 2) (k : Fin 3) (z : Size) (pixels : List Colour), s.hub.captures[i].filling = some k →
    s.hub.captures[i].size = some z → pixels.length = 40 * z.columns → s.hub.captures[i].lines < 40 * z.rows →
    ∃ h, Completes (.line i pixels) s h ∧
      (h.captures[i].running =
        if s.hub.captures[i].lines % 40 = 39 then List.replicate z.columns 0xFFFFFFFF
        else s.hub.captures[i].running.mapIdx fun c x => (lineBytes pixels c).foldl signatureByte x) ∧
      ∀ t < s.hub.slots[i][k].signatures.length, ∀ r, r = s.hub.captures[i].lines / 40 →
        h.slots[i][k].signatures[t]? =
          if s.hub.captures[i].lines % 40 = 39 ∧ r * z.columns ≤ t ∧ t < r * z.columns + z.columns then
            some ((s.hub.captures[i].running[t - r * z.columns]?).map fun x =>
              ~~~ ((lineBytes pixels (t - r * z.columns)).foldl signatureByte x))
          else s.hub.slots[i][k].signatures[t]?

/-- R12: a frame end after 40 × rows lines makes the filling slot Newest with the next frame number, and the Newest
slot before it Held or Free; after fewer lines it tears the frame with reason short; with no frame open it is
discarded. At the close the running signatures become the empty list (MODEL's choice, log 26). -/
def Obligations.FrameEnd : Prop :=
  ∀ (s : State) (i : Fin 2),
    (∀ (k : Fin 3) (z : Size), s.hub.captures[i].filling = some k → s.hub.captures[i].size = some z →
      (s.hub.captures[i].lines = 40 * z.rows →
        Completes (.frameEnd i) s
          { s.hub with
            captures := upd s.hub.captures i fun c =>
              { c with state := .waiting, frames := c.frames + 1, filling := none, lines := 0, running := [] }
            slots := upd s.hub.slots i fun v =>
              upd (v.map fun (x : Slot) =>
                if x.state = .newest then if x.readers.isEmpty then Slot.free else { x with state := .held } else x)
                k fun x => { x with state := .newest, number := some (s.hub.captures[i].frames + 1) } }) ∧
      (s.hub.captures[i].lines ≠ 40 * z.rows →
        Completes (.frameEnd i) s ((tear i .short s.hub).modCapture i fun c => { c with state := .waiting }))) ∧
    (s.hub.captures[i].filling = none → Completes (.frameEnd i) s s.hub)

/-- R7: the expiry of the silence timer makes the input Silent, counts it and sends SILENT; in Filling the open frame
is torn first with reason silence. -/
def Obligations.InputSilence : Prop :=
  (∀ (h : Hub) (i : Fin 2),
    becomeSilent i h =
      notify (ownerOrBoth h.captures[i].port) .silent ([byteOfFin i, 0] ++ be16 (h.captures[i].silences + 1))
        (h.modCapture i fun c => { c with state := .silent, silence := none, silences := c.silences + 1 })) ∧
  ∀ (s : State) (i : Fin 2), s.hub.captures[i].silence = some 0 →
    (s.hub.captures[i].state = .waiting → Completes (.silenceTimerExpiry i) s (becomeSilent i s.hub)) ∧
    (s.hub.captures[i].state = .filling →
      Completes (.silenceTimerExpiry i) s (becomeSilent i (tear i .silence s.hub)))

/-- R4, R5, R6, R177: INPUT-SET with enable 1, of the present size and of another size, refused Busy while a bound
screen references the surface, and with enable 0. R5: an accepted resize of an input that is not Filling frees every
slot, sets the size, zeroes the frame counter and starts the silence timer in Waiting. A bound screen references a
source that its current or pending layout or the layout of its seize record names. -/
def Obligations.InputSet : Prop :=
  (∀ (s : State) (p : Port) (tag input columns rows : Byte), handlesAtOnce p s.hub = true → input.toNat ≤ 1 →
    (1 ≤ columns.toNat → columns.toNat ≤ 64 → 1 ≤ rows.toNat → rows.toNat ≤ 36 →
      (s.hub.captures[inputOf input].size = some (sizeOf columns rows) →
        (s.hub.captures[inputOf input].state = .off →
          Completes (.inputSetEnable p tag input columns rows) s
            (reply p 0x10 tag .done [byteOfFin (inputOf input), 1]
              ((s.hub.hunting p).modCapture (inputOf input) fun c =>
                { c with state := .waiting, port := some p, silence := some 100 }))) ∧
        (s.hub.captures[inputOf input].state ≠ .off →
          Completes (.inputSetEnable p tag input columns rows) s
            (reply p 0x10 tag .done [byteOfFin (inputOf input), s.hub.captures[inputOf input].state.code]
              ((s.hub.hunting p).modCapture (inputOf input) fun c => { c with port := some p })))) ∧
      (s.hub.captures[inputOf input].size ≠ some (sizeOf columns rows) →
        (referencing s.hub (.surface (inputOf input)) = [] →
          Completes (.inputSetEnable p tag input columns rows) s
            (reply p 0x10 tag .done [byteOfFin (inputOf input), 1]
              (resize (inputOf input) p (sizeOf columns rows) (s.hub.hunting p)))) ∧
        (referencing s.hub (.surface (inputOf input)) ≠ [] →
          Completes (.inputSetEnable p tag input columns rows) s
            (reply p 0x10 tag .busy
              [byteOfFin (inputOf input), byteOf (referencing s.hub (.surface (inputOf input))).length]
              (s.hub.hunting p))))) ∧
    Completes (.inputSetDisable p tag input columns rows) s
      (reply p 0x10 tag .done [byteOfFin (inputOf input), 0]
        ((if s.hub.captures[inputOf input].state = .filling then tear (inputOf input) .disable (s.hub.hunting p)
          else s.hub.hunting p).modCapture (inputOf input) fun c =>
            { c with state := .off, silence := none, port := none }))) ∧
  (∀ (h : Hub) (src : Source),
    referencing h src = allScreens.filter fun n =>
      decide (h.screens[n].state ≠ .unbound ∧
        ((∃ v ∈ h.screens[n].layout, v.source = src) ∨ (∃ v ∈ h.screens[n].pendingLayout.getD [], v.source = src) ∨
          ∃ v ∈ (h.screens[n].seize.map (·.layout)).getD [], v.source = src))) ∧
  ∀ (h : Hub) (i : Fin 2) (p : Port) (z : Size), h.captures[i].state ≠ .filling →
    resize i p z h =
      { h with
        captures := upd h.captures i fun c =>
          { c with size := some z, frames := 0, state := .waiting, port := some p, silence := some 100 }
        slots := h.slots.set i (Vector.replicate 3 Slot.free) }

/-! ### Control ports -/

/-- R160, R161: a byte C3h without a framing fault begins a frame in Hunting, any other byte is discarded; while the
part is Starting every byte is discarded (R170); a framing fault inside a frame is a line error of class framing. R161,
R188, R191: inside a frame every good byte starts the gap timer again and is taken by its place: length, kind, tag,
body and first check byte, with the length errors of R161. R26, R165: the first bytes of a write-through body, and its
header check byte: one that does not match, and one that does, by the judgement of the header, with the reception it
leaves. R26, R162, R165: the end of a refused or dropped write-through frame gives no reply, and a fault in it is
counted in its class. R160: a character is good when its parity bit makes the number of ones even and its stop bit is
high. -/
def Obligations.BytesWhileHunting : Prop :=
  (∀ (b : Byte) (parityBit stopBit : Bool),
    characterGood b parityBit stopBit = true ↔
      stopBit = true ∧
        (((List.finRange 8).filter fun i => b.getLsbD i.val).length + if parityBit then 1 else 0) % 2 = 0) ∧
  ∀ (s : State) (p : Port) (b : Byte) (parityBit stopBit : Bool),
    (s.hub.starting = true → Completes (.byteEvent p b parityBit stopBit) s s.hub) ∧
    (s.hub.starting = false → (s.hub.port p).receiver = .hunting →
      (characterGood b parityBit stopBit = true → b = 0xC3 →
        Completes (.byteEvent p b parityBit stopBit) s
          (s.hub.modPort p fun x => { x with receiver := .receiving Reception.start, gap := some 2 })) ∧
      ((characterGood b parityBit stopBit = false ∨ b ≠ 0xC3) →
        Completes (.byteEvent p b parityBit stopBit) s s.hub)) ∧
    (∀ r, s.hub.starting = false → (s.hub.port p).receiver = .receiving r →
      (∀ pl c t, r.through ≠ some (.accepted pl c t)) → characterGood b parityBit stopBit = false →
      Completes (.byteEvent p b parityBit stopBit) s (lineError p .framing s.hub)) ∧
    (∀ r, s.hub.starting = false → (s.hub.port p).receiver = .receiving r → r.position = .check → r.got = 0 →
      characterGood b parityBit stopBit = true →
      Completes (.byteEvent p b parityBit stopBit) s
        (s.hub.modPort p fun x =>
          { x with receiver := .receiving { r with firstCheck := b, got := 1 }, gap := some 2 })) ∧
    (∀ r, s.hub.starting = false → (s.hub.port p).receiver = .receiving r → r.position = .check → r.got = 1 →
      r.through = some .ignored → characterGood b parityBit stopBit = true →
      (of16 r.firstCheck b = r.crc → Completes (.byteEvent p b parityBit stopBit) s (s.hub.hunting p)) ∧
      (of16 r.firstCheck b ≠ r.crc → Completes (.byteEvent p b parityBit stopBit) s (lineError p .crc s.hub))) ∧
    ∀ r, s.hub.starting = false → (s.hub.port p).receiver = .receiving r → r.through = none →
      characterGood b parityBit stopBit = true →
      (∀ q : Reception,
        q = (match r.position with
          | .length =>
            { r with
              length := if r.got = 0 then b.toNat * 256 else r.length + b.toNat
              position := if r.got = 0 then .length else .kind
              got := if r.got = 0 then 1 else 0
              crc := crc16Byte r.crc b, headerCrc := crc8Byte r.headerCrc b }
          | .kind =>
            { r with kind := b, position := .tag, crc := crc16Byte r.crc b, headerCrc := crc8Byte r.headerCrc b }
          | .tag =>
            { r with
              tag := b, position := if r.length = 0 then .check else .body, got := 0, crc := crc16Byte r.crc b,
              headerCrc := crc8Byte r.headerCrc b }
          | .body =>
            { r with
              body := r.body ++ [b]
              position := if r.got + 1 = r.length then .check else .body
              got := if r.got + 1 = r.length then 0 else r.got + 1
              crc := crc16Byte r.crc b
              headerCrc := if r.kind = 0x21 ∧ r.length = 4803 then crc8Byte r.headerCrc b else r.headerCrc }
          | .check => { r with firstCheck := b, got := 1 }) →
        (r.position = .length → r.got = 0 ∨ r.length + b.toNat ≤ 4803) →
        (r.position = .kind → r.length ≤ 256 ∨ b = 0x21) →
        (r.position = .body → r.kind = 0x21 → r.length = 4803 → r.got < 2) → (r.position = .check → r.got = 0) →
        Completes (.byteEvent p b parityBit stopBit) s
          (s.hub.modPort p fun x => { x with receiver := .receiving q, gap := some 2 })) ∧
      (r.position = .length → r.got = 1 → 4803 < r.length + b.toNat →
        Completes (.byteEvent p b parityBit stopBit) s (lineError p .length s.hub)) ∧
      (r.position = .kind → 256 < r.length → b ≠ 0x21 →
        Completes (.byteEvent p b parityBit stopBit) s (lineError p .length s.hub)) ∧
      (r.position = .body → r.kind = 0x21 → r.length = 4803 → r.got = 2 →
        (b ≠ r.headerCrc → Completes (.byteEvent p b parityBit stopBit) s (lineError p .header s.hub)) ∧
        (b = r.headerCrc →
          ∀ (plate tile : Byte) (verdict : HeaderVerdict) (next : WriteThrough → Receiver),
            plate = r.body.getD 0 0 → tile = r.body.getD 1 0 → verdict = judgeHeader p plate tile s.hub →
            (∀ w, next w = .receiving { r with got := 3, crc := crc16Byte r.crc b, through := some w }) →
            (verdict = .dropped →
              Completes (.byteEvent p b parityBit stopBit) s
                (s.hub.modPort p fun x =>
                  { x with receiver := next .ignored, gap := some 2, dropped := x.dropped + 1 })) ∧
            (∀ e, verdict = .refused e →
              Completes (.byteEvent p b parityBit stopBit) s
                (s.hub.modPort p fun x =>
                  { x with
                    receiver := next .ignored, gap := some 2
                    replies := x.replies ++ [{ kind := 0xA1, tag := r.tag, body := [e.code, plate, tile] }] })) ∧
            ∀ pl c t, verdict = .accepted pl c t →
              Completes (.byteEvent p b parityBit stopBit) s
                (s.hub.modPort p fun x =>
                  { x with
                    receiver := next (.accepted pl c t), gap := some 2
                    handling := some (.plateData r.tag pl tile) })))

/-- R161, R27: inside the pixels of an accepted write-through PLATE-DATA a byte restarts the gap timer, is stored at
its position of the tile and changes no other byte of the DRAM and nothing else but the reception, which moves to the
next byte and after the last one to the check bytes. R26, R165: inside the pixels of a refused or dropped one it moves
the reception in the same way and is stored nowhere. -/
def Obligations.PixelByteStored : Prop :=
  ∀ (s : State) (p : Port) (b : Byte) (parityBit stopBit : Bool) (r q : Reception), s.hub.starting = false →
    (s.hub.port p).receiver = .receiving r → r.position = .body → r.kind = 0x21 → r.length = 4803 → 3 ≤ r.got →
    characterGood b parityBit stopBit = true →
    q = { r with
      position := if r.got + 1 = 4803 then .check else .body
      got := if r.got + 1 = 4803 then 0 else r.got + 1
      crc := crc16Byte r.crc b } →
    (∀ (pl : Fin 16) (c : Fin 2) (t address : Nat), s.hub.dram.wf = true → r.through = some (.accepted pl c t) →
      address = Config.copyBase pl.val c.val + t * 4800 + (r.got - 3) →
      ∃ m : Memory, Completes (.byteEvent p b parityBit stopBit) s
          (({ s.hub with dram := m } : Hub).modPort p fun x => { x with receiver := .receiving q, gap := some 2 }) ∧
        m.read address = b ∧ ∀ a, a ≠ address → m.read a = s.hub.dram.read a) ∧
    (r.through = some .ignored →
      Completes (.byteEvent p b parityBit stopBit) s
        (s.hub.modPort p fun x => { x with receiver := .receiving q, gap := some 2 }))

/-- R161, R163, R164: the last byte of a good ordinary frame is its arrival. R163: a good frame, its characters taken
as one event (MODEL's choice, log 15), that is not handled at its arrival joins an input queue of fewer than 4 frames;
else it is answered Overrun where the reply queue has a free place, and dropped where it has none. R164, R165: when a
port takes a frame at its arrival, and its free reply places. A frame named while the part is Starting or a
write-through frame is in reception, or one too long for an ordinary frame, changes nothing (logs 1 and 15). -/
def Obligations.FrameArrival : Prop :=
  (∀ (h : Hub) (p : Port) (x : PortState), x = h.port p →
    (x.freePlaces =
      8 - x.replies.length - match x.handling with
        | some (.plateData ..) => 1
        | some (.plateCommit ..) => 1
        | _ => 0) ∧
    (beginsAtOnce x = true ↔ x.handling = none ∧ x.input = [] ∧ 0 < x.freePlaces) ∧
    (takesFrames p h = true ↔ h.starting = false ∧ ∀ r, x.receiver = .receiving r → r.through = none) ∧
    handlesAtOnce p h = (takesFrames p h && beginsAtOnce x)) ∧
  (∀ f : Frame, ordinaryFrame f = true ↔ f.body.length ≤ 256 ∨ f.kind = 0x21 ∧ f.body.length < 4803) ∧
  (∀ (h : Hub) (p : Port) (f : Frame),
    ((h.port p).input.length < 4 → arrival p f h = h.modPort p fun x => { x with input := x.input ++ [f] }) ∧
    (4 ≤ (h.port p).input.length → 0 < (h.port p).freePlaces →
      arrival p f h = (reply p f.kind f.tag .overrun [] h).modPort p fun x => { x with overruns := x.overruns + 1 }) ∧
    (4 ≤ (h.port p).input.length → (h.port p).freePlaces = 0 →
      arrival p f h = h.modPort p fun x => { x with dropped := x.dropped + 1 })) ∧
  (∀ (s : State) (p : Port) (b : Byte) (parityBit stopBit : Bool) (r : Reception), s.hub.starting = false →
    (s.hub.port p).receiver = .receiving r → r.position = .check → r.got = 1 → r.through = none →
    characterGood b parityBit stopBit = true →
    (of16 r.firstCheck b = r.crc →
      Completes (.byteEvent p b parityBit stopBit) s
        (arrival p { kind := r.kind, tag := r.tag, body := r.body } (s.hub.hunting p))) ∧
    (of16 r.firstCheck b ≠ r.crc → Completes (.byteEvent p b parityBit stopBit) s (lineError p .crc s.hub))) ∧
  (∀ (s : State) (p : Port) (kind tag : Byte) (body : List Byte),
    takesFrames p s.hub = false ∨ ordinaryFrame { kind := kind, tag := tag, body := body } = false →
    Completes (.frameArrival p kind tag body) s s.hub) ∧
  ∀ (s : State) (p : Port) (kind tag : Byte) (body : List Byte), takesFrames p s.hub = true →
    beginsAtOnce (s.hub.port p) = false → ordinaryFrame { kind := kind, tag := tag, body := body } = true →
    ((s.hub.port p).input.length < 4 →
      Completes (.frameArrival p kind tag body) s
        ((s.hub.hunting p).modPort p fun x => { x with input := x.input ++ [{ kind := kind, tag := tag, body := body }] })) ∧
    (4 ≤ (s.hub.port p).input.length → 0 < (s.hub.port p).freePlaces →
      Completes (.frameArrival p kind tag body) s
        ((reply p kind tag .overrun [] (s.hub.hunting p)).modPort p fun x => { x with overruns := x.overruns + 1 })) ∧
    (4 ≤ (s.hub.port p).input.length → (s.hub.port p).freePlaces = 0 →
      Completes (.frameArrival p kind tag body) s
        ((s.hub.hunting p).modPort p fun x => { x with dropped := x.dropped + 1 }))

/-- R173: a frame handled at its arrival is refused BadKind when its kind is no request kind and BadLength when its
body has not the length of its kind; such a frame changes no state but for its reply. R173 step 3, R175: a request with
a field out of range is refused BadValue with the field's number and item, before the port, the owner or any other
state is looked at: the first such field, by its position from 1, with item 255; in a list of views the field within
the view and the view's position; a point of CURVE-SET by its position, its reading taken as field 2 (PRESUMED, log
12). R164: a frame is handled in the same way when it leaves the input queue. -/
def Obligations.FormAndRangeRefused : Prop :=
  (∀ (s : State) (p : Port) (kind tag : Byte) (body : List Byte), handlesAtOnce p s.hub = true →
    ordinaryFrame { kind := kind, tag := tag, body := body } = true →
    (requestKind kind = none →
      Completes (.frameArrival p kind tag body) s (reply p kind tag .badKind [] (s.hub.hunting p)) ∧
        Completes (.badKind p kind tag) s (reply p kind tag .badKind [] (s.hub.hunting p))) ∧
    (∀ k, requestKind kind = some k → parseBody k body = none →
      Completes (.frameArrival p kind tag body) s (reply p kind tag .badLength [] (s.hub.hunting p)))) ∧
  (∀ (s : State) (p : Port) (kind tag : Byte) (body : List Byte) (r : Request), handlesAtOnce p s.hub = true →
    ordinaryFrame { kind := kind, tag := tag, body := body } = true → parse kind body = .ok r →
    Completes (.frameArrival p kind tag body) s (handleRequest p tag r (s.hub.hunting p))) ∧
  (∀ (p : Port) (f : Frame) (h : Hub),
    (∀ x, parse f.kind f.body = .error x → handleFrame p f h = reply p f.kind f.tag x [] h) ∧
      ∀ r, parse f.kind f.body = .ok r → handleFrame p f h = handleRequest p f.tag r h) ∧
  (∀ (r : Request) (p : Port) (tag : Byte) (h : Hub) (a : Answer), r.badField = none → a = perform p tag r h →
    (a.reply = none → handleRequest p tag r h = a.hub) ∧
      ∀ x data, a.reply = some (x, data) → handleRequest p tag r h = reply p r.kind.code tag x data a.hub) ∧
  (∀ (r : Request) (p : Port) (tag : Byte) (h : Hub) (field item : Nat), r.badField = some (field, item) →
    handleRequest p tag r h = reply p r.kind.code tag .badValue [byteOf field, byteOf item] h) ∧
  (∀ a b c d e f : Byte, ∀ (x : Half) (identity : Identity) (colour : Colour) (views : List RawView),
    (Request.hubAsk).badField = none ∧ (Request.hubReset).badField = none ∧ (Request.lightAsk).badField = none ∧
      (Request.lineSet a).badField = (if 3 < a.toNat then some (1, 255) else none) ∧
      (Request.noticeSet x).badField = (if 16384 ≤ x.toNat then some (1, 255) else none) ∧
      (Request.inputSet a b c d).badField =
        (if 1 < a.toNat then some (1, 255) else if 1 < b.toNat then some (2, 255)
        else if b = 1 ∧ (c = 0 ∨ 64 < c.toNat) then some (3, 255)
        else if b = 1 ∧ (d = 0 ∨ 36 < d.toNat) then some (4, 255) else none) ∧
      (Request.inputAsk a).badField = (if 1 < a.toNat then some (1, 255) else none) ∧
      (Request.plateOpen a b c).badField =
        (if 15 < a.toNat then some (1, 255) else if b = 0 ∨ 8 < b.toNat then some (2, 255)
        else if c = 0 ∨ 8 < c.toNat then some (3, 255) else none) ∧
      (∀ r, r = Request.plateCommit a ∨ r = .plateDrop a ∨ r = .plateAsk a →
        r.badField = if 15 < a.toNat then some (1, 255) else none) ∧
      (Request.screenBind a b identity c d colour).badField =
        (if 7 < a.toNat then some (1, 255) else if 5 < b.toNat then some (2, 255)
        else if c = 0 ∨ 64 < c.toNat then some (4, 255) else if d = 0 ∨ 36 < d.toNat then some (5, 255)
        else none) ∧
      (∀ r, r = Request.screenUnbind a ∨ r = .screenAsk a ∨ r = .fillSet a colour ∨ r = .claim a ∨
          r = .yieldScreen a ∨ r = .returnScreen a →
        r.badField = if 7 < a.toNat then some (1, 255) else none) ∧
      (Request.layoutSet a b x views).badField =
        (if 7 < a.toNat then some (1, 255) else if 1 < b.toNat then some (2, 255) else badViews 0 views) ∧
      (Request.groupSet a b c).badField =
        (if 7 < a.toNat then some (1, 255) else if 1 < b.toNat ∨ b = 1 ∧ 3 < c.toNat then some (2, 255)
        else none) ∧
      (Request.paceSet a b x).badField =
        (if 1 < a.toNat then some (1, 255)
        else if (if a = 0 then 7 < b.toNat else 3 < b.toNat) then some (2, 255)
        else if 1000 < x.toNat then some (3, 255) else none) ∧
      (Request.seize a views).badField = (if 7 < a.toNat then some (1, 255) else badViews 0 views) ∧
      (Request.linkSet a b c d e f).badField =
        (if 5 < a.toNat then some (1, 255) else if 1 < b.toNat then some (2, 255)
        else if b = 1 ∧ 2 < c.toNat then some (3, 255) else if b = 1 ∧ 1 < d.toNat then some (4, 255)
        else if b = 1 ∧ 1 < e.toNat then some (5, 255) else if b = 1 ∧ 3 < f.toNat then some (6, 255) else none) ∧
      (∀ r, r = Request.linkReset a ∨ r = .linkPark a ∨ r = .linkWake a ∨ r = .linkAsk a →
        r.badField = if 5 < a.toNat then some (1, 255) else none) ∧
      (Request.levelSet a b c d e f).badField =
        (if 7 < a.toNat then some (1, 255) else if 1 < b.toNat then some (2, 255)
        else if 1 < e.toNat then some (5, 255) else if 3 < f.toNat then some (6, 255) else none)) ∧
  (∀ (k : Nat) (v : RawView) (views : List RawView), badViews k [] = none ∧
    badViews k (v :: views) =
      (if 1 < v.source.toNat ∧ (v.source.toNat < 0x10 ∨ 0x1F < v.source.toNat) then some (1, k)
      else if 63 < v.originColumn.toNat then some (2, k) else if 35 < v.originRow.toNat then some (3, k)
      else if v.columns = 0 ∨ 64 < v.columns.toNat then some (4, k)
      else if v.rows = 0 ∨ 36 < v.rows.toNat then some (5, k) else if 63 < v.placeColumn.toNat then some (6, k)
      else if 35 < v.placeRow.toNat then some (7, k) else badViews (k + 1) views)) ∧
  ∀ (curve : Byte) (points : List RawPoint),
    (3 < curve.toNat → (Request.curveSet curve points).badField = some (1, 255)) ∧
    (curve.toNat ≤ 3 → (∀ p ∈ points, p.reading.toNat ≤ 1023) → (Request.curveSet curve points).badField = none) ∧
    ∀ (k : Nat) (p : RawPoint), curve.toNat ≤ 3 → points[k]? = some p → 1023 < p.reading.toNat →
      (∀ j < k, ∀ q, points[j]? = some q → q.reading.toNat ≤ 1023) →
      (Request.curveSet curve points).badField = some (2, k)

/-- R162, R161, R165: a fault inside an ordinary frame, or inside a write-through frame that was refused or dropped,
returns the receiver to Hunting, stops the gap timer, raises the counter of its class and, where the notice is armed,
disarms it and sends LINE-ERROR to this port. The places of a frame at which each fault can be met; a fault named at
another place, or while no frame is in reception, changes nothing (log 1, DEDUCED). -/
def Obligations.LineErrorCounted : Prop :=
  (∀ (s : State) (p : Port) (f : LineFault),
    (∀ r, (s.hub.port p).receiver = .receiving r → r.canFail f = false) → Completes (.lineError p f) s s.hub) ∧
  ∀ (s : State) (p : Port) (r : Reception), (s.hub.port p).receiver = .receiving r →
    (∀ pl c t, r.through ≠ some (.accepted pl c t)) →
    (∀ f, r.canFail f = true → Completes (.lineError p f) s (lineError p (faultClass f) s.hub)) ∧
    (r.canFail .framing = true ∧ (r.canFail .crc = true ↔ r.position = .check ∧ r.got = 1) ∧
      (r.canFail .length = true ↔
        r.position = .length ∧ r.got = 1 ∧ 4548 < r.length ∨ r.position = .kind ∧ 256 < r.length) ∧
      faultClass .framing = .framing ∧ faultClass .length = .length ∧ faultClass .crc = .crc) ∧
    ((s.hub.port p).gap = some 0 → Completes (.gapTimerExpiry p) s (lineError p .gap s.hub)) ∧
    (∀ (e : ErrorClass) (k : Hub),
      k = (s.hub.modPort p fun x =>
        { x with
          receiver := .hunting, gap := none, errorArmed := false
          framingErrors := if e = .framing then x.framingErrors + 1 else x.framingErrors
          gapErrors := if e = .gap then x.gapErrors + 1 else x.gapErrors
          lengthErrors := if e = .length then x.lengthErrors + 1 else x.lengthErrors
          crcErrors := if e = .crc then x.crcErrors + 1 else x.crcErrors
          headerErrors := if e = .header then x.headerErrors + 1 else x.headerErrors }) →
      lineError p e s.hub =
        if (s.hub.port p).errorArmed = true then notify [p] .lineError (e.code :: be16 ((k.port p).errorCount e)) k
        else k) ∧
    (∀ x : PortState, x.errorCount .framing = x.framingErrors ∧ x.errorCount .gap = x.gapErrors ∧
      x.errorCount .length = x.lengthErrors ∧ x.errorCount .crc = x.crcErrors ∧
      x.errorCount .header = x.headerErrors) ∧
    (∀ e, ((lineError p e s.hub).port p).receiver = .hunting ∧ ((lineError p e s.hub).port p).gap = none ∧
      ((lineError p e s.hub).port p).errorCount e = (s.hub.port p).errorCount e + 1 ∧
      ((lineError p e s.hub).port p).errorArmed = false ∧
      ((lineError p e s.hub).port p).replies = (s.hub.port p).replies ∧
      ((s.hub.port p).errorArmed = false → ((lineError p e s.hub).port p).notices = (s.hub.port p).notices) ∧
      ((s.hub.port p).errorArmed = true → (s.hub.port p).mask.getLsbD NoticeKind.lineError.bit = true →
        (s.hub.port p).notices.length < 32 →
        ((lineError p e s.hub).port p).notices = (s.hub.port p).notices ++
          [{ kind := NoticeKind.lineError.code, tag := 0,
             body := flag (s.hub.port p).lost :: e.code :: be16 ((s.hub.port p).errorCount e + 1) }]))

/-- R28: a gap or a framing fault in the pixels of an accepted PLATE-DATA makes its tile damaged, leaves the written
set, and is answered Damaged with its reason; handling ends and the error is counted. Nothing else changes. -/
def Obligations.BrokenPlateData : Prop :=
  ∀ (s : State) (p : Port) (r : Reception) (pl : Fin 16) (c : Fin 2) (t : Nat) (tag tile : Byte) (k : Hub)
    (answered : Byte → Hub),
    (s.hub.port p).receiver = .receiving r → r.through = some (.accepted pl c t) →
    (s.hub.port p).handling = some (.plateData tag pl tile) →
    k = (s.hub.modCopy pl c fun x => { x with damaged := x.damaged.set (Fin.ofNat 64 t) true }) →
    (∀ reason, answered reason = k.modPort p fun x =>
      { x with
        handling := none
        replies := x.replies ++
          [{ kind := 0xA1, tag := tag,
             body := [0x0B, byteOfFin pl, byteOf t, byteOf k.plates[pl].copies[c].outstanding, reason] }] }) →
    ((s.hub.port p).gap = some 0 → Completes (.gapTimerExpiry p) s (lineError p .gap (answered 1))) ∧
    Completes (.lineError p .framing) s (lineError p .framing (answered 2)) ∧
    ∀ (b : Byte) (parityBit stopBit : Bool), s.hub.starting = false → characterGood b parityBit stopBit = false →
      Completes (.byteEvent p b parityBit stopBit) s (lineError p .framing (answered 2))

/-- R166, R169, R171: the end of a control frame frees the line; the end of a LINE-SET's Done reply also takes the
pending rate and abandons a frame in reception; the end of a HUB-RESET's Done reply resets the whole part, the line
rates kept. MODEL's choices: at that reset the wake lines keep their levels (log 6) and the index of the free values
stays (log 4). A Done reply has the kind of its request plus 80h and the result code 0. With no frame on the line none
ends (log 1, DEDUCED). -/
def Obligations.ControlFrameSent : Prop :=
  (∀ (s : State) (p : Port), (s.hub.port p).line = none → Completes (.controlFrameTransmitted p) s s.hub) ∧
  (∀ f : Frame, (f.isLineSetDone = true ↔ f.kind = 0x83 ∧ f.body.head? = some 0) ∧
    (f.isHubResetDone = true ↔ f.kind = 0x82 ∧ f.body.head? = some 0)) ∧
  ∀ (s : State) (p : Port) (f : Frame), (s.hub.port p).line = some f →
    (f.isLineSetDone = false → f.isHubResetDone = false →
      Completes (.controlFrameTransmitted p) s (s.hub.modPort p fun x => { x with line := none })) ∧
    (f.isLineSetDone = true →
      Completes (.controlFrameTransmitted p) s
        (s.hub.modPort p fun x =>
          { x with
            line := none, receiver := .hunting, gap := none, rate := x.pendingRate.getD x.rate, pendingRate := none })) ∧
    (f.isLineSetDone = false → f.isHubResetDone = true → (s.hub.port p).handling = some .hubReset →
      Completes (.controlFrameTransmitted p) s
        { Hub.reset .hubReset s.hub.portA.rate s.hub.portB.rate (s.hub.links.map (·.wakeLine)) with
          free := s.hub.free })

/-- R167: the three ways in which a port takes a notice. R168: a notice goes to each port it is addressed to, of a
screen or an input to the owner or to both without one. R192: the kinds E0h to EDh and their mask bits. R165: a reply
joins the tail of the reply queue, with the kind of its request plus 80h, the tag and the result code. -/
def Obligations.NoticeOffered : Prop :=
  (∀ (ports : List Port) (k : NoticeKind) (body : List Byte) (h : Hub), ports.Nodup →
    notify ports k body h =
      { h with
        portA := if .a ∈ ports then h.portA.offer k body else h.portA
        portB := if .b ∈ ports then h.portB.offer k body else h.portB }) ∧
  (∀ p : Port, ownerOrBoth (some p) = [p] ∧ ownerOrBoth none = [.a, .b]) ∧
  (∀ k : NoticeKind, k.code = BitVec.ofNat 8 (0xE0 + k.bit)) ∧
  [NoticeKind.ready, .joined, .lost, .stranger, .dropped, .torn, .silent, .seized, .returned, .touch, .wake, .linkFault,
    .lineError, .protocol].map NoticeKind.bit = List.range 14 ∧
  (∀ (p : Port) (kind tag : Byte) (r : Result) (data : List Byte) (h : Hub),
    reply p kind tag r data h = h.modPort p fun x =>
      { x with replies := x.replies ++ [{ kind := kind + 0x80, tag := tag, body := r.code :: data }] }) ∧
  ∀ (x : PortState) (k : NoticeKind) (body : List Byte),
    (x.mask.getLsbD k.bit = false → x.offer k body = x) ∧
    (x.mask.getLsbD k.bit = true → x.notices.length = 32 → x.offer k body = { x with lost := true }) ∧
    (x.mask.getLsbD k.bit = true → x.notices.length < 32 →
      x.offer k body =
        { x with notices := x.notices ++ [{ kind := k.code, tag := 0, body := flag x.lost :: body }], lost := false })

/-- R171, R169, R167, R172, R176: the hub and line requests. R185: the report of HUB-ASK, field by field: both ports,
whether the line-error notice of the asking port is armed, the free entries and buffers, and the four groups. -/
def Obligations.HubRequests : Prop :=
  (∀ (s : State) (p : Port) (tag : Byte), handlesAtOnce p s.hub = true →
    Completes (.hubAsk p tag) s
      (reply p 0x01 tag .done (hubReport (s.hub.hunting p) p)
        ((s.hub.hunting p).modPort p fun x => { x with errorArmed := true })) ∧
    (p = .b →
      Completes (.hubReset p tag) s
        (reply p 0x02 tag .done [] ((s.hub.hunting p).modPort p fun x => { x with handling := some .hubReset }))) ∧
    (p = .a → Completes (.hubReset p tag) s (reply p 0x02 tag .notOwner [] (s.hub.hunting p))) ∧
    (∀ rate : Byte, rate.toNat ≤ 3 →
      Completes (.lineSet p tag rate) s
        (reply p 0x03 tag .done [rate]
          ((s.hub.hunting p).modPort p fun x => { x with pendingRate := some (lineRateOf rate) }))) ∧
    ∀ kinds : Half, kinds.toNat < 16384 →
      Completes (.noticeSet p tag kinds) s
        (reply p 0x04 tag .done (be16 kinds) ((s.hub.hunting p).modPort p fun x => { x with mask := kinds }))) ∧
  ∀ (h : Hub) (p : Port),
    hubReport h p =
      ([h.portA, h.portB].flatMap fun x =>
        [x.rate.code] ++ ((match x.pendingRate with | none => [0, 0] | some r => [1, r.code]) : List Byte) ++
          be16 x.framingErrors ++ be16 x.gapErrors ++ be16 x.lengthErrors ++ be16 x.crcErrors ++
          be16 x.headerErrors ++ be16 x.overruns ++ be16 x.dropped ++
          [byteOf x.input.length, byteOf x.notices.length] ++ be16 x.mask ++ [flag x.lost]) ++
        [flag (h.port p).errorArmed] ++
        be16 (BitVec.ofNat 16 (8192 - (allScreens.map fun n => h.screens[n].entries.length).sum)) ++
        [byteOf (allBuffers.filter fun b => h.buffers[b].isNone).length] ++
        allGroups.flatMap fun g =>
          [byteOf ((allScreens.filter fun n => h.screens[n].group == some g).map fun n => 2 ^ n.val).sum] ++
            be16 (BitVec.ofNat 16 h.groups[g].pace) ++
            [flag (h.groups[g].running != ScreenSet.empty),
              byteOf ((allScreens.filter fun n => h.groups[g].running[n]).map fun n => 2 ^ n.val).sum]

/-- R18, R36, R61, R134, R158, R173: the other ASK requests are answered Done with their report and change nothing but,
for INPUT-ASK, the drop notice, which is armed. R184, R185, R174: the five reports, field by field; an optional field
is a presence byte and its value, zeros when absent. -/
def Obligations.AskRequests : Prop :=
  (∀ (s : State) (p : Port) (tag b : Byte), handlesAtOnce p s.hub = true →
    (b.toNat ≤ 1 →
      Completes (.inputAsk p tag b) s
        (reply p 0x11 tag .done (inputReport (s.hub.hunting p) (inputOf b))
          ((s.hub.hunting p).modCapture (inputOf b) fun c => { c with dropArmed := true }))) ∧
    (b.toNat ≤ 15 →
      Completes (.plateAsk p tag b) s
        (reply p 0x24 tag .done (plateReport (s.hub.hunting p) (plateOf b)) (s.hub.hunting p))) ∧
    (b.toNat ≤ 7 →
      Completes (.screenAsk p tag b) s
        (reply p 0x32 tag .done (screenReport (s.hub.hunting p) (screenOf b)) (s.hub.hunting p))) ∧
    (b.toNat ≤ 5 →
      Completes (.linkAsk p tag b) s
        (reply p 0x44 tag .done (linkReport (s.hub.hunting p) (linkOf b)) (s.hub.hunting p))) ∧
    Completes (.lightAsk p tag) s
      (reply p 0x52 tag .done (lightReport (s.hub.hunting p)) (s.hub.hunting p))) ∧
  (∀ (α : Type) (zeros : Nat) (encode : α → List Byte) (x : α),
    optional zeros encode none = 0 :: List.replicate zeros 0 ∧ optional zeros encode (some x) = 1 :: encode x) ∧
  (∀ v : View, v.bytes =
    [match v.source with | .surface i => byteOfFin i | .plate p => byteOf (0x10 + p.val), byteOf v.originColumn,
      byteOf v.originRow, byteOf v.columns, byteOf v.rows, byteOf v.placeColumn, byteOf v.placeRow]) ∧
  (∀ (h : Hub) (i : Fin 2) (c : Capture), c = h.captures[i] →
    inputReport h i =
      [byteOfFin i, c.state.code] ++ optional 2 (fun z => [byteOf z.columns, byteOf z.rows]) c.size ++
        [portCode c.port] ++ be32 c.frames ++ be16 c.drops ++ be16 c.torn ++ be16 c.silences ++ [flag c.dropArmed] ++
        allSlots.flatMap fun k =>
          [h.slots[i][k].state.code] ++ optional 4 be32 h.slots[i][k].number ++
            [byteOf (allScreens.filter fun n => h.slots[i][k].readers[n]).length]) ∧
  (∀ (h : Hub) (p : Fin 16) (x : Plate), x = h.plates[p] →
    plateReport h p =
      [byteOfFin p, if p.val < 8 then 1 else 2] ++ optional 2 (fun z => [byteOf z.columns, byteOf z.rows]) x.size ++
        optional 1 (fun c => [byteOfFin c]) x.live ++ be16 x.version ++
        [byteOf ((allScreens.filter fun n =>
          h.screens[n].bound && h.screens[n].references (.plate p)).map fun n => 2 ^ n.val).sum] ++
        allCopies.flatMap fun c =>
          [x.copies[c].state.code] ++ optional 2 (fun z => [byteOf z.columns, byteOf z.rows]) x.copies[c].size ++
            [if x.copies[c].state = .loading then byteOf x.copies[c].outstanding else 0] ++
            (byteOf ((List.finRange 64).filter fun t => x.copies[c].damaged[t]).length ::
              ((List.finRange 64).filter fun t => x.copies[c].damaged[t]).map byteOfFin) ++
            [byteOf (allScreens.filter fun n => x.copies[c].readers[n]).length]) ∧
  (∀ (h : Hub) (n : Fin 8) (x : Screen), x = h.screens[n] →
    (x.bound = false → screenReport h n = [byteOfFin n, 0]) ∧
    ∀ l identity z fill, x.bound = true → x.link = some l → x.identity = some identity → x.size = some z →
      x.fill = some fill →
      screenReport h n =
        [byteOfFin n, x.state.code, byteOfFin l] ++ be48 identity ++ [byteOf z.columns, byteOf z.rows] ++
          [fill.red, fill.green, fill.blue] ++ optional 3 (fun c => [c.red, c.green, c.blue]) x.pendingFill ++
          [portCode x.owner, flag x.seize.isSome] ++ be16 x.stamp ++ [flag x.pendingFlag] ++
          (byteOf x.layout.length :: x.layout.flatMap View.bytes) ++
          ((match x.pendingLayout with | none => [0] | some v => 1 :: byteOf v.length :: v.flatMap View.bytes) :
            List Byte) ++
          optional 1 (fun g => [byteOfFin g]) x.group ++ be16 (BitVec.ofNat 16 x.pace) ++ [byteOf x.failures] ++
          be16 x.present ++ optional 1 (fun c => [c.code]) x.engine.cycle ++
          (([.absent, .held, .behind, .sending] : List EntryState).flatMap fun e =>
            be16 (BitVec.ofNat 16 (x.entries.filter fun y => y.state == e).length)) ++
          (allInputs.flatMap fun i => optional 4 be32 x.lastFrames[i]) ++
          (byteOf (allPlates.filter fun p => x.layout.names (.plate p)).length ::
            (allPlates.filter fun p => x.layout.names (.plate p)).flatMap fun p =>
              byteOfFin p :: optional 2 be16 x.lastVersions[p])) ∧
  (∀ (h : Hub) (l : Fin 6) (k : Link), k = h.links[l] →
    linkReport h l =
      [byteOfFin l, flag k.enabled, k.state.code] ++
        (match k.state with
          | .training .hold => [1, 0, 0, 0]
          | .training (.attempt r) => [1, 1, 1, r.code]
          | _ => [0, 0, 0, 0]) ++
        [k.configuredCap.code, k.currentCap.code] ++ optional 1 (fun r => [r.code]) k.rate ++
        [k.wakeMode.code, flag k.autoWake, k.warmUp.code, flag k.wakeLine, flag k.parkPending] ++
        (allRows.flatMap fun a =>
          (match k.rows[a].assignment with
            | .unassigned => [0, 0, 0, 0, 0, 0, 0, 0]
            | .screen n => [1, byteOfFin n] ++ be48 (h.screens[n].identity.getD 0)
            | .stranger identity => [2, 0] ++ be48 identity) ++
            optional 1 (fun c => [byteOf c]) k.rows[a].credit ++
            List.replicate 2 (byteOf (allBuffers.filter fun b =>
              match h.buffers[b] with
              | some x => x.link == l && x.row == a
              | none => false).length)) ++
        [byteOf k.checkFailures] ++ be16 k.strays ++ be16 k.protocolFaults ++ be16 k.strangerPackets) ∧
  (∀ h : Hub,
    lightReport h =
      (allInputs.flatMap fun i =>
        optional 2 (fun r => be16 (r.setWidth 16)) h.lights[i].reading ++ [flag h.lights[i].conversion.isSome]) ++
        (allGroups.flatMap fun k => (List.finRange 8).flatMap fun i =>
          be16 (h.curves[k][i].reading.setWidth 16) ++ [h.curves[k][i].level]) ++
        allScreens.flatMap fun n =>
          [h.screens[n].level.mode.code, h.screens[n].level.target, h.screens[n].level.current,
            h.screens[n].level.step, byteOfFin h.screens[n].level.input, byteOfFin h.screens[n].level.curve]) ∧
  ([InputState.off, .waiting, .filling, .silent].map InputState.code = [0, 1, 2, 3] ∧
    [SlotState.free, .filling, .newest, .held].map SlotState.code = [0, 1, 2, 3] ∧
    [CopyState.empty, .loading, .committing, .live, .retired].map CopyState.code = [0, 1, 2, 3, 4] ∧
    [ScreenState.unbound, .missing, .joined, .lost, .parked].map ScreenState.code = [0, 1, 2, 3, 4] ∧
    [CycleState.idle, .gathering, .cutting, .ready, .presenting].map CycleState.code = [0, 1, 2, 3, 4] ∧
    (∀ g, [LinkState.off, .training g, .rolling, .up, .parked, .waking, .down].map LinkState.code =
      [0, 1, 2, 3, 4, 5, 6]) ∧
    [LinkRate.six, .three, .oneHalf].map LinkRate.code = [0, 1, 2] ∧
    [WarmUp.ms20, .ms50, .ms100, .ms200].map WarmUp.code = [0, 1, 2, 3] ∧
    [WakeMode.edge, .level].map WakeMode.code = [0, 1] ∧ [LevelMode.manual, .ambient].map LevelMode.code = [0, 1] ∧
    [LineRate.half, .one, .two, .four].map LineRate.code = [0, 1, 2, 3] ∧
    [none, some Port.a, some Port.b].map portCode = [0, 1, 2] ∧ [false, true].map flag = [0, 1])

/-! ### Plates -/

/-- R22, R24: PLATE-OPEN opens an Empty or Loading work copy, is refused Busy for a Retired or Committing one and
NotOwner from the port that is not the writer. R29, R35: PLATE-COMMIT of a complete work copy makes it Committing and
stays in handling with no reply; it is refused WrongState and Incomplete; PLATE-DROP empties an unused plate, keeps its
version, and is refused Busy while it is used. R20: PLATE-COMMIT and PLATE-DROP too are refused NotOwner from the port
that is not the writer. R20, R22, R35: the writer port, the work copy, the outstanding tiles, and when a plate is in
use. -/
def Obligations.PlateRequests : Prop :=
  (∀ (s : State) (p : Port) (tag plate : Byte), handlesAtOnce p s.hub = true → plate.toNat ≤ 15 →
    writerPort (plateOf plate) ≠ p →
    Completes (.plateCommit p tag plate) s
        (reply p 0x22 tag .notOwner [portCode (some (writerPort (plateOf plate)))] (s.hub.hunting p)) ∧
      Completes (.plateDrop p tag plate) s
        (reply p 0x23 tag .notOwner [portCode (some (writerPort (plateOf plate)))] (s.hub.hunting p))) ∧
  (∀ (h : Hub) (p : Fin 16),
    (writerPort p = .a ↔ p.val < 8) ∧ (h.plates[p].live = none → workCopy h.plates[p] = 0) ∧
      (∀ c, h.plates[p].live = some c → workCopy h.plates[p] ≠ c) ∧
      (∀ (c : Fin 2) (z : Size), h.plates[p].copies[c].size = some z →
        h.plates[p].copies[c].outstanding = ((List.finRange 64).filter fun t =>
          decide (t.val < z.columns * z.rows ∧
            (h.plates[p].copies[c].written[t] = false ∨ h.plates[p].copies[c].damaged[t] = true))).length) ∧
      (plateInUse h p = true ↔
        referencing h (.plate p) ≠ [] ∨ ∃ (c : Fin 2) (n : Fin 8), h.plates[p].copies[c].readers[n] = true)) ∧
  (∀ (s : State) (p : Port) (tag plate columns rows : Byte) (c : Fin 2), handlesAtOnce p s.hub = true →
    plate.toNat ≤ 15 → 1 ≤ columns.toNat → columns.toNat ≤ 8 → 1 ≤ rows.toNat → rows.toNat ≤ 8 →
    c = workCopy s.hub.plates[plateOf plate] →
    (writerPort (plateOf plate) ≠ p →
      Completes (.plateOpen p tag plate columns rows) s
        (reply p 0x20 tag .notOwner [portCode (some (writerPort (plateOf plate)))] (s.hub.hunting p))) ∧
    (writerPort (plateOf plate) = p →
      (s.hub.plates[plateOf plate].copies[c].state = .empty ∨ s.hub.plates[plateOf plate].copies[c].state = .loading →
        Completes (.plateOpen p tag plate columns rows) s
          (reply p 0x20 tag .done [byteOfFin (plateOf plate), byteOfFin c]
            ((s.hub.hunting p).modCopy (plateOf plate) c fun x =>
              { x with
                state := .loading, size := some (sizeOf columns rows), written := TileSet.empty,
                damaged := TileSet.empty, signatures := [] }))) ∧
      (s.hub.plates[plateOf plate].copies[c].state = .retired ∨
          s.hub.plates[plateOf plate].copies[c].state = .committing →
        Completes (.plateOpen p tag plate columns rows) s
          (reply p 0x20 tag .busy [byteOfFin (plateOf plate)] (s.hub.hunting p))))) ∧
  ∀ (s : State) (tag plate : Byte) (c : Fin 2) (p : Port), handlesAtOnce p s.hub = true → plate.toNat ≤ 15 →
    p = writerPort (plateOf plate) → c = workCopy s.hub.plates[plateOf plate] →
    (s.hub.plates[plateOf plate].copies[c].state ≠ .loading →
      Completes (.plateCommit p tag plate) s
        (reply p 0x22 tag .wrongState
          [byteOfFin (plateOf plate), s.hub.plates[plateOf plate].copies[c].state.code] (s.hub.hunting p))) ∧
    (s.hub.plates[plateOf plate].copies[c].state = .loading →
      (s.hub.plates[plateOf plate].copies[c].outstanding ≠ 0 →
        Completes (.plateCommit p tag plate) s
          (reply p 0x22 tag .incomplete
            [byteOfFin (plateOf plate), byteOf s.hub.plates[plateOf plate].copies[c].outstanding]
            (s.hub.hunting p))) ∧
      (s.hub.plates[plateOf plate].copies[c].outstanding = 0 →
        Completes (.plateCommit p tag plate) s
          (((s.hub.hunting p).modCopy (plateOf plate) c fun x => { x with state := .committing }).modPort p fun x =>
            { x with handling := some (.plateCommit tag (plateOf plate)) }))) ∧
    (plateInUse s.hub (plateOf plate) = true →
      Completes (.plateDrop p tag plate) s (reply p 0x23 tag .busy [byteOfFin (plateOf plate)] (s.hub.hunting p))) ∧
    (plateInUse s.hub (plateOf plate) = false →
      Completes (.plateDrop p tag plate) s
        (reply p 0x23 tag .done [byteOfFin (plateOf plate)]
          ((s.hub.hunting p).modPlate (plateOf plate) fun x =>
            { x with size := none, live := none, copies := Vector.replicate 2 PlateCopy.empty })))

/-- R30: commit done enters the signatures of the copy's tiles, makes it Live, sets the plate's size, raises the
version, retires or empties the copy that was live, and is answered Done; the port's handling ends, and nothing else of
the part changes. The commit done is that of the PLATE-COMMIT that the writer port holds in handling (R29); with none
in handling it changes nothing (log 1, DEDUCED). -/
def Obligations.CommitDone : Prop :=
  (∀ (h : Hub) (pl : Fin 16) (tag : Byte),
    commitTag h pl = some tag ↔ (h.port (writerPort pl)).handling = some (.plateCommit tag pl)) ∧
  (∀ (s : State) (pl : Fin 16), commitTag s.hub pl = none → Completes (.commitDone pl) s s.hub) ∧
  ∀ (s : State) (pl : Fin 16) (tag : Byte) (c : Fin 2) (z : Size), commitTag s.hub pl = some tag →
    c = workCopy s.hub.plates[pl] → s.hub.plates[pl].copies[c].size = some z →
    ∃ copies : Vector PlateCopy 2,
      Completes (.commitDone pl) s
        ((s.hub.modPlate pl fun x =>
            { x with live := some c, size := some z, version := x.version + 1, copies := copies }).modPort
          (writerPort pl) fun x =>
            { x with
              handling := none
              replies := x.replies ++
                [{ kind := 0xA2, tag := tag,
                   body := 0 :: ([byteOfFin pl] ++ be16 (s.hub.plates[pl].version + 1) ++ [byteOfFin c]) }] }) ∧
      copies[c] =
        { s.hub.plates[pl].copies[c] with
          state := .live
          signatures := (List.range (z.columns * z.rows)).map fun t =>
            some (signatureOf (s.hub.dram.readBytes (Config.copyBase pl.val c.val + t * 4800) 4800)) } ∧
      copies[other c] =
        if s.hub.plates[pl].live = some (other c) then
          if s.hub.plates[pl].copies[other c].readers.isEmpty then PlateCopy.empty
          else { s.hub.plates[pl].copies[other c] with state := .retired }
        else s.hub.plates[pl].copies[other c]

/-- R26 steps 2 to 6, R165: the judgement of a header, case by case. R26, R162, R165: PLATE_DATA, its first eight bytes
taken as one event (MODEL's choice, log 15) and its header check matching, is accepted, refused or dropped, with the
reply, the frame in handling and the reception it leaves; a mismatch is a line error. While the part is Starting, or
inside the pixels of another write-through frame, it changes nothing (log 15). Of the replies of a LINE-SET that
have not been sent, which make a header Busy, only a Done counts (MODEL's choice, log 27). -/
def Obligations.PlateDataHeader : Prop :=
  (∀ x : PortState,
    x.lineSetUnsent = true ↔ (∃ f ∈ x.replies, f.kind = 0x83 ∧ f.body.head? = some 0) ∨
      ∃ f, x.line = some f ∧ f.kind = 0x83 ∧ f.body.head? = some 0) ∧
  (∀ (h : Hub) (p : Port) (plate tile : Byte),
    ((h.port p).freePlaces = 0 → judgeHeader p plate tile h = .dropped) ∧
    (0 < (h.port p).freePlaces →
      ((h.port p).input ≠ [] ∨ (h.port p).handling ≠ none ∨ (h.port p).lineSetUnsent = true →
        judgeHeader p plate tile h = .refused .busy) ∧
      ((h.port p).input = [] → (h.port p).handling = none → (h.port p).lineSetUnsent = false →
        (16 ≤ plate.toNat → judgeHeader p plate tile h = .refused .badValue) ∧
        (plate.toNat ≤ 15 → writerPort (plateOf plate) ≠ p → judgeHeader p plate tile h = .refused .notOwner) ∧
        (plate.toNat ≤ 15 → writerPort (plateOf plate) = p →
          ∀ c, c = workCopy h.plates[plateOf plate] →
            (h.plates[plateOf plate].copies[c].state ≠ .loading →
              judgeHeader p plate tile h = .refused .wrongState) ∧
            (∀ z, h.plates[plateOf plate].copies[c].state = .loading →
              h.plates[plateOf plate].copies[c].size = some z →
              (z.columns * z.rows ≤ tile.toNat → judgeHeader p plate tile h = .refused .badValue) ∧
              (tile.toNat < z.columns * z.rows →
                judgeHeader p plate tile h = .accepted (plateOf plate) c tile.toNat)))))) ∧
  (∀ (s : State) (p : Port) (tag plate tile headerCheck : Byte), takesFrames p s.hub = false →
    Completes (.plateData p tag plate tile headerCheck) s s.hub) ∧
  ∀ (s : State) (p : Port) (tag plate tile headerCheck : Byte), takesFrames p s.hub = true →
    (headerCheck ≠ crc8 [0x12, 0xC3, 0x21, tag, plate, tile] →
      Completes (.plateData p tag plate tile headerCheck) s (lineError p .header s.hub)) ∧
    (headerCheck = crc8 [0x12, 0xC3, 0x21, tag, plate, tile] →
      ∀ (verdict : HeaderVerdict) (next : WriteThrough → Receiver), verdict = judgeHeader p plate tile s.hub →
        (∀ w, next w = .receiving
          { position := .body, got := 3, length := 4803, kind := 0x21, tag := tag, body := [plate, tile],
            crc := crc16 [0x12, 0xC3, 0x21, tag, plate, tile, headerCheck], headerCrc := headerCheck, firstCheck := 0,
            through := some w }) →
        (verdict = .dropped →
          Completes (.plateData p tag plate tile headerCheck) s
            (s.hub.modPort p fun x =>
              { x with receiver := next .ignored, gap := some 2, dropped := x.dropped + 1 })) ∧
        (∀ r, verdict = .refused r →
          Completes (.plateData p tag plate tile headerCheck) s
            (s.hub.modPort p fun x =>
              { x with
                receiver := next .ignored, gap := some 2
                replies := x.replies ++ [{ kind := 0xA1, tag := tag, body := [r.code, plate, tile] }] })) ∧
        ∀ pl c t, verdict = .accepted pl c t →
          Completes (.plateData p tag plate tile headerCheck) s
            (s.hub.modPort p fun x =>
              { x with
                receiver := next (.accepted pl c t), gap := some 2
                handling := some (.plateData tag pl tile) }))

/-- R27: at the second check byte of an accepted PLATE-DATA the tile joins the written set; it leaves the damaged set
when the CRC matches and joins it when it does not, which is also a line error of class crc; no other tile, copy or
plate and no byte of the DRAM changes. PLATE_DATA_END at any other place of a frame changes nothing (log 1,
DEDUCED). -/
def Obligations.PlateDataEnds : Prop :=
  (∀ (s : State) (p : Port) (b : Byte) (r : Reception) (pl : Fin 16) (c : Fin 2) (t : Nat) (tag tile : Byte)
    (parityBit stopBit : Bool),
    s.hub.starting = false → (s.hub.port p).receiver = .receiving r → r.position = .check → r.got = 1 →
    r.through = some (.accepted pl c t) → (s.hub.port p).handling = some (.plateData tag pl tile) →
    characterGood b parityBit stopBit = true →
    (∀ k h : Hub,
      k = ((s.hub.hunting p).modCopy pl c fun x =>
        { x with
          written := x.written.set (Fin.ofNat 64 t) true, damaged := x.damaged.set (Fin.ofNat 64 t) false }) →
      h = (k.modPort p fun x =>
        { x with
          handling := none
          replies := x.replies ++
            [{ kind := 0xA1, tag := tag,
               body := [0, byteOfFin pl, byteOf t, byteOf k.plates[pl].copies[c].outstanding] }] }) →
      of16 r.firstCheck b = r.crc →
      Completes (.plateDataEnd p b) s h ∧ Completes (.byteEvent p b parityBit stopBit) s h) ∧
    ∀ k h : Hub,
      k = (s.hub.modCopy pl c fun x =>
        { x with
          written := x.written.set (Fin.ofNat 64 t) true, damaged := x.damaged.set (Fin.ofNat 64 t) true }) →
      h = (k.modPort p fun x =>
        { x with
          handling := none
          replies := x.replies ++
            [{ kind := 0xA1, tag := tag,
               body := [0x0B, byteOfFin pl, byteOf t, byteOf k.plates[pl].copies[c].outstanding, 0] }] }) →
      Completes (.lineError p .crc) s (lineError p .crc h) ∧
      (of16 r.firstCheck b ≠ r.crc →
        Completes (.plateDataEnd p b) s (lineError p .crc h) ∧
          Completes (.byteEvent p b parityBit stopBit) s (lineError p .crc h))) ∧
  ∀ (s : State) (p : Port) (b : Byte),
    (∀ r pl c t, (s.hub.port p).receiver = .receiving r → r.through = some (.accepted pl c t) →
      r.position ≠ .check ∨ r.got ≠ 1) →
    Completes (.plateDataEnd p b) s s.hub

/-! ### Screens -/

/-- R39: SCREEN-BIND of an Unbound slot, with no other slot of the identity and at most one on the link and room in the
pool, sets the slot and is answered Done with the free entries that remain; else it is refused case by case. R39, R40:
the screens bound to a link, the holder of an identity among them, and the free entries. -/
def Obligations.ScreenBind : Prop :=
  (∀ (h : Hub) (l : Fin 6) (identity : Identity),
    boundTo h l =
        (allScreens.filter fun n => decide (h.screens[n].state ≠ .unbound ∧ h.screens[n].link = some l)) ∧
      (∀ n, identityHolder h l identity = some n ↔
        (n ∈ boundTo h l ∧ h.screens[n].identity = some identity) ∧
          ∀ m < n, m ∈ boundTo h l → h.screens[m].identity ≠ some identity) ∧
      (identityHolder h l identity = none ↔ ∀ n ∈ boundTo h l, h.screens[n].identity ≠ some identity) ∧
      freeEntries h = 8192 - (allScreens.map fun n => h.screens[n].entries.length).sum) ∧
  ∀ (s : State) (p : Port) (tag screen link columns rows : Byte) (identity : Identity) (fill : Colour),
    handlesAtOnce p s.hub = true → screen.toNat ≤ 7 → link.toNat ≤ 5 → 1 ≤ columns.toNat → columns.toNat ≤ 64 →
    1 ≤ rows.toNat → rows.toNat ≤ 36 →
    (s.hub.screens[screenOf screen].state ≠ .unbound →
      Completes (.screenBind p tag screen link identity columns rows fill) s
        (reply p 0x30 tag .wrongState [byteOfFin (screenOf screen), s.hub.screens[screenOf screen].state.code]
          (s.hub.hunting p))) ∧
    (s.hub.screens[screenOf screen].state = .unbound →
      (∀ m, identityHolder s.hub (linkOf link) identity = some m →
        Completes (.screenBind p tag screen link identity columns rows fill) s
          (reply p 0x30 tag .wrongState [byteOfFin m, s.hub.screens[m].state.code] (s.hub.hunting p))) ∧
      (identityHolder s.hub (linkOf link) identity = none →
        (2 ≤ (boundTo s.hub (linkOf link)).length ∨ freeEntries s.hub < columns.toNat * rows.toNat →
          Completes (.screenBind p tag screen link identity columns rows fill) s
            (reply p 0x30 tag .noRoom
              (be16Of (freeEntries s.hub) ++ [byteOf (boundTo s.hub (linkOf link)).length]) (s.hub.hunting p))) ∧
        ((boundTo s.hub (linkOf link)).length < 2 → columns.toNat * rows.toNat ≤ freeEntries s.hub →
          ∃ h, Completes (.screenBind p tag screen link identity columns rows fill) s
            (reply p 0x30 tag .done (byteOfFin (screenOf screen) :: be16Of (freeEntries h)) h) ∧
            h = (s.hub.hunting p).modScreen (screenOf screen) fun _ =>
              { Screen.reset with
                state := .missing, link := some (linkOf link), identity := some identity,
                size := some (sizeOf columns rows), fill := some fill,
                fillSignature := some (fillSignatureOf fill), owner := some p,
                entries := List.replicate (columns.toNat * rows.toNat) Entry.absent })))

/-- R60, R101, R108: SCREEN-UNBIND by the owner gives every field of the slot the value it has after a reset (its
entries go back to the pool), its pace count, which R79 lets go on, at most the interval of 16 (log 18, DEDUCED); it
leaves its controller a stranger at its address; of a Joined screen every buffer is freed or voided and BLANK with the
fill colour is handed on. -/
def Obligations.ScreenUnbind : Prop :=
  ∀ (s : State) (p : Port) (tag screen : Byte) (n : Fin 8), handlesAtOnce p s.hub = true → screen.toNat ≤ 7 →
    n = screenOf screen → s.hub.screens[n].bound = true → s.hub.screens[n].owner = some p →
    ∃ h, Completes (.screenUnbind p tag screen) s
        (reply p 0x31 tag .done (byteOfFin n :: be16Of (freeEntries h)) h) ∧
      h.screens[n] =
        { state := .unbound, link := none, identity := none, size := none, fill := none, fillSignature := none,
          pendingFill := none, owner := none, layout := [], pendingLayout := none, pendingFlag := false, stamp := 0,
          group := none, pace := 16, seize := none, failures := 0, present := 0,
          lastFrames := Vector.replicate 2 none, lastVersions := Vector.replicate 16 none, entries := [],
          engine :=
            { cycle := none, paceCount := min s.hub.screens[n].engine.paceCount 16, showCount := 0,
              showTimer := none, lossWait := false, promptStart := false,
              joinedSurfaces := Vector.replicate 2 false, joinedPlates := Vector.replicate 16 false }
          level := { mode := .manual, target := 128, current := 128, step := 0, input := 0, curve := 0 } } ∧
      (∀ g : Fin 4, h.groups[g].running[n] = false) ∧
      (∀ (l : Fin 6) (a : Fin 2), s.hub.links[l].rows[a].assignment = .screen n →
        h.links[l].rows[a].assignment = .stranger (s.hub.screens[n].identity.getD 0)) ∧
      (s.hub.screens[n].state = .joined →
        (∀ (b : Fin 32) (x : Lend), h.buffers[b] = some x → x.screen = n → x.voided = true) ∧
          ∀ l a, addressOf s.hub n = some (l, a) →
            ∃ q, h.links[l].control = q ++ [.blank a (s.hub.screens[n].fill.getD default)]) ∧
      (h = { s.hub.hunting p with
        slots := h.slots, plates := h.plates, screens := h.screens, groups := h.groups, buffers := h.buffers,
        links := h.links }) ∧
      (∀ g : Fin 4, h.groups[g] = { s.hub.groups[g] with running := s.hub.groups[g].running.set n false }) ∧
      (∀ l : Fin 6, h.links[l] =
        { s.hub.links[l] with
          control := h.links[l].control, line := h.links[l].line, rows := h.links[l].rows, tiles := h.links[l].tiles,
          sentOrder := h.links[l].sentOrder }) ∧
      (∀ (l : Fin 6) (a : Fin 2), s.hub.links[l].rows[a].assignment ≠ .screen n →
        h.links[l].rows[a] = s.hub.links[l].rows[a]) ∧
      (s.hub.screens[n].state = .joined →
        h.slots = (leaveSources n s.hub).slots ∧ h.plates = (leaveSources n s.hub).plates) ∧
      (s.hub.screens[n].state ≠ .joined →
        h.slots = s.hub.slots ∧ h.plates = s.hub.plates ∧ h.buffers = s.hub.buffers) ∧
      ∀ m : Fin 8, m ≠ n → h.screens[m] = s.hub.screens[m]

/-- R42, R45, R46: LAYOUT-SET is refused Stale, then BadValue by R43, and else makes the list the pending layout, sets
the pending flag and raises the stamp; FILL-SET makes the colour the pending fill colour and sets the flag. R43: a view
fits when it lies within the screen and its block within its source, a plate of no size taken as 8 × 8; the refusal
names the first view that does not. -/
def Obligations.LayoutAndFill : Prop :=
  (∀ (s : State) (p : Port) (tag screen present : Byte) (stamp : Half) (views : List RawView) (fill : Colour) (n : Fin 8),
    handlesAtOnce p s.hub = true → screen.toNat ≤ 7 → n = screenOf screen → s.hub.screens[n].bound = true →
    s.hub.screens[n].owner = some p →
    (present.toNat ≤ 1 → views.length ≤ 4 → badViews 0 views = none →
      (present = 1 → stamp ≠ s.hub.screens[n].stamp →
        Completes (.layoutSet p tag screen present stamp views) s
          (reply p 0x33 tag .stale (byteOfFin n :: be16 s.hub.screens[n].stamp) (s.hub.hunting p))) ∧
      (present = 0 ∨ stamp = s.hub.screens[n].stamp →
        (∀ k, badView s.hub n (layoutOf views) = some k →
          Completes (.layoutSet p tag screen present stamp views) s
            (reply p 0x33 tag .badValue [0, byteOf k] (s.hub.hunting p))) ∧
        (badView s.hub n (layoutOf views) = none →
          Completes (.layoutSet p tag screen present stamp views) s
            (reply p 0x33 tag .done (byteOfFin n :: be16 (s.hub.screens[n].stamp + 1))
              ((s.hub.hunting p).modScreen n fun x =>
                { x with pendingLayout := some (layoutOf views), pendingFlag := true, stamp := x.stamp + 1 }))))) ∧
    Completes (.fillSet p tag screen fill) s
      (reply p 0x36 tag .done [byteOfFin n]
        ((s.hub.hunting p).modScreen n fun x => { x with pendingFill := some fill, pendingFlag := true }))) ∧
  ∀ (h : Hub) (n : Fin 8) (z : Size), h.screens[n].size = some z →
    (∀ v : View, viewFits h n v = true ↔
      (v.placeColumn + v.columns ≤ z.columns ∧ v.placeRow + v.rows ≤ z.rows) ∧
        (∀ i, v.source = .surface i → ∃ w, h.captures[i].size = some w ∧
          v.originColumn + v.columns ≤ w.columns ∧ v.originRow + v.rows ≤ w.rows) ∧
        ∀ p, v.source = .plate p →
          (∀ w, h.plates[p].size = some w →
            v.originColumn + v.columns ≤ w.columns ∧ v.originRow + v.rows ≤ w.rows) ∧
          (h.plates[p].size = none → v.originColumn + v.columns ≤ 8 ∧ v.originRow + v.rows ≤ 8)) ∧
    ∀ v : Layout,
      (badView h n v = none ↔ ∀ w ∈ v, viewFits h n w = true) ∧
      ∀ k, badView h n v = some k ↔
        (∃ w, v[k]? = some w ∧ viewFits h n w = false) ∧ ∀ j < k, ∀ w, v[j]? = some w → viewFits h n w = true

/-- R65, R81, R82: PACE-SET sets the interval and zeroes the count, of a screen for its owner and of a group for either
port; GROUP-SET naming another group or none changes the group field and takes the screen out of every running set, and
naming the group it has changes nothing. -/
def Obligations.PaceAndGroup : Prop :=
  (∀ (h : Hub) (n : Fin 8),
    leaveRunning n h =
      { h with groups := h.groups.map fun (g : Group) => { g with running := g.running.set n false } }) ∧
  ∀ (s : State) (p : Port) (tag b : Byte) (pace : Half), handlesAtOnce p s.hub = true → pace.toNat ≤ 1000 →
    (∀ n : Fin 8, b.toNat ≤ 7 → n = screenOf b → s.hub.screens[n].bound = true → s.hub.screens[n].owner = some p →
      Completes (.paceSetScreen p tag b pace) s
        (reply p 0x35 tag .done ([0, byteOfFin n] ++ be16Of pace.toNat)
          ((s.hub.hunting p).modScreen n fun x =>
            { x with pace := pace.toNat, engine := { x.engine with paceCount := 0 } })) ∧
      (∀ present group : Byte, present.toNat ≤ 1 → (present = 1 → group.toNat ≤ 3) →
        ∀ g, g = presentOf present (groupOf group) →
        (g ≠ s.hub.screens[n].group →
          Completes (.groupSet p tag b present group) s
            (reply p 0x34 tag .done (byteOfFin n :: optionalByte byteOfFin g)
              ((leaveRunning n (s.hub.hunting p)).modScreen n fun x => { x with group := g }))) ∧
        (g = s.hub.screens[n].group →
          Completes (.groupSet p tag b present group) s
            (reply p 0x34 tag .done (byteOfFin n :: optionalByte byteOfFin g) (s.hub.hunting p))))) ∧
    (b.toNat ≤ 3 →
      Completes (.paceSetGroup p tag b pace) s
        (reply p 0x35 tag .done ([1, byteOfFin (groupOf b)] ++ be16Of pace.toNat)
          ((s.hub.hunting p).modGroup (groupOf b) fun x => { x with pace := pace.toNat, count := 0 })))

/-- R138: CLAIM of an unowned screen makes the claiming port its owner and changes nothing else; of an owned screen it
is refused NotOwner, naming the owner. -/
def Obligations.ClaimRequest : Prop :=
  ∀ (s : State) (p : Port) (tag screen : Byte) (n : Fin 8), handlesAtOnce p s.hub = true → screen.toNat ≤ 7 →
    n = screenOf screen → s.hub.screens[n].bound = true →
    (s.hub.screens[n].owner = none →
      Completes (.claim p tag screen) s
        (reply p 0x38 tag .done ([byteOfFin n, portCode (some p)] ++ be16 s.hub.screens[n].stamp)
          ((s.hub.hunting p).modScreen n fun x => { x with owner := some p }))) ∧
    (s.hub.screens[n].owner ≠ none →
      Completes (.claim p tag screen) s
        (reply p 0x38 tag .notOwner [portCode s.hub.screens[n].owner, flag s.hub.screens[n].seize.isSome]
          (s.hub.hunting p)))

/-- R139: YIELD by the owner of a screen with no seize record makes the owner none and changes nothing else; with a
seize record it is refused WrongState. -/
def Obligations.Yield : Prop :=
  ∀ (s : State) (p : Port) (tag screen : Byte) (n : Fin 8), handlesAtOnce p s.hub = true → screen.toNat ≤ 7 →
    n = screenOf screen → s.hub.screens[n].bound = true → s.hub.screens[n].owner = some p →
    (s.hub.screens[n].seize = none →
      Completes (.yieldScreen p tag screen) s
        (reply p 0x39 tag .done (byteOfFin n :: be16 s.hub.screens[n].stamp)
          ((s.hub.hunting p).modScreen n fun x => { x with owner := none }))) ∧
    (s.hub.screens[n].seize ≠ none →
      Completes (.yieldScreen p tag screen) s
        (reply p 0x39 tag .wrongState [byteOfFin n, s.hub.screens[n].state.code] (s.hub.hunting p)))

/-- R141, R142, R77, R147: an accepted SEIZE keeps or creates the record, makes port B the owner, the views the pending
layout, raises the stamp and removes the group; the engine acts by its cycle state; SEIZED goes to port A at a first
SEIZE of its screen. R78, R57: the cut leaves the sources, takes the targets away and makes the screen Cutting. -/
def Obligations.Seize : Prop :=
  (∀ (s : State) (tag screen : Byte) (views : List RawView) (n : Fin 8) (x : Screen) (r : SeizeRecord),
    handlesAtOnce .b s.hub = true → screen.toNat ≤ 7 → views.length ≤ 4 → badViews 0 views = none →
    n = screenOf screen → x = s.hub.screens[n] → x.bound = true → badView s.hub n (layoutOf views) = none →
    r = x.seize.getD { owner := x.owner, layout := x.pendingLayout.getD x.layout, group := x.group, pace := x.pace } →
    ∃ h, Completes (.seize .b tag screen views) s
        (reply .b 0x3A tag .done ([byteOfFin n] ++ be16 (x.stamp + 1) ++ [portCode r.owner])
          (if x.seize.isNone ∧ x.owner = some .a then
            notify [.a] .seized ([byteOfFin n] ++ be16 (x.stamp + 1) ++ optionalByte byteOfFin x.group) h
          else h)) ∧
      ∃ k, k = leaveRunning n ((s.hub.hunting .b).modScreen n fun y =>
          { y with
            pendingLayout := some (layoutOf views), pendingFlag := true, stamp := y.stamp + 1, seize := some r,
            owner := some .b, group := none }) ∧
        (x.engine.cycle = none ∨ x.engine.cycle = some .cutting → h = k) ∧
        (x.engine.cycle = some .idle ∨ x.engine.cycle = some .ready → h = startCycle n k) ∧
        (x.engine.cycle = some .gathering → h = cut n k) ∧
        (x.engine.cycle = some .presenting → h = k.modEngine n fun e => { e with promptStart := true })) ∧
  ∀ (h : Hub) (n : Fin 8),
    cut n h = (leaveSources n h).modScreen n fun y =>
      { y with
        entries := y.entries.map fun e => { e with target := none }
        engine := { y.engine with cycle := some .cutting } }

/-- R144, R147: RETURN restores owner, layout, group and pace from the record, deletes it, keeps an open pace gate
open, and sends RETURNED; without a record it is refused WrongState. -/
def Obligations.Return : Prop :=
  ∀ (s : State) (tag screen : Byte) (n : Fin 8), handlesAtOnce .b s.hub = true → screen.toNat ≤ 7 →
    n = screenOf screen → s.hub.screens[n].bound = true →
    (s.hub.screens[n].seize = none →
      Completes (.returnScreen .b tag screen) s
        (reply .b 0x3B tag .wrongState [byteOfFin n, s.hub.screens[n].state.code] (s.hub.hunting .b))) ∧
    (∀ r, s.hub.screens[n].seize = some r →
      Completes (.returnScreen .b tag screen) s
        (reply .b 0x3B tag .done ([byteOfFin n] ++ be16 (s.hub.screens[n].stamp + 1) ++ [portCode r.owner])
          (notify (ownerOrBoth r.owner) .returned
            ([byteOfFin n] ++ be16 (s.hub.screens[n].stamp + 1) ++ [portCode r.owner] ++
              optionalByte byteOfFin r.group)
            ((leaveRunning n (s.hub.hunting .b)).modScreen n fun x =>
              { x with
                owner := r.owner, pendingLayout := some r.layout, pendingFlag := true, stamp := x.stamp + 1,
                group := r.group, pace := r.pace, seize := none,
                engine :=
                  { x.engine with
                    paceCount :=
                      if x.engine.paceCount = x.pace then r.pace else min x.engine.paceCount r.pace } }))))

/-- R39, R136, R137, R141, R144: a request that names an Unbound slot is refused WrongState; SEIZE and RETURN from port
A and a change from a port that is not the owner are refused NotOwner, naming the owner and whether there is a
record. -/
def Obligations.ScreenRefusals : Prop :=
  ∀ (h : Hub) (p : Port) (tag screen : Byte) (n : Fin 8) (r : Request), n = screenOf screen →
    (r = .screenUnbind screen ∨ (∃ fill, r = .fillSet screen fill) ∨ (∃ b c v, r = .layoutSet screen b c v) ∨
        (∃ b c, r = .groupSet screen b c) ∨ (∃ v, r = .paceSet 0 screen v) ∨ r = .yieldScreen screen ∨
        (∃ m t u i k, r = .levelSet screen m t u i k) →
      (s_unbound : h.screens[n].bound = false) → perform p tag r h = h.refuse .wrongState [byteOfFin n, h.screens[n].state.code]) ∧
    (r = .screenUnbind screen ∨ (∃ fill, r = .fillSet screen fill) ∨ (∃ b c v, r = .layoutSet screen b c v) ∨
        (∃ b c, r = .groupSet screen b c) ∨ (∃ v, r = .paceSet 0 screen v) ∨ r = .yieldScreen screen ∨
        (∃ m t u i k, r = .levelSet screen m t u i k) →
      h.screens[n].bound = true → h.screens[n].owner ≠ some p →
      perform p tag r h = h.refuse .notOwner [portCode h.screens[n].owner, flag h.screens[n].seize.isSome]) ∧
    ((∃ v, r = .seize screen v) ∨ r = .returnScreen screen →
      (h.screens[n].bound = false → perform p tag r h = h.refuse .wrongState [byteOfFin n, h.screens[n].state.code]) ∧
      (h.screens[n].bound = true → p = .a →
        perform p tag r h = h.refuse .notOwner [portCode h.screens[n].owner, flag h.screens[n].seize.isSome])) ∧
    (r = .claim screen → h.screens[n].bound = false →
      perform p tag r h = h.refuse .wrongState [byteOfFin n, h.screens[n].state.code])

/-! ### The present cycle -/

/-- R67, R83, R65, R82: where the conditions of a cycle start hold, CYCLE_START and PACE_GATE_OPENS start the cycle,
and where those of a joint start hold, JOINT_START and GROUP_PACE_GATE_OPENS start every active member, in ascending
order (MODEL's choice, log 8), make those that gather the running set and zero the group pace count; where they do not
hold, nothing happens (log 1, DEDUCED). R66: a screen has a trigger when a surface it names has a Newest slot of
another frame number than the last gathered, a plate it names a live copy of another version, its pending flag is set,
or an entry is Absent. R14, R80: the Newest slot of a surface, and the active members of a group. -/
def Obligations.CyclesStart : Prop :=
  (∀ (h : Hub) (n : Fin 8) (x : Screen), x = h.screens[n] →
    (hasTrigger h n = true ↔
      (∃ (i : Fin 2) (k : Fin 3), (∃ v ∈ x.layout, v.source = .surface i) ∧ newestSlot h i = some k ∧
        (x.lastFrames[i] = none ∨ h.slots[i][k].number ≠ x.lastFrames[i])) ∨
      (∃ p : Fin 16, (∃ v ∈ x.layout, v.source = .plate p) ∧ h.plates[p].live ≠ none ∧
        x.lastVersions[p] ≠ some h.plates[p].version) ∨
      x.pendingFlag = true ∨ ∃ e ∈ x.entries, e.state = .absent)) ∧
  (∀ (h : Hub) (i : Fin 2),
    (∀ k, newestSlot h i = some k ↔ h.slots[i][k].state = .newest ∧ ∀ j < k, h.slots[i][j].state ≠ .newest) ∧
      (newestSlot h i = none ↔ ∀ k : Fin 3, h.slots[i][k].state ≠ .newest)) ∧
  (∀ (h : Hub) (g : Fin 4),
    activeMembers h g = allScreens.filter fun n =>
      decide (h.screens[n].group = some g ∧ h.screens[n].state = .joined)) ∧
  (∀ (s : State) (n : Fin 8) (x : Screen), x = s.hub.screens[n] →
    (x.state = .joined ∧ x.engine.cycle = some .idle ∧ x.group = none ∧ x.engine.paceCount = x.pace ∧
        hasTrigger s.hub n = true →
      Completes (.cycleStart n) s (startCycle n s.hub) ∧ Completes (.paceGateOpens n) s (startCycle n s.hub)) ∧
    (¬(x.state = .joined ∧ x.engine.cycle = some .idle ∧ x.group = none ∧ x.engine.paceCount = x.pace ∧
        hasTrigger s.hub n = true) →
      Completes (.cycleStart n) s s.hub ∧ Completes (.paceGateOpens n) s s.hub)) ∧
    ∀ (s : State) (g : Fin 4) (active : List (Fin 8)), active = activeMembers s.hub g →
      (s.hub.groups[g].running = ScreenSet.empty ∧ active ≠ [] ∧
          (∀ n ∈ active, s.hub.screens[n].engine.cycle = some .idle) ∧ s.hub.groups[g].count = s.hub.groups[g].pace ∧
          (∃ n ∈ active, hasTrigger s.hub n = true) →
        ∃ h k, h = active.foldl (fun h n => startCycle n h) s.hub ∧
          k = h.modGroup g (fun x =>
            { x with
              running := setScreens (active.filter fun n => h.screens[n].engine.cycle == some .gathering)
              count := 0 }) ∧
          Completes (.jointStart g) s k ∧ Completes (.groupPaceGateOpens g) s k) ∧
      (¬(s.hub.groups[g].running = ScreenSet.empty ∧ active ≠ [] ∧
          (∀ n ∈ active, s.hub.screens[n].engine.cycle = some .idle) ∧ s.hub.groups[g].count = s.hub.groups[g].pace ∧
          (∃ n ∈ active, hasTrigger s.hub n = true)) →
        Completes (.jointStart g) s s.hub ∧ Completes (.groupPaceGateOpens g) s s.hub)

/-- R68, R69, R51, R47: a cycle start hands the pending layout and fill colour over, gives every entry its target,
marks it Held where the held signature equals the target's and Behind elsewhere, zeroes the pace count, and leaves the
screen Gathering when an entry is Behind and Idle, its targets dropped, when none is; no other screen changes, no pixel
and no link. R68, R15, R31: a Gathering screen has joined the Newest slot of each surface and the live copy of each
plate that its layout names, an Idle one has left every reader set, and the frame numbers and versions it found are
recorded. R15, R31, R71: what a leave makes of slots and copies. R44, R50, R34: the target of an entry, from the
covering view that stands latest in the layout: the tile of the Newest slot or of the live copy with its signature, and
background with the fill signature where no view covers the tile, the surface has no Newest slot, or the plate supplies
no tile. -/
def Obligations.CycleStartEffect : Prop :=
  (∀ (v : Layout) (src : Source), v.names src = true ↔ ∃ w ∈ v, w.source = src) ∧
  (∀ (h : Hub) (x : Screen) (t column row : Nat) (z : Size) (fill : Signature) (background : Target)
      (covers : View → Prop), x.size = some z → x.fillSignature = some fill →
    background = { source := .background, signature := fill } → column = t % z.columns → row = t / z.columns →
    (∀ v, covers v ↔ (v.placeColumn ≤ column ∧ column < v.placeColumn + v.columns) ∧
      v.placeRow ≤ row ∧ row < v.placeRow + v.rows) →
    ((∀ v ∈ x.layout, ¬covers v) → targetOf h x t = background) ∧
    ∀ (below above : Layout) (v : View) (c r : Nat), x.layout = below ++ v :: above → covers v →
      (∀ w ∈ above, ¬covers w) → c = v.originColumn + (column - v.placeColumn) →
      r = v.originRow + (row - v.placeRow) →
      (∀ i, v.source = .surface i →
        (newestSlot h i = none → targetOf h x t = background) ∧
        ∀ k w g, newestSlot h i = some k → h.captures[i].size = some w →
          h.slots[i][k].signatures[r * w.columns + c]? = some (some g) →
          targetOf h x t = { source := .surface i k (r * w.columns + c), signature := g }) ∧
      ∀ p, v.source = .plate p →
        (h.plates[p].live = none ∨ (∀ w, h.plates[p].size = some w → ¬(c < w.columns ∧ r < w.rows)) →
          targetOf h x t = background) ∧
        ∀ k w g, h.plates[p].live = some k → h.plates[p].size = some w → c < w.columns → r < w.rows →
          h.plates[p].copies[k].signatures[r * w.columns + c]? = some (some g) →
          targetOf h x t = { source := .plate p k (r * w.columns + c), signature := g }) ∧
  (∀ (h k : Hub) (n : Fin 8) (x y z : Screen), x = h.screens[n] → k = startCycle n h → y = k.screens[n] →
    z = { x with
      layout := x.pendingLayout.getD x.layout, pendingLayout := none,
      fill := if x.pendingFill.isSome then x.pendingFill else x.fill,
      fillSignature := match x.pendingFill with
        | some c => some (fillSignatureOf c)
        | none => x.fillSignature
      pendingFill := none, pendingFlag := false } →
    y.layout = z.layout ∧ y.pendingLayout = none ∧ y.fill = z.fill ∧ y.fillSignature = z.fillSignature ∧
      y.pendingFill = none ∧ y.pendingFlag = false ∧
      (y = { z with
        entries := y.entries, lastFrames := y.lastFrames, lastVersions := y.lastVersions
        engine :=
          { x.engine with
            cycle := y.engine.cycle, paceCount := 0, promptStart := false, lossWait := false, showCount := 0,
            showTimer := none, joinedSurfaces := y.engine.joinedSurfaces, joinedPlates := y.engine.joinedPlates } }) ∧
      (k = { h with screens := k.screens, slots := k.slots, plates := k.plates }) ∧
      y.entries.length = x.entries.length ∧
      (∀ t < x.entries.length, ∀ g e, g = targetOf (h.modScreen n fun _ => z) z t → x.entries[t]? = some e →
        ∃ e', y.entries[t]? = some e' ∧ e'.held = e.held ∧
          e'.state = (if e.held = some g.signature then .held else .behind) ∧
          e'.target = if y.engine.cycle = some .gathering then some g else none) ∧
      (y.engine.cycle = some .gathering ↔ ∃ e ∈ y.entries, e.state = .behind) ∧
      (y.engine.cycle = some .idle ↔ ∀ e ∈ y.entries, e.state ≠ .behind) ∧
      (∀ m : Fin 8, m ≠ n → k.screens[m] = h.screens[m]) ∧
      (∀ i : Fin 2, y.lastFrames[i] =
        if z.layout.names (.surface i) then (newestSlot h i).bind fun j => h.slots[i][j].number else none) ∧
      (∀ p : Fin 16, y.lastVersions[p] =
        if z.layout.names (.plate p) ∧ h.plates[p].live ≠ none then some h.plates[p].version else none) ∧
      (∀ p : Fin 16, k.plates[p] = { h.plates[p] with copies := k.plates[p].copies }) ∧
      (y.engine.cycle = some .gathering →
        (∀ (i : Fin 2) (j : Fin 3), k.slots[i][j] =
          if z.layout.names (.surface i) ∧ newestSlot h i = some j then
            { h.slots[i][j] with readers := h.slots[i][j].readers.set n true }
          else h.slots[i][j]) ∧
        (∀ (p : Fin 16) (c : Fin 2), k.plates[p].copies[c] =
          if z.layout.names (.plate p) ∧ h.plates[p].live = some c then
            { h.plates[p].copies[c] with readers := h.plates[p].copies[c].readers.set n true }
          else h.plates[p].copies[c]) ∧
        (∀ i : Fin 2, y.engine.joinedSurfaces[i] = (z.layout.names (.surface i) && (newestSlot h i).isSome)) ∧
        ∀ p : Fin 16, y.engine.joinedPlates[p] = (z.layout.names (.plate p) && h.plates[p].live.isSome)) ∧
      (y.engine.cycle = some .idle → plateLaw h →
        k.slots = (leaveSources n h).slots ∧ k.plates = (leaveSources n h).plates ∧
          y.engine.joinedSurfaces = Vector.replicate 2 false ∧ y.engine.joinedPlates = Vector.replicate 16 false)) ∧
  ∀ (h : Hub) (n : Fin 8),
    leaveSources n h =
      { h with
        slots := h.slots.map fun (v : Vector Slot 3) => v.map fun (x : Slot) =>
          if x.readers[n] = true then
            if x.state = .held ∧ (∀ m : Fin 8, m ≠ n → x.readers[m] = false) then Slot.free
            else { x with readers := x.readers.set n false }
          else x
        plates := h.plates.map fun (y : Plate) => { y with copies := y.copies.map fun (x : PlateCopy) =>
          if x.readers[n] = true then
            if x.state = .retired ∧ (∀ m : Fin 8, m ≠ n → x.readers[m] = false) then PlateCopy.empty
            else { x with readers := x.readers.set n false }
          else x }
        screens := upd h.screens n fun x =>
          { x with engine := { x.engine with
            joinedSurfaces := Vector.replicate 2 false, joinedPlates := Vector.replicate 16 false } } }

/-- R71, R73, R78, R84, R85: the end of gathering, the end of a cut, and the release of a running set, with the SHOWs
each link is handed; two SHOWs of one release on one link go in ascending screen number (MODEL's choice, log 8). R108,
R80: the address that names a screen, and the running sets. -/
def Obligations.GatheringCutAndRelease : Prop :=
  (∀ (h : Hub) (n : Fin 8) (l : Fin 6) (a : Fin 2),
    (addressOf h n = some (l, a) ↔
      h.screens[n].link = some l ∧ h.links[l].rows[a].assignment = .screen n ∧
        ∀ b < a, h.links[l].rows[b].assignment ≠ .screen n) ∧
    (inRunning h n = true ↔ ∃ g : Fin 4, h.groups[g].running[n] = true)) ∧
  (∀ (s : State) (n : Fin 8) (x : Screen), x = s.hub.screens[n] →
    (x.engine.cycle = some .gathering → (∀ e ∈ x.entries, e.state ≠ .behind ∧ e.state ≠ .sending) →
      (inRunning s.hub n = true →
        Completes (.gatheringEnd n) s ((leaveSources n s.hub).modEngine n fun e => { e with cycle := some .ready })) ∧
      (∀ l a, inRunning s.hub n = false → addressOf s.hub n = some (l, a) →
        Completes (.gatheringEnd n) s
          (((leaveSources n s.hub).modLink l fun k =>
              { k with control := k.control ++ [.showFrame (rowByte a) (x.present + 1) (setScreens [n])] }).modEngine n
            fun e => { e with cycle := some .presenting, showCount := 1 }))) ∧
    (x.engine.cycle = some .cutting → (∀ e ∈ x.entries, e.state ≠ .sending) →
      Completes (.cutEnd n) s (startCycle n s.hub)) ∧
    (x.engine.cycle ≠ some .gathering ∨ (∃ e ∈ x.entries, e.state = .behind ∨ e.state = .sending) →
      Completes (.gatheringEnd n) s s.hub) ∧
    (x.engine.cycle ≠ some .cutting ∨ (∃ e ∈ x.entries, e.state = .sending) → Completes (.cutEnd n) s s.hub)) ∧
    (∀ (s : State) (g : Fin 4),
      s.hub.groups[g].running.isEmpty = true ∨
          (∃ n : Fin 8, s.hub.groups[g].running[n] = true ∧ s.hub.screens[n].engine.cycle ≠ some .ready) →
        Completes (.groupRelease g) s s.hub) ∧
    ∀ (s : State) (g : Fin 4) (running : ScreenSet), running = s.hub.groups[g].running → running.isEmpty = false →
      (∀ n : Fin 8, running[n] = true → s.hub.screens[n].engine.cycle = some .ready) →
      ∃ h, h = release g s.hub ∧ Completes (.groupRelease g) s h ∧
        (h = { s.hub with screens := h.screens, links := h.links }) ∧
        (∀ n : Fin 8, h.screens[n] =
          if running[n] then
            { s.hub.screens[n] with
              engine := { s.hub.screens[n].engine with cycle := some .presenting, showCount := 1 } }
          else s.hub.screens[n]) ∧
        ∀ (l : Fin 6) (mine : List (Fin 8)),
          mine = (running.members.filter fun n => (addressOf s.hub n).map (·.1) == some l) →
          ∃ shows, h.links[l] = { s.hub.links[l] with control := s.hub.links[l].control ++ shows } ∧
            (mine = [] → shows = []) ∧
            (∀ n a, mine = [n] → addressOf s.hub n = some (l, a) →
              shows = [.showFrame (rowByte a) (s.hub.screens[n].present + 1) (setScreens [n])]) ∧
            (∀ n m, mine = [n, m] → s.hub.screens[n].present = s.hub.screens[m].present →
              shows = [.showFrame 15 (s.hub.screens[n].present + 1) (setScreens [n, m])]) ∧
            (∀ n m a b, mine = [n, m] → s.hub.screens[n].present ≠ s.hub.screens[m].present →
              addressOf s.hub n = some (l, a) → addressOf s.hub m = some (l, b) →
              shows = [.showFrame (rowByte a) (s.hub.screens[n].present + 1) (setScreens [n]),
                .showFrame (rowByte b) (s.hub.screens[m].present + 1) (setScreens [m])])

/-- R74, R75, R76, R100, R131: SHOWN with the awaited number ends the cycle, another number is a stray, and outside
Presenting the present number is a stray and any other a protocol fault; the show timer repeats SHOW twice, then the
screen is Lost, the failure run judged first (R104); in the loss wait it ends the cycle. R104, R75, R79, R101, R120,
R187: what becoming Lost does: the abort, the lost poll timer, the buffers, and the LOST notice with its reason, the
link and, for an unanswered SHOW, the awaited number; every SHOW, LEVEL and POLL for the screen's own address leaves
the control queue, a packet on the line starts no timer of the screen, and the buffers that are freed leave the tile
queues. -/
def Obligations.ShownAndShowTimer : Prop :=
  (∀ (s : State) (n : Fin 8) (x : Screen) (l : Fin 6) (a : Fin 2) (number : Half), x = s.hub.screens[n] →
    x.state = .joined → receiverOpen s.hub.links[l] = true → s.hub.links[l].rows[a].assignment = .screen n →
    (x.engine.cycle = some .presenting → number = x.present + 1 →
      ∃ h, h = leaveRunning n ((touchSilence l (rowByte a) s.hub).modScreen n fun y =>
          { y with
            present := y.present + 1, failures := 0, entries := y.entries.map fun e => { e with target := none },
            engine := { y.engine with cycle := some .idle, showCount := 0, showTimer := none, lossWait := false } }) ∧
        Completes (.shown l (rowByte a) number) s (if x.engine.promptStart then startCycle n h else h)) ∧
    (x.engine.cycle = some .presenting ∧ number ≠ x.present + 1 ∨
        x.engine.cycle ≠ some .presenting ∧ number = x.present →
      Completes (.shown l (rowByte a) number) s
        ((touchSilence l (rowByte a) s.hub).modLink l fun k => { k with strays := k.strays + 1 })) ∧
    (x.engine.cycle ≠ some .presenting → number ≠ x.present →
      Completes (.shown l (rowByte a) number) s
        (protocolFault l (rowByte a) .shown (touchSilence l (rowByte a) s.hub)))) ∧
    (∀ (s : State) (n : Fin 8) (x : Screen), x = s.hub.screens[n] → x.state = .joined →
      x.engine.cycle = some .presenting → x.engine.showTimer = some 0 →
      (x.engine.lossWait = true →
        ∃ h, h = leaveRunning n (s.hub.modEngine n fun e =>
            { e with cycle := some .idle, showCount := 0, showTimer := none, lossWait := false }) ∧
          Completes (.showTimerExpiry n) s (if x.engine.promptStart then startCycle n h else h)) ∧
      (∀ l a, x.engine.lossWait = false → x.failures < 7 → x.engine.showCount < 3 → addressOf s.hub n = some (l, a) →
        Completes (.showTimerExpiry n) s
          ((s.hub.modLink l fun k =>
              { k with control := k.control ++ [.showFrame (rowByte a) (x.present + 1) (setScreens [n])] }).modScreen n
            fun y =>
              { y with
                failures := y.failures + 1
                engine := { y.engine with showTimer := none, showCount := y.engine.showCount + 1 } })) ∧
      (x.engine.lossWait = false → 7 ≤ x.failures ∨ 3 ≤ x.engine.showCount →
        ∃ h, Completes (.showTimerExpiry n) s h ∧ h.screens[n].state = .lost ∧ h.screens[n].engine.cycle = none ∧
          (∀ e ∈ h.screens[n].entries, e = Entry.absent) ∧ h.screens[n].engine.showCount = 0 ∧
          h.screens[n].present = x.present ∧ h.screens[n].layout = x.layout ∧
          (7 ≤ x.failures →
            h = becomeLost n .failures (s.hub.modScreen n fun y =>
              { y with failures := 8, engine := { y.engine with showTimer := none } })) ∧
          (x.failures < 7 →
            h = becomeLost n .showUnanswered (s.hub.modScreen n fun y =>
              { y with failures := y.failures + 1, engine := { y.engine with showTimer := none } })))) ∧
    (∀ (h k : Hub) (n : Fin 8) (x : Screen) (r : LostReason), x = h.screens[n] → k = becomeLost n r h →
      k.screens[n] =
        { x with
          state := .lost, entries := x.entries.map fun _ => Entry.absent
          engine :=
            { x.engine with
              cycle := none, showCount := 0, showTimer := none, lossWait := false, promptStart := false,
              joinedSurfaces := Vector.replicate 2 false, joinedPlates := Vector.replicate 16 false } } ∧
      (∀ m : Fin 8, m ≠ n → k.screens[m] = h.screens[m]) ∧
      (∀ g : Fin 4, k.groups[g] = { h.groups[g] with running := h.groups[g].running.set n false }) ∧
      k.slots = (leaveSources n h).slots ∧ k.plates = (leaveSources n h).plates ∧
      (k = { h with
        slots := k.slots, plates := k.plates, screens := k.screens, groups := k.groups, buffers := k.buffers,
        links := k.links, portA := k.portA, portB := k.portB }) ∧
      (∀ l : Fin 6, k.links[l] =
        { h.links[l] with
          control := k.links[l].control, line := k.links[l].line, rows := k.links[l].rows, tiles := k.links[l].tiles,
          sentOrder := k.links[l].sentOrder }) ∧
      (∀ (b : Fin 32) (y : Lend), h.buffers[b] = some y →
        k.buffers[b] =
          if y.screen = n then
            if y.phase = .queued ∧ y.inTransmission = false then none else some { y with voided := true }
          else some y) ∧
      (∀ (l : Fin 6) (a : Fin 2) (w : AddressRow), addressOf h n = some (l, a) → w = h.links[l].rows[a] →
        k.links[l].rows[a] =
            { w with silence := none, pollWait := none, pollAwaited := false, lostPoll := some 100 } ∧
          k.links[l].rows[other a] = h.links[l].rows[other a]) ∧
      (∀ (l : Fin 6) (a : Fin 2) (disarm : Packet → Packet), addressOf h n = some (l, a) →
        (∀ q, disarm q = match q with
          | .showFrame address number screens => .showFrame address number (screens.set n false)
          | .poll row keepAlive => .poll row (keepAlive && row != a)
          | q => q) →
        k.links[l].control =
            (h.links[l].control.filter fun q => match q with
              | .showFrame address _ _ => address != rowByte a
              | .level row _ => row != a
              | .poll row _ => row != a
              | _ => true).map disarm ∧
          k.links[l].line = h.links[l].line.map fun o => { o with packet := disarm o.packet }) ∧
      (∀ m : Fin 6, (∀ a, addressOf h n ≠ some (m, a)) →
        k.links[m].control = h.links[m].control ∧ k.links[m].line = h.links[m].line ∧
          k.links[m].rows = h.links[m].rows) ∧
      (∀ (m : Fin 6) (kept : Fin 32 → Bool),
        (∀ b, kept b = match h.buffers[b] with
          | some y => !(y.screen == n && y.phase == .queued && !y.inTransmission)
          | none => true) →
        k.links[m].tiles = h.links[m].tiles.filter kept ∧ k.links[m].sentOrder = h.links[m].sentOrder.filter kept) ∧
      ∀ (p : Port) (l : Fin 6), x.link = some l →
        k.port p =
          if x.owner = some p ∨ x.owner = none then
            (h.port p).offer .lost
              ([byteOfFin n, r.code, byteOfFin l] ++
                if r = .showUnanswered then 1 :: be16 (x.present + 1) else [0, 0, 0])
          else h.port p) ∧
    [LostReason.missing, .failures, .showUnanswered].map LostReason.code = [0, 1, 2]

/-- R56, R72, R76, R131: LOSS from a Joined screen, by cycle state; from a screen in another state it is a protocol
fault. R72: from Ready the screen joins the Newest slots and live copies of this event and records their numbers. -/
def Obligations.LossByCycleState : Prop :=
  ∀ (s : State) (n : Fin 8) (x : Screen) (l : Fin 6) (a : Fin 2) (h : Hub), x = s.hub.screens[n] →
    receiverOpen s.hub.links[l] = true → s.hub.links[l].rows[a].assignment = .screen n →
    h = touchSilence l (rowByte a) s.hub →
    (x.state = .joined →
      (x.engine.cycle = some .idle →
        Completes (.loss l (rowByte a)) s
          (h.modScreen n fun y => { y with entries := y.entries.map fun _ => Entry.absent })) ∧
      (x.engine.cycle = some .gathering →
        Completes (.loss l (rowByte a)) s
          (h.modScreen n fun y =>
            { y with
              entries := y.entries.map fun e =>
                if e.state = .sending then e else { e with state := .behind, held := none } })) ∧
      (x.engine.cycle = some .cutting →
        Completes (.loss l (rowByte a)) s
          (h.modScreen n fun y =>
            { y with
              entries := y.entries.map fun e =>
                if e.state = .sending then e else { e with state := .absent, held := none } })) ∧
      (x.engine.cycle = some .ready →
        ∃ k, Completes (.loss l (rowByte a)) s k ∧ k.screens[n].engine.cycle = some .gathering ∧
          k.screens[n].entries.length = x.entries.length ∧
          (∀ t < x.entries.length,
            k.screens[n].entries[t]? = some { state := .behind, held := none, target := some (targetOf s.hub x t) }) ∧
          (k = { h with screens := k.screens, slots := k.slots, plates := k.plates }) ∧
          (∀ m : Fin 8, m ≠ n → k.screens[m] = s.hub.screens[m]) ∧
          (k.screens[n] =
            { x with
              entries := k.screens[n].entries, lastFrames := k.screens[n].lastFrames
              lastVersions := k.screens[n].lastVersions
              engine :=
                { x.engine with
                  cycle := some .gathering, joinedSurfaces := k.screens[n].engine.joinedSurfaces
                  joinedPlates := k.screens[n].engine.joinedPlates } }) ∧
          (∀ i : Fin 2,
            (k.screens[n].lastFrames[i] =
              if x.layout.names (.surface i) then (newestSlot s.hub i).bind fun j => s.hub.slots[i][j].number
              else none) ∧
            k.screens[n].engine.joinedSurfaces[i] =
              (x.layout.names (.surface i) && (newestSlot s.hub i).isSome)) ∧
          (∀ p : Fin 16,
            (k.screens[n].lastVersions[p] =
              if x.layout.names (.plate p) ∧ s.hub.plates[p].live ≠ none then some s.hub.plates[p].version else none) ∧
            k.screens[n].engine.joinedPlates[p] = (x.layout.names (.plate p) && s.hub.plates[p].live.isSome)) ∧
          (∀ (i : Fin 2) (j : Fin 3), k.slots[i][j] =
            if x.layout.names (.surface i) ∧ newestSlot s.hub i = some j then
              { s.hub.slots[i][j] with readers := s.hub.slots[i][j].readers.set n true }
            else s.hub.slots[i][j]) ∧
          (∀ p : Fin 16, k.plates[p] = { s.hub.plates[p] with copies := k.plates[p].copies }) ∧
          ∀ (p : Fin 16) (c : Fin 2), k.plates[p].copies[c] =
            if x.layout.names (.plate p) ∧ s.hub.plates[p].live = some c then
              { s.hub.plates[p].copies[c] with readers := s.hub.plates[p].copies[c].readers.set n true }
            else s.hub.plates[p].copies[c]) ∧
      (x.engine.cycle = some .presenting →
        Completes (.loss l (rowByte a)) s
          (h.modScreen n fun y =>
            { y with
              entries := y.entries.map fun _ => Entry.absent, engine := { y.engine with lossWait := true } }))) ∧
    (x.state ≠ .joined → Completes (.loss l (rowByte a)) s (protocolFault l (rowByte a) .loss h))

/-! ### Buffers and delivery -/

/-- R91, R92, R52, R93: a grant lends the lowest-numbered Free buffer to the next asking link for the lowest-indexed
Behind entry of its eligible screen, makes that entry Sending and copies the tile's source as it stands; no other entry
and no other byte of the DRAM changes. With no Free buffer or no asking link nothing happens. R90: a screen is eligible
while it is Joined and Gathering with an entry Behind and credit left; a link asks while it is Up, holds fewer than 16
buffers and has an eligible screen. R91: the next asking link in cyclic order after the last-served one. -/
def Obligations.BufferGrant : Prop :=
  (∀ h : Hub,
    (∀ b, lowestFreeBuffer h = some b ↔ h.buffers[b] = none ∧ ∀ c < b, h.buffers[c] ≠ none) ∧
    (lowestFreeBuffer h = none ↔ ∀ b : Fin 32, h.buffers[b] ≠ none) ∧
    (∀ (l : Fin 6) (a : Fin 2) (n : Fin 8),
      eligibleScreen h l a = some n ↔
        h.links[l].rows[a].assignment = .screen n ∧ h.screens[n].state = .joined ∧
          h.screens[n].engine.cycle = some .gathering ∧ (∃ e ∈ h.screens[n].entries, e.state = .behind) ∧
          ∃ credit, h.links[l].rows[a].credit = some credit ∧
            (allBuffers.filter fun b =>
              match h.buffers[b] with
              | some x => x.link == l && x.row == a
              | none => false).length < credit) ∧
    (∀ l : Fin 6,
      asks h l = true ↔
        h.links[l].state = .up ∧
          (allBuffers.filter fun b =>
            match h.buffers[b] with
            | some x => x.link == l
            | none => false).length < 16 ∧
          ∃ a n, eligibleScreen h l a = some n) ∧
    (∀ l : Fin 6,
      nextAsking h = some l ↔
        asks h l = true ∧ ∃ d, 1 ≤ d ∧ d ≤ 6 ∧ l.val = (h.lastServed.val + d) % 6 ∧
          ∀ (e : Nat) (m : Fin 6), 1 ≤ e → e < d → m.val = (h.lastServed.val + e) % 6 → asks h m = false) ∧
    (nextAsking h = none ↔ ∀ l : Fin 6, asks h l = false)) ∧
  (∀ (s : State) (b : Fin 32) (l : Fin 6) (a : Fin 2) (n : Fin 8) (t : Nat) (e : Entry) (g : Target),
    s.hub.dram.wf = true → lowestFreeBuffer s.hub = some b → nextAsking s.hub = some l →
    a = (if (eligibleScreen s.hub l s.hub.links[l].nextRow).isSome then s.hub.links[l].nextRow
      else other s.hub.links[l].nextRow) →
    eligibleScreen s.hub l a = some n → s.hub.screens[n].entries[t]? = some e → e.state = .behind →
    (∀ u < t, (s.hub.screens[n].entries[u]?).map (·.state) ≠ some .behind) → e.target = some g →
    ∃ h, h = grantTo b l s.hub ∧ Completes .bufferGrant s h ∧
      h.buffers = s.hub.buffers.set b (some
        { phase := .loading, voided := false, link := l, row := a, screen := n, tile := t, source := g.source,
          signature := g.signature, inTransmission := false, replyTimer := none }) ∧
      h.lastServed = l ∧ h.links[l] = { s.hub.links[l] with nextRow := other a } ∧
      h.screens[n] = { s.hub.screens[n] with entries := s.hub.screens[n].entries.set t { e with state := .sending } } ∧
      (∀ j < 4800, h.dram.read (Config.bufferBase b.val + j) =
        match g.source with
        | .surface i k u => s.hub.dram.read (Config.slotBase i.val k.val + u * 4800 + j)
        | .plate p c u => s.hub.dram.read (Config.copyBase p.val c.val + u * 4800 + j)
        | .background => (fillTile (s.hub.screens[n].fill.getD default)).getD j 0) ∧
      (∀ x, x < Config.bufferBase b.val ∨ Config.bufferBase b.val + 4800 ≤ x → h.dram.read x = s.hub.dram.read x) ∧
      (∀ m : Fin 8, m ≠ n → h.screens[m] = s.hub.screens[m]) ∧ (∀ m : Fin 6, m ≠ l → h.links[m] = s.hub.links[m]) ∧
      (h = { s.hub with
        buffers := h.buffers, lastServed := h.lastServed, links := h.links, screens := h.screens, dram := h.dram })) ∧
    ∀ s : State, (lowestFreeBuffer s.hub = none ∨ nextAsking s.hub = none) → Completes .bufferGrant s s.hub

/-- R93, R101, R95, R73, R114, R119, R111: load end queues a buffer, or frees a voided one; the end of a packet frees
the line, and a TILE's makes its buffer Sent with its reply timer, a SHOW's starts the show timers it is for, a ROLL's
the roll wait, a keep-alive POLL's the poll wait; a packet finished after a disable has no effect, a PARK among them.
An end of a packet that is not on the line, as of one that a reset cut off, and a load end of a buffer that is not
Loading, change nothing (log 1, DEDUCED). A SHOW's end starts only the timer of a screen that is
Presenting and awaits its number (log 19, DEDUCED). -/
def Obligations.Transmissions : Prop :=
  (∀ (s : State) (b : Fin 32), (∀ x, s.hub.buffers[b] = some x → x.phase ≠ .loading) →
    Completes (.loadEnd b) s s.hub) ∧
  (∀ (s : State) (b : Fin 32) (x : Lend), s.hub.buffers[b] = some x → x.phase = .loading →
    (x.voided = false →
      Completes (.loadEnd b) s
        { s.hub with
          buffers := s.hub.buffers.set b (some { x with phase := .queued })
          links := upd s.hub.links x.link fun k => { k with tiles := k.tiles ++ [b] } }) ∧
    (x.voided = true →
      Completes (.loadEnd b) s
        { s.hub with
          buffers := s.hub.buffers.set b none
          links := s.hub.links.map fun (k : Link) =>
            { k with tiles := k.tiles.filter (· != b), sentOrder := k.sentOrder.filter (· != b) } })) ∧
    (∀ (s : State) (l : Fin 6) (sent : Packet → Prop),
      (∀ k, sent k ↔ ∃ o, s.hub.links[l].line = some o ∧ o.packet = k) →
      ((∀ b a t sig px, ¬sent (.tile b a t sig px)) → Completes (.tileTransmitted l) s s.hub) ∧
      ((∀ address number screens, ¬sent (.showFrame address number screens)) →
        Completes (.showTransmitted l) s s.hub) ∧
      ((∀ a, ¬sent (.roll a)) → Completes (.rollTransmitted l) s s.hub) ∧
      ((∀ a keepAlive, ¬sent (.poll a keepAlive)) → Completes (.pollTransmitted l) s s.hub) ∧
      (¬sent .park → Completes (.parkTransmitted l) s s.hub) ∧
      ((∀ a v, ¬sent (.level a v)) → (∀ a c, ¬sent (.blank a c)) →
        Completes (.levelOrBlankTransmitted l) s s.hub)) ∧
    ∀ (s : State) (l : Fin 6) (o : OnLine) (h : Hub), s.hub.links[l].line = some o →
      h = (s.hub.modLink l fun k => { k with line := none }) →
      (∀ b a t sig px, o.packet = .tile b a t sig px →
        (o.dead = true → Completes (.tileTransmitted l) s h) ∧
        (∀ x, o.dead = false → s.hub.buffers[b] = some x →
          Completes (.tileTransmitted l) s
            { s.hub with
              buffers := s.hub.buffers.set b (some
                { x with phase := .sent, inTransmission := false, replyTimer := some 4 })
              links := upd s.hub.links l fun k => { k with line := none, sentOrder := k.sentOrder ++ [b] } })) ∧
      (∀ address number screens, o.packet = .showFrame address number screens →
        (o.dead = true → Completes (.showTransmitted l) s h) ∧
        (o.dead = false →
          ∃ k, Completes (.showTransmitted l) s k ∧ k = { h with screens := k.screens } ∧
            ∀ n : Fin 8, k.screens[n] =
              if screens[n] = true ∧ h.screens[n].engine.cycle = some .presenting ∧
                  number = h.screens[n].present + 1 then
                { h.screens[n] with engine := { h.screens[n].engine with showTimer := some 100 } }
              else h.screens[n])) ∧
      (∀ a, o.packet = .roll a →
        (o.dead = true → Completes (.rollTransmitted l) s h) ∧
        (o.dead = false →
          Completes (.rollTransmitted l) s (h.modLink l fun k => { k with rollWait := some 2, offered := some a }))) ∧
      (∀ a keepAlive, o.packet = .poll a keepAlive →
        (o.dead = false → keepAlive = true → s.hub.links[l].rows[a].pollAwaited = true →
          Completes (.pollTransmitted l) s (h.modRow l a fun r => { r with pollWait := some 2 })) ∧
        ((o.dead = true ∨ keepAlive = false ∨ s.hub.links[l].rows[a].pollAwaited = false) →
          Completes (.pollTransmitted l) s h)) ∧
      (o.packet = .park → o.dead = true → Completes (.parkTransmitted l) s h) ∧
      ((∃ a v, o.packet = .level a v) ∨ (∃ a c, o.packet = .blank a c) →
        Completes (.levelOrBlankTransmitted l) s h)

/-- R96 to R100, R53 to R55, R103, R104, R105: a TAKEN or REFUSED that matches a Sent buffer, and the expiry of a reply
timer, free the buffer and act on the entry of a buffer that is not voided; the failure run falls to 0 or rises, and at
8 the screen is Lost; an unmatched reply is a stray. The failure run rises before the check failure of a REFUSED with
reason check is counted (log 9, DEDUCED). R96, R132: a reply from a stranger that matches a voided buffer frees it too;
a REFUSED of another reason from it is dropped and counted (log 30, DEDUCED). R96: a reply is matched to the Sent
buffer of its address and tile index that was transmitted first. -/
def Obligations.RepliesAndReplyTimer : Prop :=
  (∀ (h : Hub) (l : Fin 6) (a : Fin 2) (t : Nat) (fits : Fin 32 → Prop),
    (∀ b, fits b ↔ ∃ x, h.buffers[b] = some x ∧ x.phase = .sent ∧ x.link = l ∧ x.row = a ∧ x.tile = t) →
    (∀ b, matchSent h l a t = some b ↔
      fits b ∧ ∃ before after, h.links[l].sentOrder = before ++ b :: after ∧ ∀ c ∈ before, ¬fits c) ∧
    (matchSent h l a t = none ↔ ∀ b ∈ h.links[l].sentOrder, ¬fits b)) ∧
  (∀ (s : State) (l : Fin 6) (a : Fin 2) (m : Fin 8) (tile : Half) (h : Hub), receiverOpen s.hub.links[l] = true →
    s.hub.links[l].rows[a].assignment = .screen m → h = touchSilence l (rowByte a) s.hub →
    (matchSent s.hub l a tile.toNat = none →
      (∀ sig, Completes (.taken l (rowByte a) tile sig) s (h.modLink l fun k => { k with strays := k.strays + 1 })) ∧
      Completes (.refused l (rowByte a) tile 0) s
        (checkFailure l (h.modLink l fun k => { k with strays := k.strays + 1 })) ∧
      ∀ reason : Byte, reason = 1 ∨ reason = 2 →
        Completes (.refused l (rowByte a) tile reason) s (h.modLink l fun k => { k with strays := k.strays + 1 })) ∧
    (∀ reason : Byte, 3 ≤ reason.toNat →
      Completes (.refused l (rowByte a) tile reason) s (protocolFault l (rowByte a) .reason h)) ∧
    ∀ b x, matchSent s.hub l a tile.toNat = some b → s.hub.buffers[b] = some x →
      (x.voided = true →
        (∀ sig, Completes (.taken l (rowByte a) tile sig) s (freeBuffer b h)) ∧
        Completes (.refused l (rowByte a) tile 0) s (checkFailure l (freeBuffer b h)) ∧
        Completes (.refused l (rowByte a) tile 1) s (freeBuffer b h) ∧
        Completes (.refused l (rowByte a) tile 2) s (freeBuffer b h)) ∧
      (x.voided = false →
        Completes (.taken l (rowByte a) tile x.signature) s
          ((freeBuffer b h).modScreen x.screen fun y =>
            { y with
              failures := if y.state = .joined then 0 else y.failures
              entries := y.entries.modify x.tile fun e =>
                { e with
                  state := if e.target.map (·.signature) = some x.signature then .held else .behind
                  held := some x.signature } }) ∧
        (∀ sig, sig ≠ x.signature →
          Completes (.taken l (rowByte a) tile sig) s
            (failureRise x.screen ((freeBuffer b h).modScreen x.screen fun y =>
              { y with entries := y.entries.modify x.tile fun e => { e with state := .behind, held := none } }))) ∧
        Completes (.refused l (rowByte a) tile 0) s
          (checkFailure l (failureRise x.screen ((freeBuffer b h).modScreen x.screen fun y =>
            { y with entries := y.entries.modify x.tile fun e => { e with state := .behind } }))) ∧
        Completes (.refused l (rowByte a) tile 1) s
          ((freeBuffer b h).modScreen x.screen fun y =>
            { y with entries := y.entries.modify x.tile fun e => { e with state := .behind } }) ∧
        Completes (.refused l (rowByte a) tile 2) s
          ((freeBuffer b h).modScreen x.screen fun y =>
            { y with entries := y.entries.modify x.tile fun e => { e with state := .behind, held := none } }))) ∧
    (∀ (s : State) (l : Fin 6) (a : Fin 2) (identity : Identity) (tile : Half) (b : Fin 32) (x : Lend),
      receiverOpen s.hub.links[l] = true → s.hub.links[l].rows[a].assignment = .stranger identity →
      matchSent s.hub l a tile.toNat = some b → s.hub.buffers[b] = some x → x.voided = true →
      (∀ sig, Completes (.taken l (rowByte a) tile sig) s (freeBuffer b s.hub)) ∧
      Completes (.refused l (rowByte a) tile 0) s (checkFailure l (freeBuffer b s.hub)) ∧
      Completes (.refused l (rowByte a) tile 1) s (freeBuffer b s.hub) ∧
      Completes (.refused l (rowByte a) tile 2) s (freeBuffer b s.hub) ∧
      ∀ reason : Byte, 3 ≤ reason.toNat →
        Completes (.refused l (rowByte a) tile reason) s
          (s.hub.modLink l fun k => { k with strangerPackets := k.strangerPackets + 1 })) ∧
    (∀ (s : State) (b : Fin 32) (x : Lend), s.hub.buffers[b] = some x → x.phase = .sent → x.replyTimer = some 0 →
      (x.voided = true → Completes (.replyTimerExpiry b) s (freeBuffer b s.hub)) ∧
      (x.voided = false →
        Completes (.replyTimerExpiry b) s
          (failureRise x.screen ((freeBuffer b s.hub).modScreen x.screen fun y =>
            { y with entries := y.entries.modify x.tile fun e => { e with state := .behind, held := none } })))) ∧
    ∀ (h : Hub) (n : Fin 8) (b : Fin 32),
      (h.screens[n].state ≠ .joined → failureRise n h = h) ∧
      (h.screens[n].state = .joined → h.screens[n].failures < 7 →
        failureRise n h = h.modScreen n fun y => { y with failures := y.failures + 1 }) ∧
      (h.screens[n].state = .joined → 7 ≤ h.screens[n].failures →
        (failureRise n h).screens[n].state = .lost ∧ (failureRise n h).screens[n].engine.cycle = none ∧
          failureRise n h = becomeLost n .failures (h.modScreen n fun y => { y with failures := 8 })) ∧
      freeBuffer b h =
        { h with
          buffers := h.buffers.set b none
          links := h.links.map fun (k : Link) =>
            { k with tiles := k.tiles.filter (· != b), sentOrder := k.sentOrder.filter (· != b) } }

/-! ### Links, levels and light -/

/-- R110, R111, R125: LINK-SET with enable 1 sets cap, wake mode, auto-wake and warm-up; an Off link enters the hold,
with the hold timer started and everything that a reset clears cleared (the rate kept for a loss of lock taken second
is MODEL's field, log 25); a Parked link on which it selects level mode with the line asserted takes a wake. With
enable 0 it disables. -/
def Obligations.LinkSet : Prop :=
  ∀ (s : State) (p : Port) (tag link cap wakeMode autoWake warmUp : Byte) (l : Fin 6), handlesAtOnce p s.hub = true →
    link.toNat ≤ 5 → l = linkOf link →
    (cap.toNat ≤ 2 → wakeMode.toNat ≤ 1 → autoWake.toNat ≤ 1 → warmUp.toNat ≤ 3 →
      ∃ h k, Completes (.linkSetEnable p tag link cap wakeMode autoWake warmUp) s
          (reply p 0x40 tag .done [byteOfFin l, h.links[l].state.code] h) ∧
        k = (s.hub.hunting p).modLink l (fun x =>
          { x with
            configuredCap := linkRateOf cap, currentCap := linkRateOf cap, wakeMode := wakeModeOf wakeMode,
            autoWake := autoWake == 1, warmUp := warmUpOf warmUp }) ∧
        (s.hub.links[l].state = .off →
          h = k.modLink l fun x =>
            { x with
              enabled := true, state := .training .hold, hold := some 1, rate := none, parkPending := false,
              checkFailures := 0, nextRow := 0, attempt := none, retry := none, warm := none, rollWait := none,
              offered := none, rows := Vector.replicate 2 AddressRow.reset, control := [], tiles := [],
              sentOrder := [], line := none, cutRate := x.rate }) ∧
        (s.hub.links[l].state = .parked → s.hub.links[l].wakeMode = .edge → wakeMode = 1 →
          s.hub.links[l].wakeLine = true → h = takeWake l k) ∧
        (s.hub.links[l].state ≠ .off →
          (s.hub.links[l].state ≠ .parked ∨ s.hub.links[l].wakeMode = .level ∨ wakeMode = 0 ∨
            s.hub.links[l].wakeLine = false) → h = k)) ∧
    (s.hub.links[l].state = .off →
      Completes (.linkSetDisable p tag link cap wakeMode autoWake warmUp) s
        (reply p 0x40 tag .done [byteOfFin l, 0] (s.hub.hunting p))) ∧
    (s.hub.links[l].state ≠ .off →
      Completes (.linkSetDisable p tag link cap wakeMode autoWake warmUp) s
        (reply p 0x40 tag .done [byteOfFin l, 0] (disableLink l (s.hub.hunting p))))

/-- R126, R127: LINK-RESET and LINK-WAKE by link state. R123, R124: LINK-PARK is refused in the order of R123, and else
sets the park pending flag and hands PARK on. R123, R175: a NotOwner refusal names the lowest-numbered Joined screen on
the link that the port does not own. In Waking LINK-RESET starts the warm-up timer with the link's present warm-up time
(MODEL's choice, log 32). -/
def Obligations.LinkRequests : Prop :=
  (∀ (h : Hub) (p : Port) (l : Fin 6) (foreign : Fin 8 → Prop),
    (∀ n, foreign n ↔ h.screens[n].link = some l ∧ h.screens[n].state = .joined ∧ h.screens[n].owner ≠ some p) →
    (∀ n, foreignJoined p h l = some n ↔ foreign n ∧ ∀ m < n, ¬foreign m) ∧
      (foreignJoined p h l = none ↔ ∀ n, ¬foreign n)) ∧
  (∀ (s : State) (p : Port) (tag link : Byte) (l : Fin 6), handlesAtOnce p s.hub = true → link.toNat ≤ 5 →
    l = linkOf link →
    (s.hub.links[l].state = .off →
      Completes (.linkReset p tag link) s (reply p 0x41 tag .wrongState [byteOfFin l, 0] (s.hub.hunting p))) ∧
    (s.hub.links[l].state = .parked →
      Completes (.linkReset p tag link) s
        (reply p 0x41 tag .done [byteOfFin l, 5]
          ((s.hub.hunting p).modLink l fun x =>
            { x with currentCap := x.configuredCap, state := .waking, rate := none, warm := some x.warmUp.ticks })) ∧
      Completes (.linkWake p tag link) s
        (reply p 0x43 tag .done [byteOfFin l, 5]
          ((s.hub.hunting p).modLink l fun x =>
            { x with state := .waking, rate := none, warm := some x.warmUp.ticks }))) ∧
    (s.hub.links[l].state = .waking →
      Completes (.linkReset p tag link) s
        (reply p 0x41 tag .done [byteOfFin l, 5]
          ((s.hub.hunting p).modLink l fun x =>
            { x with currentCap := x.configuredCap, warm := some x.warmUp.ticks }))) ∧
    (s.hub.links[l].state ≠ .off → s.hub.links[l].state ≠ .parked → s.hub.links[l].state ≠ .waking →
      Completes (.linkReset p tag link) s
        (reply p 0x41 tag .done [byteOfFin l, 1]
          (resetLink l s.hub.links[l].configuredCap (s.hub.hunting p)))) ∧
    (s.hub.links[l].state ≠ .parked →
      Completes (.linkWake p tag link) s
        (reply p 0x43 tag .wrongState [byteOfFin l, s.hub.links[l].state.code] (s.hub.hunting p)))) ∧
  ∀ (s : State) (p : Port) (tag link : Byte) (l : Fin 6), handlesAtOnce p s.hub = true → link.toNat ≤ 5 →
    l = linkOf link →
    (s.hub.links[l].state ≠ .up ∨ s.hub.links[l].parkPending = true →
      Completes (.linkPark p tag link) s
        (reply p 0x42 tag .wrongState [byteOfFin l, s.hub.links[l].state.code] (s.hub.hunting p))) ∧
    (s.hub.links[l].state = .up → s.hub.links[l].parkPending = false →
      (∀ n, foreignJoined p s.hub l = some n →
        Completes (.linkPark p tag link) s
          (reply p 0x42 tag .notOwner [byteOfFin n, portCode s.hub.screens[n].owner] (s.hub.hunting p))) ∧
      (foreignJoined p s.hub l = none →
        (s.hub.links[l].wakeMode = .level → s.hub.links[l].wakeLine = true →
          Completes (.linkPark p tag link) s (reply p 0x42 tag .wrongState [byteOfFin l, 3] (s.hub.hunting p))) ∧
        ((s.hub.links[l].wakeMode = .edge ∨ s.hub.links[l].wakeLine = false) →
          Completes (.linkPark p tag link) s
            (reply p 0x42 tag .done [byteOfFin l]
              ((s.hub.hunting p).modLink l fun x =>
                { x with parkPending := true, control := x.control ++ [.park] })))))

/-- R150, R157: LEVEL-SET by the owner sets mode, step, light input and curve, and the target: the curve's level for
the reading in Ambient mode with a reading, the given one else; CURVE-SET replaces ascending points and is refused
else. R156: below the first point and from the last on the end level; at a point its level; between two points a level
between theirs, the quotient truncated toward zero. -/
def Obligations.LevelsAndCurves : Prop :=
  (∀ points : List CurvePoint,
    (firstNotAscending points = none ↔
      ∀ k a b, points[k]? = some a → points[k + 1]? = some b → a.reading.toNat < b.reading.toNat) ∧
    ∀ k, firstNotAscending points = some k ↔
      (∃ a b, 1 ≤ k ∧ points[k - 1]? = some a ∧ points[k]? = some b ∧ b.reading.toNat ≤ a.reading.toNat) ∧
        ∀ m a b, m + 1 < k → points[m]? = some a → points[m + 1]? = some b → a.reading.toNat < b.reading.toNat) ∧
  (∀ (s : State) (p : Port) (tag : Byte), handlesAtOnce p s.hub = true →
    (∀ (screen mode target step input curve : Byte) (n : Fin 8) (t : Byte), screen.toNat ≤ 7 → mode.toNat ≤ 1 →
      input.toNat ≤ 1 → curve.toNat ≤ 3 → n = screenOf screen → s.hub.screens[n].bound = true →
      s.hub.screens[n].owner = some p →
      (mode = 0 → t = target) →
      (mode = 1 → s.hub.lights[inputOf input].reading = none → t = target) →
      (∀ r, mode = 1 → s.hub.lights[inputOf input].reading = some r →
        t = curveLevel s.hub.curves[curveIndexOf curve] r) →
      Completes (.levelSet p tag screen mode target step input curve) s
        (reply p 0x50 tag .done [byteOfFin n, mode, t, s.hub.screens[n].level.current]
          ((s.hub.hunting p).modLevel n fun v =>
            { v with
              mode := levelModeOf mode, target := t, step := step, input := inputOf input,
              curve := curveIndexOf curve }))) ∧
    (∀ (curve : Byte) (points : List RawPoint), curve.toNat ≤ 3 → points.length = 8 → badPoint points = none →
      (firstNotAscending (points.map RawPoint.point) = none →
        Completes (.curveSet p tag curve points) s
          (reply p 0x51 tag .done [byteOfFin (curveIndexOf curve)]
            { s.hub.hunting p with
              curves := s.hub.curves.set (curveIndexOf curve) (curveOf (points.map RawPoint.point)) })) ∧
      (∀ k, firstNotAscending (points.map RawPoint.point) = some k →
        Completes (.curveSet p tag curve points) s
          (reply p 0x51 tag .badValue [0, byteOf k] (s.hub.hunting p))))) ∧
  ∀ (curve : Curve) (r : Reading),
    (∀ i j : Fin 8, i < j → curve[i].reading.toNat < curve[j].reading.toNat) →
    (r.toNat ≤ curve[(0 : Fin 8)].reading.toNat → curveLevel curve r = curve[(0 : Fin 8)].level) ∧
    (curve[(7 : Fin 8)].reading.toNat ≤ r.toNat → curveLevel curve r = curve[(7 : Fin 8)].level) ∧
    (∀ i j : Fin 8, j.val = i.val + 1 → curve[i].reading.toNat ≤ r.toNat → r.toNat < curve[j].reading.toNat →
      ((curveLevel curve r).toNat : Int) =
        curve[i].level.toNat +
          (((curve[j].level.toNat : Int) - curve[i].level.toNat) * ((r.toNat : Int) - curve[i].reading.toNat)).tdiv
            ((curve[j].reading.toNat : Int) - curve[i].reading.toNat))

/-- R151, R152, R154, R155: a due level tick moves every current level by its step toward its target, never past it,
and hands LEVEL on for the Joined screens that changed, in ascending screen number; a due conversion start makes both
inputs converting; a due conversion end stores the reading and retargets the Ambient screens of that input. Nothing
else of the part changes. A level tick that is not due changes nothing (log 1, DEDUCED). -/
def Obligations.LevelAndLight : Prop :=
  ∀ s : State,
    (s.hub.levelDue = true →
      ∃ (screens : Vector Screen 8) (links : Vector Link 6),
        Completes .levelTick s { s.hub with levelDue := false, screens := screens, links := links } ∧
        (∀ n : Fin 8, ∃ (v : Level) (current : Byte), v = s.hub.screens[n].level ∧
          screens[n] = { s.hub.screens[n] with level := { v with current := current } } ∧
          (v.step = 0 → current = v.target) ∧
          (v.step ≠ 0 → v.current.toNat ≤ v.target.toNat →
            current.toNat = min (v.current.toNat + v.step.toNat) v.target.toNat) ∧
          (v.step ≠ 0 → v.target.toNat < v.current.toNat →
            current.toNat = max (v.current.toNat - v.step.toNat) v.target.toNat)) ∧
        ∀ l : Fin 6, links[l] =
          { s.hub.links[l] with
            control := s.hub.links[l].control ++ allScreens.filterMap fun n =>
              match addressOf s.hub n with
              | some (m, a) =>
                if m = l ∧ s.hub.screens[n].state = .joined ∧
                    screens[n].level.current ≠ s.hub.screens[n].level.current then
                  some (.level a screens[n].level.current)
                else none
              | none => none }) ∧
    (s.hub.levelDue = false → Completes .levelTick s s.hub) ∧
    (s.hub.conversionDue = true →
      Completes .conversionStart s
        { s.hub with
          conversionDue := false
          lights := s.hub.lights.map fun (x : LightInput) => { x with conversion := some 2 } }) ∧
    (∀ (i : Fin 2) (r : Reading), s.hub.lights[i].conversion = some 0 →
      ∃ screens : Vector Screen 8, Completes (.conversionEnd i r) s
          { s.hub with
            lights := upd s.hub.lights i fun _ => { reading := some r, conversion := none }, screens := screens } ∧
        ∀ n : Fin 8, screens[n] =
          if s.hub.screens[n].bound ∧ s.hub.screens[n].level.mode = .ambient ∧ s.hub.screens[n].level.input = i then
            { s.hub.screens[n] with
              level := { s.hub.screens[n].level with
                target := curveLevel s.hub.curves[s.hub.screens[n].level.curve] r } }
          else s.hub.screens[n])

/-! ### Link engines -/

/-- R113, R114, R122, R127: the ends of the hold, of an attempt, of the wait in Down and of Waking; lock and the loss
of lock. R122: a loss of lock taken second, after another cause of reset, finds the link in the hold, reports the rate
at which the line was locked (kept by the MODEL, log 25) and starts the hold again; where no lock was lost nothing
happens (logs 1 and 25). R111: a disable makes the link Off and not enabled, its cap kept, and a packet on the line is
finished without effect. R112, R121: a reset from an attempt, Rolling, Up or Down makes it Training in the hold with
the cap that its cause gives. R111, R112, R102, R108: in both no buffer of the link is lent, no screen bound to it is
Joined, Lost or Parked, both queues are empty, every other timer is stopped, the address table is clear and the current
rate absent. R62, R107: its settings and counters are kept, but for the cap of a reset and the check failures; a screen
that becomes Missing keeps everything but its state, its entries and its engine, of which the pace count is kept, and
leaves its running set and reader sets (R79); other screens and the rest of the part are unchanged, but for freed
buffers in the queues of other links. -/
def Obligations.TrainingAndReset : Prop :=
  (∀ (s : State) (l : Fin 6) (k : Link), k = s.hub.links[l] →
    (k.state = .training .hold → k.hold = some 0 →
      Completes (.holdTimerExpiry l) s
        (s.hub.modLink l fun _ =>
          { k with
            state := .training (.attempt k.currentCap), hold := none, retry := none, warm := none,
            attempt := some 5, cutRate := none })) ∧
    (k.state = .down → k.retry = some 0 →
      Completes (.retryTimerExpiry l) s
        (s.hub.modLink l fun _ =>
          { k with
            state := .training (.attempt k.currentCap), hold := none, retry := none, warm := none,
            attempt := some 5, cutRate := none })) ∧
    (k.state = .waking → k.warm = some 0 →
      Completes (.warmUpTimerExpiry l) s
        (s.hub.modLink l fun _ =>
          { k with
            state := .training (.attempt k.currentCap), hold := none, retry := none, warm := none,
            attempt := some 5, cutRate := none })) ∧
    (∀ r, k.state = .training (.attempt r) → k.attempt = some 0 →
      (∀ lower, (r = .six ∧ lower = .three ∨ r = .three ∧ lower = .oneHalf) →
        Completes (.attemptTimerExpiry l) s
          (s.hub.modLink l fun _ =>
            { k with
              state := .training (.attempt lower), hold := none, retry := none, warm := none, attempt := some 5,
              cutRate := none })) ∧
      (r = .oneHalf →
        Completes (.attemptTimerExpiry l) s
          (notify (linkPorts s.hub l) .linkFault [byteOfFin l, 0, k.currentCap.code]
            (s.hub.modLink l fun _ =>
              { k with state := .down, attempt := none, retry := some 500 })))) ∧
    (∀ r,
      (k.state = .training (.attempt r) →
        Completes (.lock l r) s
          (s.hub.modLink l fun _ =>
            { k with
              state := .rolling, attempt := none, rate := some r, rollWait := none, offered := none,
              rows := Vector.replicate 2 AddressRow.reset, control := k.control ++ [.roll 0] })) ∧
      (k.state ≠ .training (.attempt r) → Completes (.lock l r) s s.hub)) ∧
    (∀ r, (k.state = .rolling ∨ k.state = .up) → k.rate = some r →
      Completes (.lossOfLock l) s
        ((resetLink l k.currentCap (notify (linkPorts s.hub l) .linkFault [byteOfFin l, 2, r.code] s.hub)).modLink l
          fun x => { x with cutRate := none })) ∧
    (∀ r, k.state = .training .hold → k.cutRate = some r →
      Completes (.lossOfLock l) s
        (notify (linkPorts s.hub l) .linkFault [byteOfFin l, 2, r.code]
          (s.hub.modLink l fun _ => { k with hold := some 1, cutRate := none }))) ∧
    (k.state = .training .hold ∧ k.cutRate = none ∨
        k.state ≠ .rolling ∧ k.state ≠ .up ∧ k.state ≠ .training .hold →
      Completes (.lossOfLock l) s s.hub)) ∧
  (∀ (h k : Hub) (l : Fin 6) (cap : LinkRate),
    (k = disableLink l h ∨ k = resetLink l cap h ∧
        (h.links[l].state = .up ∨ h.links[l].state = .rolling ∨ h.links[l].state = .down ∨
          ∃ r, h.links[l].state = .training (.attempt r)) →
      (∀ (b : Fin 32) (x : Lend), k.buffers[b] = some x → x.link ≠ l) ∧
        (∀ n : Fin 8, k.screens[n].link = some l → k.screens[n].bound = true → k.screens[n].state = .missing) ∧
        k.links[l].control = [] ∧ k.links[l].tiles = [] ∧ k.links[l].sentOrder = [] ∧ k.links[l].rate = none ∧
        k.links[l].checkFailures = 0 ∧ k.links[l].parkPending = false ∧ k.links[l].attempt = none ∧
        k.links[l].retry = none ∧ k.links[l].warm = none ∧ k.links[l].rollWait = none ∧
        k.links[l].offered = none ∧ (∀ a : Fin 2, k.links[l].rows[a] = AddressRow.reset) ∧
        (k = { h with
          slots := k.slots, plates := k.plates, screens := k.screens, groups := k.groups, buffers := k.buffers,
          links := k.links }) ∧
        ∀ (drops : Fin 8 → Bool) (kept : Fin 32 → Bool) (left : Hub),
          (∀ n, drops n = true ↔ h.screens[n].link = some l ∧
            (h.screens[n].state = .joined ∨ h.screens[n].state = .lost ∨ h.screens[n].state = .parked)) →
          (∀ b, kept b = match h.buffers[b] with
            | some y => y.link == l || !(drops y.screen && y.phase == .queued && !y.inTransmission)
            | none => true) →
          left = (allScreens.filter drops).foldl (fun h n => leaveSources n h) h →
          k.slots = left.slots ∧ k.plates = left.plates ∧
          (∀ n : Fin 8, k.screens[n] =
            if drops n = true then
              { h.screens[n] with
                state := .missing, entries := h.screens[n].entries.map fun _ => Entry.absent
                engine :=
                  { h.screens[n].engine with
                    cycle := none, showCount := 0, showTimer := none, lossWait := false, promptStart := false,
                    joinedSurfaces := Vector.replicate 2 false, joinedPlates := Vector.replicate 16 false } }
            else h.screens[n]) ∧
          (∀ g : Fin 4, k.groups[g] = { h.groups[g] with running := k.groups[g].running } ∧
            ∀ n : Fin 8, k.groups[g].running[n] = (h.groups[g].running[n] && !drops n)) ∧
          (∀ (b : Fin 32) (y : Lend), h.buffers[b] = some y →
            k.buffers[b] =
              if y.link = l ∨ kept b = false then none
              else if drops y.screen = true then some { y with voided := true } else some y) ∧
          ∀ m : Fin 6, m ≠ l →
            k.links[m] =
              { h.links[m] with
                tiles := h.links[m].tiles.filter kept, sentOrder := h.links[m].sentOrder.filter kept }) ∧
    (k = disableLink l h →
      ∃ line, k.links[l] =
          { h.links[l] with
            enabled := false, state := .off, rate := none, parkPending := false, checkFailures := 0, nextRow := 0,
            hold := none, attempt := none, retry := none, warm := none, rollWait := none, offered := none,
            rows := Vector.replicate 2 AddressRow.reset, control := [], tiles := [], sentOrder := [],
            cutRate := none, line := line } ∧
        (line = none ↔ h.links[l].line = none) ∧ ∀ o, line = some o → o.dead = true) ∧
    (k = resetLink l cap h →
      (h.links[l].state = .up ∨ h.links[l].state = .rolling ∨ h.links[l].state = .down ∨
        ∃ r, h.links[l].state = .training (.attempt r)) →
      k.links[l] =
        { h.links[l] with
          currentCap := cap, state := .training .hold, hold := some 1, rate := none, parkPending := false,
          checkFailures := 0, nextRow := 0, attempt := none, retry := none, warm := none, rollWait := none,
          offered := none, rows := Vector.replicate 2 AddressRow.reset, control := [], tiles := [], sentOrder := [],
          line := none, cutRate := h.links[l].rate })) ∧
  ∀ (h : Hub) (l : Fin 6) (cap : LinkRate),
    (h.links[l].state = .training .hold →
      resetLink l cap h = h.modLink l fun k => { k with currentCap := cap, hold := some 1 }) ∧
    (h.links[l].state = .off ∨ h.links[l].state = .parked ∨ h.links[l].state = .waking →
      resetLink l cap h = h.modLink l fun k => { k with currentCap := cap, checkFailures := 0 }) ∧
    (h.links[l].state = .up → (∃ n ∈ boundTo h l, h.screens[n].state = .lost) →
      (∀ n ∈ boundTo h l, h.screens[n].state ≠ .joined) →
      resetIfAllLost h l = resetLink l h.links[l].currentCap h) ∧
    ((h.links[l].state ≠ .up ∨ (∀ n ∈ boundTo h l, h.screens[n].state ≠ .lost) ∨
        ∃ n ∈ boundTo h l, h.screens[n].state = .joined) →
      resetIfAllLost h l = h)

/-- R114, R115, R117, R131: a HELLO for the offered address is matched to the Missing or Parked screen of the link that
has its identity, and joins it or admits a stranger; for address 1 the next ROLL is handed on behind, for address 2
rolling ends; out of its place it is a protocol fault. Rolling ends too at the roll wait's expiry: the link is Up, the
silence timers of its Joined screens start, and each bound screen that is Missing or Parked is reported LOST with
reason missing (R117, R187), in ascending order (MODEL's choice, log 8). -/
def Obligations.Rolling : Prop :=
  (∀ (h : Hub) (l : Fin 6) (identity : Identity) (awaited : Fin 8 → Prop),
    (∀ n, awaited n ↔ h.screens[n].link = some l ∧
      (h.screens[n].state = .missing ∨ h.screens[n].state = .parked) ∧ h.screens[n].identity = some identity) →
    (∀ n, awaitedScreen h l identity = some n ↔ awaited n ∧ ∀ m < n, ¬awaited m) ∧
      (awaitedScreen h l identity = none ↔ ∀ n, ¬awaited n)) ∧
  (∀ (h : Hub) (l : Fin 6),
    afterHello l 0 h = h.modLink l (fun k => { k with control := k.control ++ [.roll 1] }) ∧
      afterHello l 1 h = endRolling l h) ∧
  (∀ (s : State) (l : Fin 6) (a : Fin 2) (identity : Identity) (credit columns rows : Byte) (h : Hub),
    (∀ i, s.hub.links[l].rows[a].assignment ≠ .stranger i) → receiverOpen s.hub.links[l] = true →
    h = touchSilence l (rowByte a) s.hub →
    (s.hub.links[l].state = .rolling → s.hub.links[l].rollWait ≠ none → s.hub.links[l].offered = some a →
      ∃ k, k = h.modLink l (fun x => { x with rollWait := none, offered := none }) ∧
        (∀ n, awaitedScreen s.hub l identity = some n →
          s.hub.screens[n].size = some { columns := columns.toNat, rows := rows.toNat } → 1 ≤ credit.toNat →
          credit.toNat ≤ 16 →
          Completes (.hello l (rowByte a) identity credit columns rows) s (afterHello l a (joinScreen l a n credit k))) ∧
        (∀ n, awaitedScreen s.hub l identity = some n →
          s.hub.screens[n].size = some { columns := columns.toNat, rows := rows.toNat } →
          credit = 0 ∨ 16 < credit.toNat →
          Completes (.hello l (rowByte a) identity credit columns rows) s
            (afterHello l a (admitStranger l a identity .credit credit columns rows k))) ∧
        (∀ n, awaitedScreen s.hub l identity = some n →
          s.hub.screens[n].size ≠ some { columns := columns.toNat, rows := rows.toNat } →
          Completes (.hello l (rowByte a) identity credit columns rows) s
            (afterHello l a (admitStranger l a identity .size credit columns rows k))) ∧
        (awaitedScreen s.hub l identity = none →
          Completes (.hello l (rowByte a) identity credit columns rows) s
            (afterHello l a (admitStranger l a identity .unknown credit columns rows k)))) ∧
    (s.hub.links[l].state ≠ .rolling ∨ s.hub.links[l].rollWait = none ∨ s.hub.links[l].offered ≠ some a →
      Completes (.hello l (rowByte a) identity credit columns rows) s (protocolFault l (rowByte a) .hello h))) ∧
    (∀ (h : Hub) (l : Fin 6) (a : Fin 2) (n : Fin 8) (credit : Byte),
      joinScreen l a n credit h =
        notify (ownerOrBoth h.screens[n].owner) .joined [byteOfFin n, byteOfFin l, rowByte a, credit]
          { h with
            links := upd h.links l fun k =>
              { k with
                rows := upd k.rows a fun r => { r with assignment := .screen n, credit := some credit.toNat }
                control := k.control ++ [.level a h.screens[n].level.current] }
            screens := upd h.screens n fun x =>
              { x with
                state := .joined, failures := 0, entries := x.entries.map fun _ => Entry.absent,
                engine := { x.engine with cycle := some .idle } } }) ∧
    (∀ (h : Hub) (l : Fin 6) (a : Fin 2) (identity : Identity) (reason : StrangerReason) (credit columns rows : Byte),
      admitStranger l a identity reason credit columns rows h =
        notify (linkPorts h l) .stranger
          ([byteOfFin l, rowByte a] ++ be48 identity ++ [reason.code, credit, columns, rows])
          { h with
            links := upd h.links l fun k =>
              { k with
                rows := upd k.rows a fun r => { r with assignment := .stranger identity }
                control := k.control ++ [.blank a { red := 0, green := 0, blue := 0 }] } }) ∧
    (∀ (s : State) (l : Fin 6), s.hub.links[l].state = .rolling → s.hub.links[l].rollWait = some 0 →
      Completes (.rollWaitExpiry l) s (endRolling l s.hub)) ∧
    ∀ (g h : Hub) (l : Fin 6), h = endRolling l g →
      h.links[l] =
          { g.links[l] with state := .up, rollWait := none, offered := none, rows := h.links[l].rows } ∧
        (∀ n : Fin 8, h.screens[n] =
          if g.screens[n].link = some l ∧ g.screens[n].state = .parked then { g.screens[n] with state := .missing }
          else g.screens[n]) ∧
        (∀ (a : Fin 2) (n : Fin 8), g.links[l].rows[a].assignment = .screen n → g.screens[n].state = .joined →
          h.links[l].rows[a] = { g.links[l].rows[a] with silence := some 20 }) ∧
        (∀ a : Fin 2, (∀ n, g.links[l].rows[a].assignment = .screen n → g.screens[n].state ≠ .joined) →
          h.links[l].rows[a] = g.links[l].rows[a]) ∧
        (∀ m : Fin 6, m ≠ l → h.links[m] = g.links[m]) ∧
        (h = { g with links := h.links, screens := h.screens, portA := h.portA, portB := h.portB }) ∧
        ∀ p : Port, h.port p =
          allScreens.foldl (fun (x : PortState) n =>
            if g.screens[n].link = some l ∧ (g.screens[n].state = .missing ∨ g.screens[n].state = .parked) ∧
                (g.screens[n].owner = some p ∨ g.screens[n].owner = none) then
              x.offer .lost [byteOfFin n, 0, byteOfFin l, 0, 0, 0]
            else x) (g.port p)

/-- R118, R119, R120: the keep-alive POLL at the end of the silence, its STATE and the expiry of its wait, the POLLs of
a Lost screen and the STATE that returns it, a stray STATE, and a STATE of a Parked screen. A STATE that comes before
its POLL has been transmitted is a stray (MODEL's reading, log 13). A packet from a Joined screen of an Up link starts
the silence timer of its address again while no POLL is awaited. -/
def Obligations.KeepAlive : Prop :=
  (∀ (h : Hub) (l : Fin 6) (a : Fin 2) (joinedUp : Prop),
    (joinedUp ↔ h.links[l].state = .up ∧ h.links[l].rows[a].pollAwaited = false ∧
      ∃ n, h.links[l].rows[a].assignment = .screen n ∧ h.screens[n].state = .joined) →
    (joinedUp → touchSilence l (rowByte a) h = h.modRow l a fun r => { r with silence := some 20 }) ∧
      (¬joinedUp → touchSilence l (rowByte a) h = h)) ∧
  ∀ (s : State) (l : Fin 6) (a : Fin 2) (r : AddressRow), r = s.hub.links[l].rows[a] →
    (r.silence = some 0 →
      Completes (.silenceTimerExpiryLink l a) s
        (s.hub.modLink l fun k =>
          { k with
            rows := k.rows.set a { r with silence := none, pollAwaited := true }
            control := k.control ++ [.poll a true] })) ∧
    (∀ n, r.pollWait = some 0 → r.assignment = .screen n →
      Completes (.pollWaitExpiry l a) s
        (failureRise n (s.hub.modLink l fun k =>
          { k with rows := k.rows.set a { r with pollWait := none, pollAwaited := false, silence := some 20 } }))) ∧
    (r.lostPoll = some 0 →
      Completes (.lostPollTimerExpiry l a) s
        (s.hub.modLink l fun k =>
          { k with
            rows := k.rows.set a { r with lostPoll := some 100 }, control := k.control ++ [.poll a false] })) ∧
    ∀ (n : Fin 8) (credit : Byte) (h : Hub), r.assignment = .screen n → receiverOpen s.hub.links[l] = true →
      h = touchSilence l (rowByte a) s.hub →
      (s.hub.screens[n].state = .joined → r.pollWait ≠ none →
        Completes (.state l (rowByte a) credit) s
          ((h.modLink l fun k =>
              { k with
                rows := k.rows.set a { r with pollWait := none, pollAwaited := false, silence := some 20 } }).modScreen
            n fun x => { x with failures := 0 })) ∧
      (s.hub.screens[n].state = .joined → r.pollWait = none →
        Completes (.state l (rowByte a) credit) s (h.modLink l fun k => { k with strays := k.strays + 1 })) ∧
      (s.hub.screens[n].state = .lost → 1 ≤ credit.toNat → credit.toNat ≤ 16 →
        Completes (.state l (rowByte a) credit) s
          (joinScreen l a n credit (h.modLink l fun k =>
            { k with rows := k.rows.set a { r with lostPoll := none, silence := some 20 } }))) ∧
      (s.hub.screens[n].state = .lost → credit = 0 ∨ 16 < credit.toNat →
        Completes (.state l (rowByte a) credit) s (protocolFault l (rowByte a) .credit h)) ∧
      (s.hub.screens[n].state = .parked →
        Completes (.state l (rowByte a) credit) s
          (h.modLink l fun k => { k with strangerPackets := k.strangerPackets + 1 }))

/-- R124, R125, R127, R153: the end of PARK parks the link and its screens, whose Queued buffers are freed and whose
other buffers are voided and which leave their running sets (R101, R79), and takes a wake where the line is asserted in
level mode. R62, R107, R153: the link keeps its settings, its counters, its rate and its address table; a parked screen
keeps everything but its state, its entries, its engine, of which the pace count is kept, and the current level, which
becomes 0. R111: a PARK finished after a disable has no effect. R125: a rising wake line on a Parked link is a wake,
which auto-wake turns into Waking. -/
def Obligations.ParkAndWake : Prop :=
  (∀ (s : State) (l : Fin 6) (k : Link) (o : OnLine), k = s.hub.links[l] → k.line = some o → o.packet = .park →
    o.dead = false →
    ∃ h, Completes (.parkTransmitted l) s (if k.wakeMode = .level ∧ k.wakeLine = true then takeWake l h else h) ∧
      (h = { s.hub with
        slots := h.slots, plates := h.plates, screens := h.screens, groups := h.groups, buffers := h.buffers,
        links := h.links }) ∧
      ∀ (parks : Fin 8 → Bool) (kept : Fin 32 → Bool) (left : Hub),
        (∀ n, parks n = true ↔ s.hub.screens[n].link = some l ∧
          (s.hub.screens[n].state = .joined ∨ s.hub.screens[n].state = .lost ∨ s.hub.screens[n].state = .missing)) →
        (∀ b, kept b = match s.hub.buffers[b] with
          | some y => !(parks y.screen && y.phase == .queued && !y.inTransmission)
          | none => true) →
        left = (allScreens.filter parks).foldl (fun h n => leaveSources n h) s.hub →
        h.slots = left.slots ∧ h.plates = left.plates ∧
        (∀ n : Fin 8, h.screens[n] =
          if parks n = true then
            { s.hub.screens[n] with
              state := .parked, entries := s.hub.screens[n].entries.map fun _ => Entry.absent
              level := { s.hub.screens[n].level with current := 0 }
              engine :=
                { s.hub.screens[n].engine with
                  cycle := none, showCount := 0, showTimer := none, lossWait := false, promptStart := false,
                  joinedSurfaces := Vector.replicate 2 false, joinedPlates := Vector.replicate 16 false } }
          else s.hub.screens[n]) ∧
        (∀ g : Fin 4, h.groups[g] = { s.hub.groups[g] with running := h.groups[g].running } ∧
          ∀ n : Fin 8, h.groups[g].running[n] = (s.hub.groups[g].running[n] && !parks n)) ∧
        (∀ (b : Fin 32) (y : Lend), s.hub.buffers[b] = some y →
          h.buffers[b] =
            if kept b = false then none
            else if parks y.screen = true then some { y with voided := true } else some y) ∧
        (h.links[l] =
          { k with
            parkPending := false, state := .parked, control := [], line := none, tiles := k.tiles.filter kept,
            sentOrder := k.sentOrder.filter kept
            rows := k.rows.map fun (r : AddressRow) =>
              { r with silence := none, pollWait := none, lostPoll := none, pollAwaited := false } }) ∧
        ∀ m : Fin 6, m ≠ l →
          h.links[m] =
            { s.hub.links[m] with
              tiles := s.hub.links[m].tiles.filter kept, sentOrder := s.hub.links[m].sentOrder.filter kept }) ∧
    (∀ (s : State) (l : Fin 6) (o : OnLine), s.hub.links[l].line = some o → o.packet = .park → o.dead = true →
      Completes (.parkTransmitted l) s (s.hub.modLink l fun k => { k with line := none })) ∧
    (∀ (s : State) (l : Fin 6) (v : Bool) (h : Hub), h = (s.hub.modLink l fun k => { k with wakeLine := v }) →
      (s.hub.links[l].state = .parked → v = true → s.hub.links[l].wakeLine = false →
        Completes (.wakeLineChange l v) s (takeWake l h)) ∧
      (s.hub.links[l].state ≠ .parked ∨ v = false ∨ s.hub.links[l].wakeLine = true →
        Completes (.wakeLineChange l v) s h)) ∧
    ∀ (h : Hub) (l : Fin 6),
      (h.links[l].autoWake = false → takeWake l h = notify (linkPorts h l) .wake [byteOfFin l] h) ∧
      (h.links[l].autoWake = true →
        takeWake l h =
          (notify (linkPorts h l) .wake [byteOfFin l] h).modLink l fun k =>
            { k with state := .waking, rate := none, warm := some k.warmUp.ticks })

/-- R105, R106, R109, R129, R131, R132, R133, R135, R195: check failures and the rate fallback they lead to, the
clearing of the window, and what becomes of packets from strangers, of unassigned addresses (0 and 3 to 15 among them),
above address 15, of no listed kind, of a NOTE and of SHOWN from a screen that is not Joined; the count and notice of a
protocol fault, and the ports of a link notice. From an unassigned address a packet of no listed kind has fault kind
kind (log 20, DEDUCED), and a REFUSED of any reason fault kind address (log 21, DEDUCED). From a stranger's address a
REFUSED of any reason that matches no buffer (log 30, DEDUCED) and a HELLO (log 31, DEDUCED) are dropped and counted
too. -/
def Obligations.CheckFailuresStrangersAndNotes : Prop :=
  (∀ k : Link, receiverOpen k = true ↔ k.state = .rolling ∨ k.state = .up ∨ k.state = .parked) ∧
  (∀ kind : Byte, listedUpstream kind = true ↔ 0x81 ≤ kind.toNat ∧ kind.toNat ≤ 0x87) ∧
  [LinkRate.six, .three, .oneHalf].map LinkRate.lower = [.three, .oneHalf, .oneHalf] ∧ faultRate = 1 ∧
  (∀ (s : State) (l : Fin 6),
    (receiverOpen s.hub.links[l] = true → Completes (.upstreamCheckFailure l) s (checkFailure l s.hub)) ∧
    (receiverOpen s.hub.links[l] = false → Completes (.upstreamCheckFailure l) s s.hub) ∧
    (s.hub.windowDue = true →
      Completes .checkWindowClear s
        { s.hub with
          windowDue := false, links := s.hub.links.map fun (k : Link) => { k with checkFailures := 0 } })) ∧
    (∀ (h : Hub) (l : Fin 6) (cap : LinkRate), cap = h.links[l].currentCap.lower →
      (h.links[l].checkFailures < 15 →
        checkFailure l h = h.modLink l fun k => { k with checkFailures := k.checkFailures + 1 }) ∧
      (h.links[l].checkFailures = 15 →
        checkFailure l h =
          resetLink l cap
            (notify (linkPorts h l) .linkFault [byteOfFin l, faultRate, cap.code]
              (h.modLink l fun k => { k with currentCap := cap, checkFailures := 0 })))) ∧
    (∀ (s : State) (l : Fin 6) (a : Fin 2) (payload : List Byte) (kind : Byte) (h : Hub),
      receiverOpen s.hub.links[l] = true → payload.length ≤ 16 → listedUpstream kind = false →
      h = touchSilence l (rowByte a) s.hub →
      (∀ i, s.hub.links[l].rows[a].assignment = .stranger i →
        Completes (.note l (rowByte a) payload) s
            (h.modLink l fun k => { k with strangerPackets := k.strangerPackets + 1 }) ∧
          Completes (.packetOfNoListedKind l (rowByte a) kind) s
            (h.modLink l fun k => { k with strangerPackets := k.strangerPackets + 1 })) ∧
      ((∀ i, s.hub.links[l].rows[a].assignment ≠ .stranger i) →
        Completes (.packetOfNoListedKind l (rowByte a) kind) s (protocolFault l (rowByte a) .kind h)) ∧
      (s.hub.links[l].rows[a].assignment = .unassigned →
        ∀ (tile number : Half) (sig : Signature) (reason credit : Byte),
          Completes (.taken l (rowByte a) tile sig) s (protocolFault l (rowByte a) .address h) ∧
          Completes (.refused l (rowByte a) tile reason) s (protocolFault l (rowByte a) .address h) ∧
          Completes (.shown l (rowByte a) number) s (protocolFault l (rowByte a) .address h) ∧
          Completes (.loss l (rowByte a)) s (protocolFault l (rowByte a) .address h) ∧
          Completes (.state l (rowByte a) credit) s (protocolFault l (rowByte a) .address h) ∧
          Completes (.note l (rowByte a) payload) s (protocolFault l (rowByte a) .address h)) ∧
      ∀ n, s.hub.links[l].rows[a].assignment = .screen n →
        (s.hub.screens[n].state = .joined →
          Completes (.note l (rowByte a) payload) s
            (notify (ownerOrBoth s.hub.screens[n].owner) .touch
              ([byteOfFin n, byteOf payload.length] ++ payload) h)) ∧
        (s.hub.screens[n].state ≠ .joined →
          Completes (.note l (rowByte a) payload) s
            (h.modLink l fun k => { k with strangerPackets := k.strangerPackets + 1 }))) ∧
    (∀ (s : State) (l : Fin 6) (a : Fin 2) (i identity : Identity) (tile number : Half) (sig : Signature)
      (reason credit columns rows : Byte) (h : Hub), receiverOpen s.hub.links[l] = true →
      s.hub.links[l].rows[a].assignment = .stranger i →
      h = (s.hub.modLink l fun k => { k with strangerPackets := k.strangerPackets + 1 }) →
      (matchSent s.hub l a tile.toNat = none →
        Completes (.taken l (rowByte a) tile sig) s h ∧ Completes (.refused l (rowByte a) tile reason) s h) ∧
      Completes (.shown l (rowByte a) number) s h ∧ Completes (.loss l (rowByte a)) s h ∧
      Completes (.state l (rowByte a) credit) s h ∧
      Completes (.hello l (rowByte a) identity credit columns rows) s h) ∧
    (∀ (s : State) (l : Fin 6) (a : Fin 2) (n : Fin 8) (number : Half), receiverOpen s.hub.links[l] = true →
      s.hub.links[l].rows[a].assignment = .screen n → s.hub.screens[n].state ≠ .joined →
      Completes (.shown l (rowByte a) number) s (protocolFault l (rowByte a) .shown s.hub)) ∧
    (∀ (s : State) (l : Fin 6) (address : Byte) (tile number : Half) (sig : Signature) (identity : Identity)
      (reason credit columns rows kind : Byte) (payload : List Byte), payload.length ≤ 16 →
      listedUpstream kind = false →
      (∀ h, receiverOpen s.hub.links[l] = false ∧ h = s.hub ∨
          receiverOpen s.hub.links[l] = true ∧ 15 < address.toNat ∧ h = checkFailure l s.hub ∨
          receiverOpen s.hub.links[l] = true ∧ (address = 0 ∨ 3 ≤ address.toNat ∧ address.toNat ≤ 15) ∧
            h = protocolFault l address .address s.hub →
        Completes (.taken l address tile sig) s h ∧ Completes (.refused l address tile reason) s h ∧
          Completes (.shown l address number) s h ∧ Completes (.loss l address) s h ∧
          Completes (.state l address credit) s h ∧ Completes (.note l address payload) s h) ∧
      (∀ h g, receiverOpen s.hub.links[l] = false ∧ h = s.hub ∧ g = s.hub ∨
          receiverOpen s.hub.links[l] = true ∧ 15 < address.toNat ∧ h = checkFailure l s.hub ∧ g = h ∨
          receiverOpen s.hub.links[l] = true ∧ (address = 0 ∨ 3 ≤ address.toNat ∧ address.toNat ≤ 15) ∧
            h = protocolFault l address .hello s.hub ∧ g = protocolFault l address .kind s.hub →
        Completes (.hello l address identity credit columns rows) s h ∧
          Completes (.packetOfNoListedKind l address kind) s g)) ∧
    (∀ (s : State) (l : Fin 6) (address : Byte) (payload : List Byte), 16 < payload.length →
      (receiverOpen s.hub.links[l] = true → Completes (.note l address payload) s (checkFailure l s.hub)) ∧
      (receiverOpen s.hub.links[l] = false → Completes (.note l address payload) s s.hub)) ∧
    (∀ (h : Hub) (l : Fin 6) (address : Byte) (k : FaultKind),
      protocolFault l address k h =
        notify (linkPorts h l) .protocol [byteOfFin l, address, k.code]
          (h.modLink l fun x => { x with protocolFaults := x.protocolFaults + 1 }) ∧
      linkPorts h l = [Port.a, .b].filter fun p =>
        decide ((∃ n ∈ boundTo h l, h.screens[n].owner = some p) ∨ ∀ n ∈ boundTo h l, h.screens[n].owner = none)) ∧
    [FaultKind.hello, .shown, .loss, .reason, .credit, .address, .kind].map FaultKind.code = [0, 1, 2, 3, 4, 5, 6]

/-! ### Encodings -/

/-- R174 to R183, R190, R192: a frame that carries a request, its view lists of at most four views and its curve of
eight points, is read back as that request, every field at every value. R188, R191: the bytes of a frame on the
wire. MODEL's choice (log 15): a command that names a request is the arrival of the frame that carries it, wherever
that frame is handled, queued, answered Overrun, dropped or not taken; so is BAD_KIND, and it names no frame of a
request kind. -/
def Obligations.RequestsReadBack : Prop :=
  (∀ (f : Frame) (covered : List Byte),
    covered = be16 (BitVec.ofNat 16 f.body.length) ++ [f.kind, f.tag] ++ f.body →
    f.wire = [0xC3] ++ covered ++ be16 (crc16 covered)) ∧
  (∀ (s : State) (p : Port) (a b c d e f tag kind : Byte) (x : Half) (identity : Identity) (colour : Colour)
    (views : List RawView) (points : List RawPoint) (named : Instr → Request → Prop),
    (∀ i r, named i r ↔ exec i s = exec (.frameArrival p (r.frame tag).kind tag (r.frame tag).body) s) →
    (named (.hubAsk p tag) .hubAsk ∧ named (.hubReset p tag) .hubReset ∧ named (.lineSet p tag a) (.lineSet a) ∧
      named (.noticeSet p tag x) (.noticeSet x) ∧ named (.inputSetEnable p tag a b c) (.inputSet a 1 b c) ∧
      named (.inputSetDisable p tag a b c) (.inputSet a 0 b c) ∧ named (.inputAsk p tag a) (.inputAsk a) ∧
      named (.plateOpen p tag a b c) (.plateOpen a b c) ∧ named (.plateCommit p tag a) (.plateCommit a) ∧
      named (.plateDrop p tag a) (.plateDrop a) ∧ named (.plateAsk p tag a) (.plateAsk a) ∧
      named (.screenBind p tag a b identity c d colour) (.screenBind a b identity c d colour) ∧
      named (.screenUnbind p tag a) (.screenUnbind a) ∧ named (.screenAsk p tag a) (.screenAsk a) ∧
      named (.layoutSet p tag a b x views) (.layoutSet a b x views) ∧
      named (.fillSet p tag a colour) (.fillSet a colour) ∧
      named (.paceSetScreen p tag a x) (.paceSet 0 a x) ∧ named (.paceSetGroup p tag a x) (.paceSet 1 a x) ∧
      named (.groupSet p tag a b c) (.groupSet a b c) ∧ named (.claim p tag a) (.claim a) ∧
      named (.yieldScreen p tag a) (.yieldScreen a) ∧ named (.seize p tag a views) (.seize a views) ∧
      named (.returnScreen p tag a) (.returnScreen a) ∧
      named (.linkSetEnable p tag a b c d e) (.linkSet a 1 b c d e) ∧
      named (.linkSetDisable p tag a b c d e) (.linkSet a 0 b c d e) ∧ named (.linkReset p tag a) (.linkReset a) ∧
      named (.linkPark p tag a) (.linkPark a) ∧ named (.linkWake p tag a) (.linkWake a) ∧
      named (.linkAsk p tag a) (.linkAsk a) ∧
      named (.levelSet p tag a b c d e f) (.levelSet a b c d e f) ∧
      named (.curveSet p tag a points) (.curveSet a points) ∧ named (.lightAsk p tag) .lightAsk) ∧
    (requestKind kind = none → exec (.badKind p kind tag) s = exec (.frameArrival p kind tag []) s) ∧
    (requestKind kind ≠ none → Completes (.badKind p kind tag) s s.hub)) ∧
  ∀ (r : Request) (tag : Byte),
    (∀ a b c v, r = .layoutSet a b c v → v.length ≤ 4) → (∀ a v, r = .seize a v → v.length ≤ 4) →
    (∀ k ps, r = .curveSet k ps → ps.length = 8) → parse (r.frame tag).kind (r.frame tag).body = .ok r

/-- R194, R195, R191: the bytes of an upstream packet whose address is 0 to 15 are read back as that packet, every
field at every value; with its last byte changed they are a check failure. The bytes of each kind of packet, upstream
and downstream. -/
def Obligations.PacketsReadBack : Prop :=
  (∀ (address kind : Byte) (payload covered : List Byte),
    covered = [address, kind] ++ be16 (BitVec.ofNat 16 payload.length) ++ payload →
    packetBytes address kind payload = covered ++ be16 (crc16 covered)) ∧
  (∀ (l : Fin 6) (address reason credit columns rows : Byte) (tile number : Half) (sig : Signature)
    (identity : Identity) (payload : List Byte),
    upstreamBytes (.taken l address tile sig) = some (packetBytes address 0x81 (be16 tile ++ be32 sig)) ∧
    upstreamBytes (.refused l address tile reason) = some (packetBytes address 0x82 (be16 tile ++ [reason])) ∧
    upstreamBytes (.shown l address number) = some (packetBytes address 0x83 (be16 number)) ∧
    upstreamBytes (.loss l address) = some (packetBytes address 0x84 []) ∧
    upstreamBytes (.note l address payload) =
      some (packetBytes address 0x85 (byteOf payload.length :: payload.flatMap fun b => [b])) ∧
    upstreamBytes (.hello l address identity credit columns rows) =
      some (packetBytes address 0x86 (be48 identity ++ [credit, columns, rows])) ∧
    upstreamBytes (.state l address credit) = some (packetBytes address 0x87 [credit])) ∧
  (∀ (b : Fin 32) (a : Fin 2) (index : Nat) (sig : Signature) (pixels : List Byte) (address level : Byte) (number : Half)
    (screens : ScreenSet) (keepAlive : Bool) (colour : Colour),
    (Packet.tile b a index sig pixels).wire =
      packetBytes (rowByte a) 0x01 (be16 (BitVec.ofNat 16 index) ++ be32 sig ++ pixels) ∧
    (Packet.showFrame address number screens).wire = packetBytes address 0x02 (be16 number) ∧
    (Packet.roll a).wire = packetBytes (rowByte a) 0x03 [] ∧
    (Packet.poll a keepAlive).wire = packetBytes (rowByte a) 0x04 [] ∧
    (Packet.level a level).wire = packetBytes (rowByte a) 0x05 [level] ∧
    Packet.park.wire = packetBytes 15 0x06 [] ∧
    (Packet.blank a colour).wire = packetBytes (rowByte a) 0x07 [colour.red, colour.green, colour.blue]) ∧
  ∀ (i : Instr) (l : Fin 6) (bytes : List Byte), i.wellFormed = true → upstreamBytes i = some bytes →
    (∀ m a t x, i = .taken m a t x → m = l) → (∀ m a t x, i = .refused m a t x → m = l) →
    (∀ m a x, i = .shown m a x → m = l) → (∀ m a, i = .loss m a → m = l) → (∀ m a x, i = .note m a x → m = l) →
    (∀ m a x y z w, i = .hello m a x y z w → m = l) → (∀ m a x, i = .state m a x → m = l) →
    packetCommand l bytes = i ∧
      ∀ (head : List Byte) (last b : Byte), bytes = head ++ [last] → b ≠ last →
        packetCommand l (head ++ [b]) = .upstreamCheckFailure l

/-! ### What every step keeps -/

/-- What follows at an event, in MODEL's order (log 2, DESIGN CHOICE): the resets of links whose screens are lost
(R121), gathering ends (R71), cut ends (R78), SHOWs of Ready screens outside a running set (R73), releases (R84), cycle
starts (R67), joint starts (R83), grants while a buffer is Free and a link asks (R91), the next packet of each free
line, the oldest control packet first and a TILE only while the link is Up (R95), and the next frame of each idle
transmitter, a reply before a notice (R166); then, while a port may begin one, the oldest frame of its input queue is
handled and all this follows again (R164), port A first. Afterwards no control packet waits on a free line of a Rolling
or Up link and no frame on an idle transmitter. While no frame waits in an input queue, all of it leaves settings,
counters, owners, stamps, levels, live plate copies, inputs, light and every byte outside the buffers alone. -/
def Obligations.WhatFollowsAtAnEvent : Prop :=
  (∀ h : Hub,
    consequences h =
      bothPorts.foldl transmitPort (allLinks.foldl transmitNext (grants 32 (allGroups.foldl startGroup
        (allScreens.foldl startScreen (allGroups.foldl releaseGroup (allScreens.foldl showIfReady
          (allScreens.foldl endCut (allScreens.foldl endGathering (allLinks.foldl resetIfAllLost h)))))))))) ∧
  (∀ (h : Hub) (n : Fin 8) (x : Screen), x = h.screens[n] →
    (x.engine.cycle = some .gathering → (∀ e ∈ x.entries, e.state ≠ .behind ∧ e.state ≠ .sending) →
      endGathering h n = (leaveSources n h).modEngine n fun e => { e with cycle := some .ready }) ∧
    (x.engine.cycle ≠ some .gathering ∨ (∃ e ∈ x.entries, e.state = .behind ∨ e.state = .sending) →
      endGathering h n = h) ∧
    (x.engine.cycle = some .cutting → (∀ e ∈ x.entries, e.state ≠ .sending) → endCut h n = startCycle n h) ∧
    (x.engine.cycle ≠ some .cutting ∨ (∃ e ∈ x.entries, e.state = .sending) → endCut h n = h) ∧
    (∀ l a, x.engine.cycle = some .ready → inRunning h n = false → addressOf h n = some (l, a) →
      showIfReady h n =
        (h.modLink l fun k =>
            { k with control := k.control ++ [.showFrame (rowByte a) (x.present + 1) (setScreens [n])] }).modEngine n
          fun e => { e with cycle := some .presenting, showCount := 1 }) ∧
    (x.engine.cycle ≠ some .ready ∨ inRunning h n = true → showIfReady h n = h) ∧
    (x.state = .joined ∧ x.engine.cycle = some .idle ∧ x.group = none ∧ x.engine.paceCount = x.pace ∧
        hasTrigger h n = true →
      startScreen h n = startCycle n h) ∧
    (¬(x.state = .joined ∧ x.engine.cycle = some .idle ∧ x.group = none ∧ x.engine.paceCount = x.pace ∧
        hasTrigger h n = true) →
      startScreen h n = h)) ∧
  (∀ (h : Hub) (g : Fin 4) (running : ScreenSet) (active : List (Fin 8)), running = h.groups[g].running →
    active = activeMembers h g →
    ((∃ n : Fin 8, running[n] = true) ∧ (∀ n : Fin 8, running[n] = true → h.screens[n].engine.cycle = some .ready) →
      releaseGroup h g = release g h) ∧
    ((∀ n : Fin 8, running[n] = false) ∨
        (∃ n : Fin 8, running[n] = true ∧ h.screens[n].engine.cycle ≠ some .ready) →
      releaseGroup h g = h) ∧
    (running = ScreenSet.empty ∧ active ≠ [] ∧ (∀ n ∈ active, h.screens[n].engine.cycle = some .idle) ∧
        h.groups[g].count = h.groups[g].pace ∧ (∃ n ∈ active, hasTrigger h n = true) →
      ∃ k, k = active.foldl (fun h n => startCycle n h) h ∧
        startGroup h g = k.modGroup g fun x =>
          { x with
            running := setScreens (active.filter fun n => k.screens[n].engine.cycle == some .gathering)
            count := 0 }) ∧
    (¬(running = ScreenSet.empty ∧ active ≠ [] ∧ (∀ n ∈ active, h.screens[n].engine.cycle = some .idle) ∧
        h.groups[g].count = h.groups[g].pace ∧ (∃ n ∈ active, hasTrigger h n = true)) →
      startGroup h g = h)) ∧
  (∀ (m : Nat) (h : Hub), grants 0 h = h ∧
    (lowestFreeBuffer h = none ∨ nextAsking h = none → grants (m + 1) h = h) ∧
    ∀ b l, lowestFreeBuffer h = some b → nextAsking h = some l → grants (m + 1) h = grants m (grantTo b l h)) ∧
  (∀ (h : Hub) (l : Fin 6) (k : Link), k = h.links[l] →
    (k.line ≠ none → transmitNext h l = h) ∧
    (∀ q rest, k.line = none → k.control = q :: rest →
      (k.state = .rolling ∨ k.state = .up →
        transmitNext h l = h.modLink l fun _ =>
          { k with control := rest, line := some { packet := q, dead := false } }) ∧
      (k.state ≠ .rolling → k.state ≠ .up → transmitNext h l = h)) ∧
    (k.line = none → k.control = [] →
      (k.tiles = [] ∨ k.state ≠ .up → transmitNext h l = h) ∧
      ∀ b rest x, k.tiles = b :: rest → k.state = .up → h.buffers[b] = some x →
        transmitNext h l =
          { h with
            buffers := h.buffers.set b (some { x with inTransmission := true })
            links := h.links.set l
              { k with
                tiles := rest
                line := some
                  { packet := .tile b x.row x.tile x.signature
                      (h.dram.readBytes (Config.bufferBase b.val) 4800), dead := false } } })) ∧
  (∀ (h : Hub) (p : Port) (x : PortState), x = h.port p →
    (h.starting = true ∨ x.line ≠ none ∨ x.replies = [] ∧ x.notices = [] → transmitPort h p = h) ∧
    (∀ f rest, h.starting = false → x.line = none → x.replies = f :: rest →
      transmitPort h p = h.modPort p fun x => { x with replies := rest, line := some f }) ∧
    ∀ f rest, h.starting = false → x.line = none → x.replies = [] → x.notices = f :: rest →
      transmitPort h p = h.modPort p fun x => { x with notices := rest, line := some f }) ∧
  (∀ (h k : Hub) (begins : Port → Prop), k = consequences h →
    (∀ p, begins p ↔ k.starting = false ∧ (k.port p).handling = none ∧ (k.port p).input ≠ [] ∧
      0 < (k.port p).freePlaces) →
    ((∀ p, ¬begins p) → settle h = k) ∧
    ∀ (p : Port) (f : Frame) (rest : List Frame), begins p → (k.port p).input = f :: rest → (p = .b → ¬begins .a) →
      k.portA.input.length ≤ 4 → k.portB.input.length ≤ 4 →
      settle h = settle (handleFrame p f (k.modPort p fun x => { x with input := rest }))) ∧
  (∀ h : Hub,
    (∀ l : Fin 6, (settle h).links[l].line = none →
      (settle h).links[l].state = .rolling ∨ (settle h).links[l].state = .up → (settle h).links[l].control = []) ∧
    ∀ p : Port, (settle h).starting = false → ((settle h).port p).line = none →
      ((settle h).port p).replies = [] ∧ ((settle h).port p).notices = []) ∧
  ∀ h : Hub, noFrameWaits h → Hub.Kept h (settle h)

/-- MODEL's form of the DRAM (log 5): every step keeps the canonical form of the memory. -/
def Obligations.MemoryStaysCanonical : Prop :=
  ∀ s t : State, s.hub.dram.wf = true → step s = .next t → t.hub.dram.wf = true

/-- R140, R40: every step keeps the laws that a screen with a seize record is owned by port B, and that the directory
entries total at most 8192 with none in an Unbound slot. -/
def Obligations.ScreenLawsKept : Prop :=
  (∀ s t : State, seizedOwnedByB s.hub → step s = .next t → seizedOwnedByB t.hub) ∧
    ∀ s t : State, poolLaw s.hub → step s = .next t → poolLaw t.hub

/-- R14, R159, R165: every step keeps the laws of the frame slots, and the capacities of the queues of the ports. -/
def Obligations.SlotAndQueueLawsKept : Prop :=
  (∀ s t : State, fillingLaw s.hub → newestLaw s.hub → step s = .next t → fillingLaw t.hub ∧ newestLaw t.hub) ∧
    ∀ s t : State, queuesBounded s.hub → step s = .next t → queuesBounded t.hub

/-- R108, R114, R115, R92, R94, R73, R64: every step keeps the laws of delivery: who holds an address, what a link
offers, which entries and buffers are Sending, credit, and what a SHOW finds. -/
def Obligations.DeliveryLawsKept : Prop :=
  ∀ s t : State, deliveryLaws s.hub → step s = .next t → deliveryLaws t.hub

/-- R23, R64, R71: every step keeps the laws of the plate copies and of the reader sets of slots and copies. -/
def Obligations.ReaderLawsKept : Prop := ∀ s t : State, readerLaws s.hub → step s = .next t → readerLaws t.hub

/-- R2, R3, R20, R21, R37, R64, R80, R88, R107, R108, R149, R154, R156, R159, R170: the value of every field after a
reset of the whole part, as the last columns of the state tables give it, whatever its cause, its line rates and the
wake lines; and the laws that every step keeps hold in every such part. At State.reset the straps and the wake lines
are low (MODEL's choice, logs 6 and 7). MODEL's choices too: empty running signatures (log 26), unlisted bytes read 0
(log 5), the index of the free values 0 (log 4), the kept rate none (log 25), nothing due and the ticks at 0 (log
3). -/
def Obligations.LawsHoldAtReset : Prop :=
  State.reset = { hub := Hub.reset .powerOn .half .half (Vector.replicate 6 false), pending := [] } ∧
  ∀ (cause : ResetCause) (rateA rateB : LineRate) (wakeLines : Vector Bool 6) (h : Hub),
    h = Hub.reset cause rateA rateB wakeLines →
    (h.starting = true ∧ h.cause = cause ∧ h.ticks = 0 ∧ h.levelDue = false ∧ h.conversionDue = false ∧
      h.windowDue = false ∧ h.free = 0 ∧ h.dram = [] ∧ (∀ a, h.dram.read a = 0) ∧ freeEntries h = 8192) ∧
    (∀ i : Fin 2,
      h.captures[i] =
        { state := .off, size := none, port := none, frames := 0, drops := 0, torn := 0, silences := 0,
          dropArmed := true, silence := none, filling := none, lines := 0, running := [] } ∧
      h.lights[i] = { reading := none, conversion := none } ∧
      ∀ k : Fin 3, h.slots[i][k] =
        { state := .free, number := none, size := none, signatures := [], readers := Vector.replicate 8 false }) ∧
    (∀ p : Fin 16, h.plates[p].size = none ∧ h.plates[p].live = none ∧ h.plates[p].version = 0 ∧
      ∀ c : Fin 2, h.plates[p].copies[c] =
        { state := .empty, size := none, written := Vector.replicate 64 false, damaged := Vector.replicate 64 false,
          signatures := [], readers := Vector.replicate 8 false }) ∧
    (∀ n : Fin 8, h.screens[n] =
      { state := .unbound, link := none, identity := none, size := none, fill := none, fillSignature := none,
        pendingFill := none, owner := none, layout := [], pendingLayout := none, pendingFlag := false, stamp := 0,
        group := none, pace := 16, seize := none, failures := 0, present := 0,
        lastFrames := Vector.replicate 2 none, lastVersions := Vector.replicate 16 none, entries := [],
        engine :=
          { cycle := none, paceCount := 16, showCount := 0, showTimer := none, lossWait := false,
            promptStart := false, joinedSurfaces := Vector.replicate 2 false,
            joinedPlates := Vector.replicate 16 false }
        level := { mode := .manual, target := 128, current := 128, step := 0, input := 0, curve := 0 } }) ∧
    (∀ g : Fin 4, h.groups[g] = { pace := 16, count := 16, running := Vector.replicate 8 false } ∧
      h.curves[g] =
        #v[⟨0, 128⟩, ⟨146, 128⟩, ⟨292, 128⟩, ⟨438, 128⟩, ⟨584, 128⟩, ⟨730, 128⟩, ⟨876, 128⟩, ⟨1023, 128⟩]) ∧
    (∀ b : Fin 32, h.buffers[b] = none) ∧ h.lastServed = 5 ∧
    (∀ l : Fin 6, h.links[l] =
      { enabled := false, state := .off, configuredCap := .six, currentCap := .six, rate := none, wakeMode := .edge,
        autoWake := false, warmUp := .ms50, parkPending := false, protocolFaults := 0, strangerPackets := 0,
        strays := 0, checkFailures := 0, nextRow := 0, hold := none, attempt := none, retry := none, warm := none,
        rollWait := none, offered := none,
        rows := Vector.replicate 2
          { assignment := .unassigned, credit := none, silence := none, pollWait := none, lostPoll := none,
            pollAwaited := false }
        control := [], tiles := [], line := none, sentOrder := [], cutRate := none, wakeLine := wakeLines[l] }) ∧
    (∀ (p : Port) (rate : LineRate), (p = .a → rate = rateA) → (p = .b → rate = rateB) →
      h.port p =
        { rate := rate, receiver := .hunting, gap := none, input := [], handling := none, replies := [],
          notices := [], mask := 0x3FFF, lost := false, framingErrors := 0, gapErrors := 0, lengthErrors := 0,
          crcErrors := 0, headerErrors := 0, overruns := 0, dropped := 0, errorArmed := true, pendingRate := none,
          line := none }) ∧
    h.dram.wf = true ∧ seizedOwnedByB h ∧ poolLaw h ∧ fillingLaw h ∧ newestLaw h ∧ queuesBounded h ∧
    noFrameWaits h ∧ readerLaws h ∧ deliveryLaws h
end

