-- ==== Sys2Proof/Laws/State.lean ====
section
/-! SUPPORT. One lemma for each field of the part under each single update of Machine/Ops.lean, true by rfl, and the
reading of a table one element of which was updated. Later proofs rewrite with these and unfold no record update. -/

namespace Sys2Proof.Machine

/-! ### Tables -/

@[simp] theorem upd_get_same {α : Type} {n : Nat} (v : Vector α n) (i : Fin n) (f : α → α) : (upd v i f)[i] = f v[i] := by
  simp [upd]

theorem upd_get_other {α : Type} {n : Nat} (v : Vector α n) {i j : Fin n} (f : α → α) (h : i ≠ j) :
    (upd v i f)[j] = v[j] := by
  simp [upd, Fin.val_ne_of_ne h]

theorem upd_get {α : Type} {n : Nat} (v : Vector α n) (i j : Fin n) (f : α → α) :
    (upd v i f)[j] = if i = j then f v[j] else v[j] := by
  by_cases h : i = j
  · subst h; rw [upd_get_same, if_pos rfl]
  · rw [upd_get_other v f h, if_neg h]

@[simp] theorem upd_getElem_same {α : Type} {n : Nat} (v : Vector α n) (i : Fin n) (f : α → α) :
    (upd v i f)[i.val] = f v[i.val] := upd_get_same v i f

theorem upd_getElem {α : Type} {n : Nat} (v : Vector α n) (i j : Fin n) (f : α → α) :
    (upd v i f)[j.val] = if i = j then f v[j.val] else v[j.val] := upd_get v i j f

/-- Two updates of one element are one. -/
theorem upd_upd {α : Type} {n : Nat} (v : Vector α n) (i : Fin n) (f g : α → α) :
    upd (upd v i f) i g = upd v i fun x => g (f x) := by
  apply Vector.ext
  intro j hj
  have whole := upd_get (upd v i f) i ⟨j, hj⟩ g
  have first := upd_get v i ⟨j, hj⟩ f
  have both := upd_get v i ⟨j, hj⟩ fun x => g (f x)
  simp only [Fin.getElem_fin] at whole first both ⊢
  rw [whole, first, both]
  split <;> simp

/-- What holds of every element and is kept by `f` holds of every element after the update. -/
theorem upd_all {α : Type} {n : Nat} {v : Vector α n} {i : Fin n} {f : α → α} (P : Fin n → α → Prop)
    (hv : ∀ j, P j v[j]) (hf : P i v[i] → P i (f v[i])) (j : Fin n) : P j (upd v i f)[j] := by
  rw [upd_get]
  split
  · next h => subst h; exact hf (hv _)
  · exact hv j

/-! ### Updates of one element -/

namespace Hub

@[simp] theorem modCapture_starting (h : Hub) (i : Fin 2) (f : Capture → Capture) :
    (h.modCapture i f).starting = h.starting := rfl
@[simp] theorem modCapture_cause (h : Hub) (i : Fin 2) (f : Capture → Capture) :
    (h.modCapture i f).cause = h.cause := rfl
@[simp] theorem modCapture_ticks (h : Hub) (i : Fin 2) (f : Capture → Capture) :
    (h.modCapture i f).ticks = h.ticks := rfl
@[simp] theorem modCapture_levelDue (h : Hub) (i : Fin 2) (f : Capture → Capture) :
    (h.modCapture i f).levelDue = h.levelDue := rfl
@[simp] theorem modCapture_windowDue (h : Hub) (i : Fin 2) (f : Capture → Capture) :
    (h.modCapture i f).windowDue = h.windowDue := rfl
@[simp] theorem modCapture_conversionDue (h : Hub) (i : Fin 2) (f : Capture → Capture) :
    (h.modCapture i f).conversionDue = h.conversionDue := rfl
@[simp] theorem modCapture_free (h : Hub) (i : Fin 2) (f : Capture → Capture) :
    (h.modCapture i f).free = h.free := rfl
@[simp] theorem modCapture_captures (h : Hub) (i : Fin 2) (f : Capture → Capture) :
    (h.modCapture i f).captures = upd h.captures i f := rfl
@[simp] theorem modCapture_slots (h : Hub) (i : Fin 2) (f : Capture → Capture) :
    (h.modCapture i f).slots = h.slots := rfl
@[simp] theorem modCapture_plates (h : Hub) (i : Fin 2) (f : Capture → Capture) :
    (h.modCapture i f).plates = h.plates := rfl
@[simp] theorem modCapture_screens (h : Hub) (i : Fin 2) (f : Capture → Capture) :
    (h.modCapture i f).screens = h.screens := rfl
@[simp] theorem modCapture_groups (h : Hub) (i : Fin 2) (f : Capture → Capture) :
    (h.modCapture i f).groups = h.groups := rfl
@[simp] theorem modCapture_buffers (h : Hub) (i : Fin 2) (f : Capture → Capture) :
    (h.modCapture i f).buffers = h.buffers := rfl
@[simp] theorem modCapture_lastServed (h : Hub) (i : Fin 2) (f : Capture → Capture) :
    (h.modCapture i f).lastServed = h.lastServed := rfl
@[simp] theorem modCapture_links (h : Hub) (i : Fin 2) (f : Capture → Capture) :
    (h.modCapture i f).links = h.links := rfl
@[simp] theorem modCapture_lights (h : Hub) (i : Fin 2) (f : Capture → Capture) :
    (h.modCapture i f).lights = h.lights := rfl
@[simp] theorem modCapture_curves (h : Hub) (i : Fin 2) (f : Capture → Capture) :
    (h.modCapture i f).curves = h.curves := rfl
@[simp] theorem modCapture_portA (h : Hub) (i : Fin 2) (f : Capture → Capture) :
    (h.modCapture i f).portA = h.portA := rfl
@[simp] theorem modCapture_portB (h : Hub) (i : Fin 2) (f : Capture → Capture) :
    (h.modCapture i f).portB = h.portB := rfl
@[simp] theorem modCapture_dram (h : Hub) (i : Fin 2) (f : Capture → Capture) :
    (h.modCapture i f).dram = h.dram := rfl
@[simp] theorem modSlot_starting (h : Hub) (i : Fin 2) (k : Fin 3) (f : Slot → Slot) :
    (h.modSlot i k f).starting = h.starting := rfl
@[simp] theorem modSlot_cause (h : Hub) (i : Fin 2) (k : Fin 3) (f : Slot → Slot) :
    (h.modSlot i k f).cause = h.cause := rfl
@[simp] theorem modSlot_ticks (h : Hub) (i : Fin 2) (k : Fin 3) (f : Slot → Slot) :
    (h.modSlot i k f).ticks = h.ticks := rfl
@[simp] theorem modSlot_levelDue (h : Hub) (i : Fin 2) (k : Fin 3) (f : Slot → Slot) :
    (h.modSlot i k f).levelDue = h.levelDue := rfl
@[simp] theorem modSlot_windowDue (h : Hub) (i : Fin 2) (k : Fin 3) (f : Slot → Slot) :
    (h.modSlot i k f).windowDue = h.windowDue := rfl
@[simp] theorem modSlot_conversionDue (h : Hub) (i : Fin 2) (k : Fin 3) (f : Slot → Slot) :
    (h.modSlot i k f).conversionDue = h.conversionDue := rfl
@[simp] theorem modSlot_free (h : Hub) (i : Fin 2) (k : Fin 3) (f : Slot → Slot) :
    (h.modSlot i k f).free = h.free := rfl
@[simp] theorem modSlot_captures (h : Hub) (i : Fin 2) (k : Fin 3) (f : Slot → Slot) :
    (h.modSlot i k f).captures = h.captures := rfl
@[simp] theorem modSlot_slots (h : Hub) (i : Fin 2) (k : Fin 3) (f : Slot → Slot) :
    (h.modSlot i k f).slots = upd h.slots i fun v => upd v k f := rfl
@[simp] theorem modSlot_plates (h : Hub) (i : Fin 2) (k : Fin 3) (f : Slot → Slot) :
    (h.modSlot i k f).plates = h.plates := rfl
@[simp] theorem modSlot_screens (h : Hub) (i : Fin 2) (k : Fin 3) (f : Slot → Slot) :
    (h.modSlot i k f).screens = h.screens := rfl
@[simp] theorem modSlot_groups (h : Hub) (i : Fin 2) (k : Fin 3) (f : Slot → Slot) :
    (h.modSlot i k f).groups = h.groups := rfl
@[simp] theorem modSlot_buffers (h : Hub) (i : Fin 2) (k : Fin 3) (f : Slot → Slot) :
    (h.modSlot i k f).buffers = h.buffers := rfl
@[simp] theorem modSlot_lastServed (h : Hub) (i : Fin 2) (k : Fin 3) (f : Slot → Slot) :
    (h.modSlot i k f).lastServed = h.lastServed := rfl
@[simp] theorem modSlot_links (h : Hub) (i : Fin 2) (k : Fin 3) (f : Slot → Slot) :
    (h.modSlot i k f).links = h.links := rfl
@[simp] theorem modSlot_lights (h : Hub) (i : Fin 2) (k : Fin 3) (f : Slot → Slot) :
    (h.modSlot i k f).lights = h.lights := rfl
@[simp] theorem modSlot_curves (h : Hub) (i : Fin 2) (k : Fin 3) (f : Slot → Slot) :
    (h.modSlot i k f).curves = h.curves := rfl
@[simp] theorem modSlot_portA (h : Hub) (i : Fin 2) (k : Fin 3) (f : Slot → Slot) :
    (h.modSlot i k f).portA = h.portA := rfl
@[simp] theorem modSlot_portB (h : Hub) (i : Fin 2) (k : Fin 3) (f : Slot → Slot) :
    (h.modSlot i k f).portB = h.portB := rfl
@[simp] theorem modSlot_dram (h : Hub) (i : Fin 2) (k : Fin 3) (f : Slot → Slot) :
    (h.modSlot i k f).dram = h.dram := rfl
@[simp] theorem modPlate_starting (h : Hub) (p : Fin 16) (f : Plate → Plate) :
    (h.modPlate p f).starting = h.starting := rfl
@[simp] theorem modPlate_cause (h : Hub) (p : Fin 16) (f : Plate → Plate) :
    (h.modPlate p f).cause = h.cause := rfl
@[simp] theorem modPlate_ticks (h : Hub) (p : Fin 16) (f : Plate → Plate) :
    (h.modPlate p f).ticks = h.ticks := rfl
@[simp] theorem modPlate_levelDue (h : Hub) (p : Fin 16) (f : Plate → Plate) :
    (h.modPlate p f).levelDue = h.levelDue := rfl
@[simp] theorem modPlate_windowDue (h : Hub) (p : Fin 16) (f : Plate → Plate) :
    (h.modPlate p f).windowDue = h.windowDue := rfl
@[simp] theorem modPlate_conversionDue (h : Hub) (p : Fin 16) (f : Plate → Plate) :
    (h.modPlate p f).conversionDue = h.conversionDue := rfl
@[simp] theorem modPlate_free (h : Hub) (p : Fin 16) (f : Plate → Plate) :
    (h.modPlate p f).free = h.free := rfl
@[simp] theorem modPlate_captures (h : Hub) (p : Fin 16) (f : Plate → Plate) :
    (h.modPlate p f).captures = h.captures := rfl
@[simp] theorem modPlate_slots (h : Hub) (p : Fin 16) (f : Plate → Plate) :
    (h.modPlate p f).slots = h.slots := rfl
@[simp] theorem modPlate_plates (h : Hub) (p : Fin 16) (f : Plate → Plate) :
    (h.modPlate p f).plates = upd h.plates p f := rfl
@[simp] theorem modPlate_screens (h : Hub) (p : Fin 16) (f : Plate → Plate) :
    (h.modPlate p f).screens = h.screens := rfl
@[simp] theorem modPlate_groups (h : Hub) (p : Fin 16) (f : Plate → Plate) :
    (h.modPlate p f).groups = h.groups := rfl
@[simp] theorem modPlate_buffers (h : Hub) (p : Fin 16) (f : Plate → Plate) :
    (h.modPlate p f).buffers = h.buffers := rfl
@[simp] theorem modPlate_lastServed (h : Hub) (p : Fin 16) (f : Plate → Plate) :
    (h.modPlate p f).lastServed = h.lastServed := rfl
@[simp] theorem modPlate_links (h : Hub) (p : Fin 16) (f : Plate → Plate) :
    (h.modPlate p f).links = h.links := rfl
@[simp] theorem modPlate_lights (h : Hub) (p : Fin 16) (f : Plate → Plate) :
    (h.modPlate p f).lights = h.lights := rfl
@[simp] theorem modPlate_curves (h : Hub) (p : Fin 16) (f : Plate → Plate) :
    (h.modPlate p f).curves = h.curves := rfl
@[simp] theorem modPlate_portA (h : Hub) (p : Fin 16) (f : Plate → Plate) :
    (h.modPlate p f).portA = h.portA := rfl
@[simp] theorem modPlate_portB (h : Hub) (p : Fin 16) (f : Plate → Plate) :
    (h.modPlate p f).portB = h.portB := rfl
@[simp] theorem modPlate_dram (h : Hub) (p : Fin 16) (f : Plate → Plate) :
    (h.modPlate p f).dram = h.dram := rfl
@[simp] theorem modCopy_starting (h : Hub) (p : Fin 16) (c : Fin 2) (f : PlateCopy → PlateCopy) :
    (h.modCopy p c f).starting = h.starting := rfl
@[simp] theorem modCopy_cause (h : Hub) (p : Fin 16) (c : Fin 2) (f : PlateCopy → PlateCopy) :
    (h.modCopy p c f).cause = h.cause := rfl
@[simp] theorem modCopy_ticks (h : Hub) (p : Fin 16) (c : Fin 2) (f : PlateCopy → PlateCopy) :
    (h.modCopy p c f).ticks = h.ticks := rfl
@[simp] theorem modCopy_levelDue (h : Hub) (p : Fin 16) (c : Fin 2) (f : PlateCopy → PlateCopy) :
    (h.modCopy p c f).levelDue = h.levelDue := rfl
@[simp] theorem modCopy_windowDue (h : Hub) (p : Fin 16) (c : Fin 2) (f : PlateCopy → PlateCopy) :
    (h.modCopy p c f).windowDue = h.windowDue := rfl
@[simp] theorem modCopy_conversionDue (h : Hub) (p : Fin 16) (c : Fin 2) (f : PlateCopy → PlateCopy) :
    (h.modCopy p c f).conversionDue = h.conversionDue := rfl
@[simp] theorem modCopy_free (h : Hub) (p : Fin 16) (c : Fin 2) (f : PlateCopy → PlateCopy) :
    (h.modCopy p c f).free = h.free := rfl
@[simp] theorem modCopy_captures (h : Hub) (p : Fin 16) (c : Fin 2) (f : PlateCopy → PlateCopy) :
    (h.modCopy p c f).captures = h.captures := rfl
@[simp] theorem modCopy_slots (h : Hub) (p : Fin 16) (c : Fin 2) (f : PlateCopy → PlateCopy) :
    (h.modCopy p c f).slots = h.slots := rfl
@[simp] theorem modCopy_plates (h : Hub) (p : Fin 16) (c : Fin 2) (f : PlateCopy → PlateCopy) :
    (h.modCopy p c f).plates = upd h.plates p fun x => { x with copies := upd x.copies c f } := rfl
@[simp] theorem modCopy_screens (h : Hub) (p : Fin 16) (c : Fin 2) (f : PlateCopy → PlateCopy) :
    (h.modCopy p c f).screens = h.screens := rfl
@[simp] theorem modCopy_groups (h : Hub) (p : Fin 16) (c : Fin 2) (f : PlateCopy → PlateCopy) :
    (h.modCopy p c f).groups = h.groups := rfl
@[simp] theorem modCopy_buffers (h : Hub) (p : Fin 16) (c : Fin 2) (f : PlateCopy → PlateCopy) :
    (h.modCopy p c f).buffers = h.buffers := rfl
@[simp] theorem modCopy_lastServed (h : Hub) (p : Fin 16) (c : Fin 2) (f : PlateCopy → PlateCopy) :
    (h.modCopy p c f).lastServed = h.lastServed := rfl
@[simp] theorem modCopy_links (h : Hub) (p : Fin 16) (c : Fin 2) (f : PlateCopy → PlateCopy) :
    (h.modCopy p c f).links = h.links := rfl
@[simp] theorem modCopy_lights (h : Hub) (p : Fin 16) (c : Fin 2) (f : PlateCopy → PlateCopy) :
    (h.modCopy p c f).lights = h.lights := rfl
@[simp] theorem modCopy_curves (h : Hub) (p : Fin 16) (c : Fin 2) (f : PlateCopy → PlateCopy) :
    (h.modCopy p c f).curves = h.curves := rfl
@[simp] theorem modCopy_portA (h : Hub) (p : Fin 16) (c : Fin 2) (f : PlateCopy → PlateCopy) :
    (h.modCopy p c f).portA = h.portA := rfl
@[simp] theorem modCopy_portB (h : Hub) (p : Fin 16) (c : Fin 2) (f : PlateCopy → PlateCopy) :
    (h.modCopy p c f).portB = h.portB := rfl
@[simp] theorem modCopy_dram (h : Hub) (p : Fin 16) (c : Fin 2) (f : PlateCopy → PlateCopy) :
    (h.modCopy p c f).dram = h.dram := rfl
@[simp] theorem modScreen_starting (h : Hub) (n : Fin 8) (f : Screen → Screen) :
    (h.modScreen n f).starting = h.starting := rfl
@[simp] theorem modScreen_cause (h : Hub) (n : Fin 8) (f : Screen → Screen) :
    (h.modScreen n f).cause = h.cause := rfl
@[simp] theorem modScreen_ticks (h : Hub) (n : Fin 8) (f : Screen → Screen) :
    (h.modScreen n f).ticks = h.ticks := rfl
@[simp] theorem modScreen_levelDue (h : Hub) (n : Fin 8) (f : Screen → Screen) :
    (h.modScreen n f).levelDue = h.levelDue := rfl
@[simp] theorem modScreen_windowDue (h : Hub) (n : Fin 8) (f : Screen → Screen) :
    (h.modScreen n f).windowDue = h.windowDue := rfl
@[simp] theorem modScreen_conversionDue (h : Hub) (n : Fin 8) (f : Screen → Screen) :
    (h.modScreen n f).conversionDue = h.conversionDue := rfl
@[simp] theorem modScreen_free (h : Hub) (n : Fin 8) (f : Screen → Screen) :
    (h.modScreen n f).free = h.free := rfl
@[simp] theorem modScreen_captures (h : Hub) (n : Fin 8) (f : Screen → Screen) :
    (h.modScreen n f).captures = h.captures := rfl
@[simp] theorem modScreen_slots (h : Hub) (n : Fin 8) (f : Screen → Screen) :
    (h.modScreen n f).slots = h.slots := rfl
@[simp] theorem modScreen_plates (h : Hub) (n : Fin 8) (f : Screen → Screen) :
    (h.modScreen n f).plates = h.plates := rfl
@[simp] theorem modScreen_screens (h : Hub) (n : Fin 8) (f : Screen → Screen) :
    (h.modScreen n f).screens = upd h.screens n f := rfl
@[simp] theorem modScreen_groups (h : Hub) (n : Fin 8) (f : Screen → Screen) :
    (h.modScreen n f).groups = h.groups := rfl
@[simp] theorem modScreen_buffers (h : Hub) (n : Fin 8) (f : Screen → Screen) :
    (h.modScreen n f).buffers = h.buffers := rfl
@[simp] theorem modScreen_lastServed (h : Hub) (n : Fin 8) (f : Screen → Screen) :
    (h.modScreen n f).lastServed = h.lastServed := rfl
@[simp] theorem modScreen_links (h : Hub) (n : Fin 8) (f : Screen → Screen) :
    (h.modScreen n f).links = h.links := rfl
@[simp] theorem modScreen_lights (h : Hub) (n : Fin 8) (f : Screen → Screen) :
    (h.modScreen n f).lights = h.lights := rfl
@[simp] theorem modScreen_curves (h : Hub) (n : Fin 8) (f : Screen → Screen) :
    (h.modScreen n f).curves = h.curves := rfl
@[simp] theorem modScreen_portA (h : Hub) (n : Fin 8) (f : Screen → Screen) :
    (h.modScreen n f).portA = h.portA := rfl
@[simp] theorem modScreen_portB (h : Hub) (n : Fin 8) (f : Screen → Screen) :
    (h.modScreen n f).portB = h.portB := rfl
@[simp] theorem modScreen_dram (h : Hub) (n : Fin 8) (f : Screen → Screen) :
    (h.modScreen n f).dram = h.dram := rfl
@[simp] theorem modEngine_starting (h : Hub) (n : Fin 8) (f : Engine → Engine) :
    (h.modEngine n f).starting = h.starting := rfl
@[simp] theorem modEngine_cause (h : Hub) (n : Fin 8) (f : Engine → Engine) :
    (h.modEngine n f).cause = h.cause := rfl
@[simp] theorem modEngine_ticks (h : Hub) (n : Fin 8) (f : Engine → Engine) :
    (h.modEngine n f).ticks = h.ticks := rfl
@[simp] theorem modEngine_levelDue (h : Hub) (n : Fin 8) (f : Engine → Engine) :
    (h.modEngine n f).levelDue = h.levelDue := rfl
@[simp] theorem modEngine_windowDue (h : Hub) (n : Fin 8) (f : Engine → Engine) :
    (h.modEngine n f).windowDue = h.windowDue := rfl
@[simp] theorem modEngine_conversionDue (h : Hub) (n : Fin 8) (f : Engine → Engine) :
    (h.modEngine n f).conversionDue = h.conversionDue := rfl
@[simp] theorem modEngine_free (h : Hub) (n : Fin 8) (f : Engine → Engine) :
    (h.modEngine n f).free = h.free := rfl
@[simp] theorem modEngine_captures (h : Hub) (n : Fin 8) (f : Engine → Engine) :
    (h.modEngine n f).captures = h.captures := rfl
@[simp] theorem modEngine_slots (h : Hub) (n : Fin 8) (f : Engine → Engine) :
    (h.modEngine n f).slots = h.slots := rfl
@[simp] theorem modEngine_plates (h : Hub) (n : Fin 8) (f : Engine → Engine) :
    (h.modEngine n f).plates = h.plates := rfl
@[simp] theorem modEngine_screens (h : Hub) (n : Fin 8) (f : Engine → Engine) :
    (h.modEngine n f).screens = upd h.screens n fun x => { x with engine := f x.engine } := rfl
@[simp] theorem modEngine_groups (h : Hub) (n : Fin 8) (f : Engine → Engine) :
    (h.modEngine n f).groups = h.groups := rfl
@[simp] theorem modEngine_buffers (h : Hub) (n : Fin 8) (f : Engine → Engine) :
    (h.modEngine n f).buffers = h.buffers := rfl
@[simp] theorem modEngine_lastServed (h : Hub) (n : Fin 8) (f : Engine → Engine) :
    (h.modEngine n f).lastServed = h.lastServed := rfl
@[simp] theorem modEngine_links (h : Hub) (n : Fin 8) (f : Engine → Engine) :
    (h.modEngine n f).links = h.links := rfl
@[simp] theorem modEngine_lights (h : Hub) (n : Fin 8) (f : Engine → Engine) :
    (h.modEngine n f).lights = h.lights := rfl
@[simp] theorem modEngine_curves (h : Hub) (n : Fin 8) (f : Engine → Engine) :
    (h.modEngine n f).curves = h.curves := rfl
@[simp] theorem modEngine_portA (h : Hub) (n : Fin 8) (f : Engine → Engine) :
    (h.modEngine n f).portA = h.portA := rfl
@[simp] theorem modEngine_portB (h : Hub) (n : Fin 8) (f : Engine → Engine) :
    (h.modEngine n f).portB = h.portB := rfl
@[simp] theorem modEngine_dram (h : Hub) (n : Fin 8) (f : Engine → Engine) :
    (h.modEngine n f).dram = h.dram := rfl
@[simp] theorem modLevel_starting (h : Hub) (n : Fin 8) (f : Level → Level) :
    (h.modLevel n f).starting = h.starting := rfl
@[simp] theorem modLevel_cause (h : Hub) (n : Fin 8) (f : Level → Level) :
    (h.modLevel n f).cause = h.cause := rfl
@[simp] theorem modLevel_ticks (h : Hub) (n : Fin 8) (f : Level → Level) :
    (h.modLevel n f).ticks = h.ticks := rfl
@[simp] theorem modLevel_levelDue (h : Hub) (n : Fin 8) (f : Level → Level) :
    (h.modLevel n f).levelDue = h.levelDue := rfl
@[simp] theorem modLevel_windowDue (h : Hub) (n : Fin 8) (f : Level → Level) :
    (h.modLevel n f).windowDue = h.windowDue := rfl
@[simp] theorem modLevel_conversionDue (h : Hub) (n : Fin 8) (f : Level → Level) :
    (h.modLevel n f).conversionDue = h.conversionDue := rfl
@[simp] theorem modLevel_free (h : Hub) (n : Fin 8) (f : Level → Level) :
    (h.modLevel n f).free = h.free := rfl
@[simp] theorem modLevel_captures (h : Hub) (n : Fin 8) (f : Level → Level) :
    (h.modLevel n f).captures = h.captures := rfl
@[simp] theorem modLevel_slots (h : Hub) (n : Fin 8) (f : Level → Level) :
    (h.modLevel n f).slots = h.slots := rfl
@[simp] theorem modLevel_plates (h : Hub) (n : Fin 8) (f : Level → Level) :
    (h.modLevel n f).plates = h.plates := rfl
@[simp] theorem modLevel_screens (h : Hub) (n : Fin 8) (f : Level → Level) :
    (h.modLevel n f).screens = upd h.screens n fun x => { x with level := f x.level } := rfl
@[simp] theorem modLevel_groups (h : Hub) (n : Fin 8) (f : Level → Level) :
    (h.modLevel n f).groups = h.groups := rfl
@[simp] theorem modLevel_buffers (h : Hub) (n : Fin 8) (f : Level → Level) :
    (h.modLevel n f).buffers = h.buffers := rfl
@[simp] theorem modLevel_lastServed (h : Hub) (n : Fin 8) (f : Level → Level) :
    (h.modLevel n f).lastServed = h.lastServed := rfl
@[simp] theorem modLevel_links (h : Hub) (n : Fin 8) (f : Level → Level) :
    (h.modLevel n f).links = h.links := rfl
@[simp] theorem modLevel_lights (h : Hub) (n : Fin 8) (f : Level → Level) :
    (h.modLevel n f).lights = h.lights := rfl
@[simp] theorem modLevel_curves (h : Hub) (n : Fin 8) (f : Level → Level) :
    (h.modLevel n f).curves = h.curves := rfl
@[simp] theorem modLevel_portA (h : Hub) (n : Fin 8) (f : Level → Level) :
    (h.modLevel n f).portA = h.portA := rfl
@[simp] theorem modLevel_portB (h : Hub) (n : Fin 8) (f : Level → Level) :
    (h.modLevel n f).portB = h.portB := rfl
@[simp] theorem modLevel_dram (h : Hub) (n : Fin 8) (f : Level → Level) :
    (h.modLevel n f).dram = h.dram := rfl
@[simp] theorem modGroup_starting (h : Hub) (g : Fin 4) (f : Group → Group) :
    (h.modGroup g f).starting = h.starting := rfl
@[simp] theorem modGroup_cause (h : Hub) (g : Fin 4) (f : Group → Group) :
    (h.modGroup g f).cause = h.cause := rfl
@[simp] theorem modGroup_ticks (h : Hub) (g : Fin 4) (f : Group → Group) :
    (h.modGroup g f).ticks = h.ticks := rfl
@[simp] theorem modGroup_levelDue (h : Hub) (g : Fin 4) (f : Group → Group) :
    (h.modGroup g f).levelDue = h.levelDue := rfl
@[simp] theorem modGroup_windowDue (h : Hub) (g : Fin 4) (f : Group → Group) :
    (h.modGroup g f).windowDue = h.windowDue := rfl
@[simp] theorem modGroup_conversionDue (h : Hub) (g : Fin 4) (f : Group → Group) :
    (h.modGroup g f).conversionDue = h.conversionDue := rfl
@[simp] theorem modGroup_free (h : Hub) (g : Fin 4) (f : Group → Group) :
    (h.modGroup g f).free = h.free := rfl
@[simp] theorem modGroup_captures (h : Hub) (g : Fin 4) (f : Group → Group) :
    (h.modGroup g f).captures = h.captures := rfl
@[simp] theorem modGroup_slots (h : Hub) (g : Fin 4) (f : Group → Group) :
    (h.modGroup g f).slots = h.slots := rfl
@[simp] theorem modGroup_plates (h : Hub) (g : Fin 4) (f : Group → Group) :
    (h.modGroup g f).plates = h.plates := rfl
@[simp] theorem modGroup_screens (h : Hub) (g : Fin 4) (f : Group → Group) :
    (h.modGroup g f).screens = h.screens := rfl
@[simp] theorem modGroup_groups (h : Hub) (g : Fin 4) (f : Group → Group) :
    (h.modGroup g f).groups = upd h.groups g f := rfl
@[simp] theorem modGroup_buffers (h : Hub) (g : Fin 4) (f : Group → Group) :
    (h.modGroup g f).buffers = h.buffers := rfl
@[simp] theorem modGroup_lastServed (h : Hub) (g : Fin 4) (f : Group → Group) :
    (h.modGroup g f).lastServed = h.lastServed := rfl
@[simp] theorem modGroup_links (h : Hub) (g : Fin 4) (f : Group → Group) :
    (h.modGroup g f).links = h.links := rfl
@[simp] theorem modGroup_lights (h : Hub) (g : Fin 4) (f : Group → Group) :
    (h.modGroup g f).lights = h.lights := rfl
@[simp] theorem modGroup_curves (h : Hub) (g : Fin 4) (f : Group → Group) :
    (h.modGroup g f).curves = h.curves := rfl
@[simp] theorem modGroup_portA (h : Hub) (g : Fin 4) (f : Group → Group) :
    (h.modGroup g f).portA = h.portA := rfl
@[simp] theorem modGroup_portB (h : Hub) (g : Fin 4) (f : Group → Group) :
    (h.modGroup g f).portB = h.portB := rfl
@[simp] theorem modGroup_dram (h : Hub) (g : Fin 4) (f : Group → Group) :
    (h.modGroup g f).dram = h.dram := rfl
@[simp] theorem modBuffer_starting (h : Hub) (b : Fin 32) (f : Lend → Lend) :
    (h.modBuffer b f).starting = h.starting := rfl
@[simp] theorem modBuffer_cause (h : Hub) (b : Fin 32) (f : Lend → Lend) :
    (h.modBuffer b f).cause = h.cause := rfl
@[simp] theorem modBuffer_ticks (h : Hub) (b : Fin 32) (f : Lend → Lend) :
    (h.modBuffer b f).ticks = h.ticks := rfl
@[simp] theorem modBuffer_levelDue (h : Hub) (b : Fin 32) (f : Lend → Lend) :
    (h.modBuffer b f).levelDue = h.levelDue := rfl
@[simp] theorem modBuffer_windowDue (h : Hub) (b : Fin 32) (f : Lend → Lend) :
    (h.modBuffer b f).windowDue = h.windowDue := rfl
@[simp] theorem modBuffer_conversionDue (h : Hub) (b : Fin 32) (f : Lend → Lend) :
    (h.modBuffer b f).conversionDue = h.conversionDue := rfl
@[simp] theorem modBuffer_free (h : Hub) (b : Fin 32) (f : Lend → Lend) :
    (h.modBuffer b f).free = h.free := rfl
@[simp] theorem modBuffer_captures (h : Hub) (b : Fin 32) (f : Lend → Lend) :
    (h.modBuffer b f).captures = h.captures := rfl
@[simp] theorem modBuffer_slots (h : Hub) (b : Fin 32) (f : Lend → Lend) :
    (h.modBuffer b f).slots = h.slots := rfl
@[simp] theorem modBuffer_plates (h : Hub) (b : Fin 32) (f : Lend → Lend) :
    (h.modBuffer b f).plates = h.plates := rfl
@[simp] theorem modBuffer_screens (h : Hub) (b : Fin 32) (f : Lend → Lend) :
    (h.modBuffer b f).screens = h.screens := rfl
@[simp] theorem modBuffer_groups (h : Hub) (b : Fin 32) (f : Lend → Lend) :
    (h.modBuffer b f).groups = h.groups := rfl
@[simp] theorem modBuffer_buffers (h : Hub) (b : Fin 32) (f : Lend → Lend) :
    (h.modBuffer b f).buffers = upd h.buffers b fun x => x.map f := rfl
@[simp] theorem modBuffer_lastServed (h : Hub) (b : Fin 32) (f : Lend → Lend) :
    (h.modBuffer b f).lastServed = h.lastServed := rfl
@[simp] theorem modBuffer_links (h : Hub) (b : Fin 32) (f : Lend → Lend) :
    (h.modBuffer b f).links = h.links := rfl
@[simp] theorem modBuffer_lights (h : Hub) (b : Fin 32) (f : Lend → Lend) :
    (h.modBuffer b f).lights = h.lights := rfl
@[simp] theorem modBuffer_curves (h : Hub) (b : Fin 32) (f : Lend → Lend) :
    (h.modBuffer b f).curves = h.curves := rfl
@[simp] theorem modBuffer_portA (h : Hub) (b : Fin 32) (f : Lend → Lend) :
    (h.modBuffer b f).portA = h.portA := rfl
@[simp] theorem modBuffer_portB (h : Hub) (b : Fin 32) (f : Lend → Lend) :
    (h.modBuffer b f).portB = h.portB := rfl
@[simp] theorem modBuffer_dram (h : Hub) (b : Fin 32) (f : Lend → Lend) :
    (h.modBuffer b f).dram = h.dram := rfl
@[simp] theorem modLink_starting (h : Hub) (l : Fin 6) (f : Link → Link) :
    (h.modLink l f).starting = h.starting := rfl
@[simp] theorem modLink_cause (h : Hub) (l : Fin 6) (f : Link → Link) :
    (h.modLink l f).cause = h.cause := rfl
@[simp] theorem modLink_ticks (h : Hub) (l : Fin 6) (f : Link → Link) :
    (h.modLink l f).ticks = h.ticks := rfl
@[simp] theorem modLink_levelDue (h : Hub) (l : Fin 6) (f : Link → Link) :
    (h.modLink l f).levelDue = h.levelDue := rfl
@[simp] theorem modLink_windowDue (h : Hub) (l : Fin 6) (f : Link → Link) :
    (h.modLink l f).windowDue = h.windowDue := rfl
@[simp] theorem modLink_conversionDue (h : Hub) (l : Fin 6) (f : Link → Link) :
    (h.modLink l f).conversionDue = h.conversionDue := rfl
@[simp] theorem modLink_free (h : Hub) (l : Fin 6) (f : Link → Link) :
    (h.modLink l f).free = h.free := rfl
@[simp] theorem modLink_captures (h : Hub) (l : Fin 6) (f : Link → Link) :
    (h.modLink l f).captures = h.captures := rfl
@[simp] theorem modLink_slots (h : Hub) (l : Fin 6) (f : Link → Link) :
    (h.modLink l f).slots = h.slots := rfl
@[simp] theorem modLink_plates (h : Hub) (l : Fin 6) (f : Link → Link) :
    (h.modLink l f).plates = h.plates := rfl
@[simp] theorem modLink_screens (h : Hub) (l : Fin 6) (f : Link → Link) :
    (h.modLink l f).screens = h.screens := rfl
@[simp] theorem modLink_groups (h : Hub) (l : Fin 6) (f : Link → Link) :
    (h.modLink l f).groups = h.groups := rfl
@[simp] theorem modLink_buffers (h : Hub) (l : Fin 6) (f : Link → Link) :
    (h.modLink l f).buffers = h.buffers := rfl
@[simp] theorem modLink_lastServed (h : Hub) (l : Fin 6) (f : Link → Link) :
    (h.modLink l f).lastServed = h.lastServed := rfl
@[simp] theorem modLink_links (h : Hub) (l : Fin 6) (f : Link → Link) :
    (h.modLink l f).links = upd h.links l f := rfl
@[simp] theorem modLink_lights (h : Hub) (l : Fin 6) (f : Link → Link) :
    (h.modLink l f).lights = h.lights := rfl
@[simp] theorem modLink_curves (h : Hub) (l : Fin 6) (f : Link → Link) :
    (h.modLink l f).curves = h.curves := rfl
@[simp] theorem modLink_portA (h : Hub) (l : Fin 6) (f : Link → Link) :
    (h.modLink l f).portA = h.portA := rfl
@[simp] theorem modLink_portB (h : Hub) (l : Fin 6) (f : Link → Link) :
    (h.modLink l f).portB = h.portB := rfl
@[simp] theorem modLink_dram (h : Hub) (l : Fin 6) (f : Link → Link) :
    (h.modLink l f).dram = h.dram := rfl
@[simp] theorem modRow_starting (h : Hub) (l : Fin 6) (a : Fin 2) (f : AddressRow → AddressRow) :
    (h.modRow l a f).starting = h.starting := rfl
@[simp] theorem modRow_cause (h : Hub) (l : Fin 6) (a : Fin 2) (f : AddressRow → AddressRow) :
    (h.modRow l a f).cause = h.cause := rfl
@[simp] theorem modRow_ticks (h : Hub) (l : Fin 6) (a : Fin 2) (f : AddressRow → AddressRow) :
    (h.modRow l a f).ticks = h.ticks := rfl
@[simp] theorem modRow_levelDue (h : Hub) (l : Fin 6) (a : Fin 2) (f : AddressRow → AddressRow) :
    (h.modRow l a f).levelDue = h.levelDue := rfl
@[simp] theorem modRow_windowDue (h : Hub) (l : Fin 6) (a : Fin 2) (f : AddressRow → AddressRow) :
    (h.modRow l a f).windowDue = h.windowDue := rfl
@[simp] theorem modRow_conversionDue (h : Hub) (l : Fin 6) (a : Fin 2) (f : AddressRow → AddressRow) :
    (h.modRow l a f).conversionDue = h.conversionDue := rfl
@[simp] theorem modRow_free (h : Hub) (l : Fin 6) (a : Fin 2) (f : AddressRow → AddressRow) :
    (h.modRow l a f).free = h.free := rfl
@[simp] theorem modRow_captures (h : Hub) (l : Fin 6) (a : Fin 2) (f : AddressRow → AddressRow) :
    (h.modRow l a f).captures = h.captures := rfl
@[simp] theorem modRow_slots (h : Hub) (l : Fin 6) (a : Fin 2) (f : AddressRow → AddressRow) :
    (h.modRow l a f).slots = h.slots := rfl
@[simp] theorem modRow_plates (h : Hub) (l : Fin 6) (a : Fin 2) (f : AddressRow → AddressRow) :
    (h.modRow l a f).plates = h.plates := rfl
@[simp] theorem modRow_screens (h : Hub) (l : Fin 6) (a : Fin 2) (f : AddressRow → AddressRow) :
    (h.modRow l a f).screens = h.screens := rfl
@[simp] theorem modRow_groups (h : Hub) (l : Fin 6) (a : Fin 2) (f : AddressRow → AddressRow) :
    (h.modRow l a f).groups = h.groups := rfl
@[simp] theorem modRow_buffers (h : Hub) (l : Fin 6) (a : Fin 2) (f : AddressRow → AddressRow) :
    (h.modRow l a f).buffers = h.buffers := rfl
@[simp] theorem modRow_lastServed (h : Hub) (l : Fin 6) (a : Fin 2) (f : AddressRow → AddressRow) :
    (h.modRow l a f).lastServed = h.lastServed := rfl
@[simp] theorem modRow_links (h : Hub) (l : Fin 6) (a : Fin 2) (f : AddressRow → AddressRow) :
    (h.modRow l a f).links = upd h.links l fun k => { k with rows := upd k.rows a f } := rfl
@[simp] theorem modRow_lights (h : Hub) (l : Fin 6) (a : Fin 2) (f : AddressRow → AddressRow) :
    (h.modRow l a f).lights = h.lights := rfl
@[simp] theorem modRow_curves (h : Hub) (l : Fin 6) (a : Fin 2) (f : AddressRow → AddressRow) :
    (h.modRow l a f).curves = h.curves := rfl
@[simp] theorem modRow_portA (h : Hub) (l : Fin 6) (a : Fin 2) (f : AddressRow → AddressRow) :
    (h.modRow l a f).portA = h.portA := rfl
@[simp] theorem modRow_portB (h : Hub) (l : Fin 6) (a : Fin 2) (f : AddressRow → AddressRow) :
    (h.modRow l a f).portB = h.portB := rfl
@[simp] theorem modRow_dram (h : Hub) (l : Fin 6) (a : Fin 2) (f : AddressRow → AddressRow) :
    (h.modRow l a f).dram = h.dram := rfl
@[simp] theorem modLight_starting (h : Hub) (i : Fin 2) (f : LightInput → LightInput) :
    (h.modLight i f).starting = h.starting := rfl
@[simp] theorem modLight_cause (h : Hub) (i : Fin 2) (f : LightInput → LightInput) :
    (h.modLight i f).cause = h.cause := rfl
@[simp] theorem modLight_ticks (h : Hub) (i : Fin 2) (f : LightInput → LightInput) :
    (h.modLight i f).ticks = h.ticks := rfl
@[simp] theorem modLight_levelDue (h : Hub) (i : Fin 2) (f : LightInput → LightInput) :
    (h.modLight i f).levelDue = h.levelDue := rfl
@[simp] theorem modLight_windowDue (h : Hub) (i : Fin 2) (f : LightInput → LightInput) :
    (h.modLight i f).windowDue = h.windowDue := rfl
@[simp] theorem modLight_conversionDue (h : Hub) (i : Fin 2) (f : LightInput → LightInput) :
    (h.modLight i f).conversionDue = h.conversionDue := rfl
@[simp] theorem modLight_free (h : Hub) (i : Fin 2) (f : LightInput → LightInput) :
    (h.modLight i f).free = h.free := rfl
@[simp] theorem modLight_captures (h : Hub) (i : Fin 2) (f : LightInput → LightInput) :
    (h.modLight i f).captures = h.captures := rfl
@[simp] theorem modLight_slots (h : Hub) (i : Fin 2) (f : LightInput → LightInput) :
    (h.modLight i f).slots = h.slots := rfl
@[simp] theorem modLight_plates (h : Hub) (i : Fin 2) (f : LightInput → LightInput) :
    (h.modLight i f).plates = h.plates := rfl
@[simp] theorem modLight_screens (h : Hub) (i : Fin 2) (f : LightInput → LightInput) :
    (h.modLight i f).screens = h.screens := rfl
@[simp] theorem modLight_groups (h : Hub) (i : Fin 2) (f : LightInput → LightInput) :
    (h.modLight i f).groups = h.groups := rfl
@[simp] theorem modLight_buffers (h : Hub) (i : Fin 2) (f : LightInput → LightInput) :
    (h.modLight i f).buffers = h.buffers := rfl
@[simp] theorem modLight_lastServed (h : Hub) (i : Fin 2) (f : LightInput → LightInput) :
    (h.modLight i f).lastServed = h.lastServed := rfl
@[simp] theorem modLight_links (h : Hub) (i : Fin 2) (f : LightInput → LightInput) :
    (h.modLight i f).links = h.links := rfl
@[simp] theorem modLight_lights (h : Hub) (i : Fin 2) (f : LightInput → LightInput) :
    (h.modLight i f).lights = upd h.lights i f := rfl
@[simp] theorem modLight_curves (h : Hub) (i : Fin 2) (f : LightInput → LightInput) :
    (h.modLight i f).curves = h.curves := rfl
@[simp] theorem modLight_portA (h : Hub) (i : Fin 2) (f : LightInput → LightInput) :
    (h.modLight i f).portA = h.portA := rfl
@[simp] theorem modLight_portB (h : Hub) (i : Fin 2) (f : LightInput → LightInput) :
    (h.modLight i f).portB = h.portB := rfl
@[simp] theorem modLight_dram (h : Hub) (i : Fin 2) (f : LightInput → LightInput) :
    (h.modLight i f).dram = h.dram := rfl
@[simp] theorem modPort_starting (h : Hub) (p : Port) (f : PortState → PortState) :
    (h.modPort p f).starting = h.starting := by cases p <;> rfl
@[simp] theorem modPort_cause (h : Hub) (p : Port) (f : PortState → PortState) :
    (h.modPort p f).cause = h.cause := by cases p <;> rfl
@[simp] theorem modPort_ticks (h : Hub) (p : Port) (f : PortState → PortState) :
    (h.modPort p f).ticks = h.ticks := by cases p <;> rfl
@[simp] theorem modPort_levelDue (h : Hub) (p : Port) (f : PortState → PortState) :
    (h.modPort p f).levelDue = h.levelDue := by cases p <;> rfl
@[simp] theorem modPort_windowDue (h : Hub) (p : Port) (f : PortState → PortState) :
    (h.modPort p f).windowDue = h.windowDue := by cases p <;> rfl
@[simp] theorem modPort_conversionDue (h : Hub) (p : Port) (f : PortState → PortState) :
    (h.modPort p f).conversionDue = h.conversionDue := by cases p <;> rfl
@[simp] theorem modPort_free (h : Hub) (p : Port) (f : PortState → PortState) :
    (h.modPort p f).free = h.free := by cases p <;> rfl
@[simp] theorem modPort_captures (h : Hub) (p : Port) (f : PortState → PortState) :
    (h.modPort p f).captures = h.captures := by cases p <;> rfl
@[simp] theorem modPort_slots (h : Hub) (p : Port) (f : PortState → PortState) :
    (h.modPort p f).slots = h.slots := by cases p <;> rfl
@[simp] theorem modPort_plates (h : Hub) (p : Port) (f : PortState → PortState) :
    (h.modPort p f).plates = h.plates := by cases p <;> rfl
@[simp] theorem modPort_screens (h : Hub) (p : Port) (f : PortState → PortState) :
    (h.modPort p f).screens = h.screens := by cases p <;> rfl
@[simp] theorem modPort_groups (h : Hub) (p : Port) (f : PortState → PortState) :
    (h.modPort p f).groups = h.groups := by cases p <;> rfl
@[simp] theorem modPort_buffers (h : Hub) (p : Port) (f : PortState → PortState) :
    (h.modPort p f).buffers = h.buffers := by cases p <;> rfl
@[simp] theorem modPort_lastServed (h : Hub) (p : Port) (f : PortState → PortState) :
    (h.modPort p f).lastServed = h.lastServed := by cases p <;> rfl
@[simp] theorem modPort_links (h : Hub) (p : Port) (f : PortState → PortState) :
    (h.modPort p f).links = h.links := by cases p <;> rfl
@[simp] theorem modPort_lights (h : Hub) (p : Port) (f : PortState → PortState) :
    (h.modPort p f).lights = h.lights := by cases p <;> rfl
@[simp] theorem modPort_curves (h : Hub) (p : Port) (f : PortState → PortState) :
    (h.modPort p f).curves = h.curves := by cases p <;> rfl
@[simp] theorem modPort_dram (h : Hub) (p : Port) (f : PortState → PortState) :
    (h.modPort p f).dram = h.dram := by cases p <;> rfl

@[simp] theorem modPort_a_portA (h : Hub) (f : PortState → PortState) : (h.modPort .a f).portA = f h.portA := rfl
@[simp] theorem modPort_a_portB (h : Hub) (f : PortState → PortState) : (h.modPort .a f).portB = h.portB := rfl
@[simp] theorem modPort_b_portA (h : Hub) (f : PortState → PortState) : (h.modPort .b f).portA = h.portA := rfl
@[simp] theorem modPort_b_portB (h : Hub) (f : PortState → PortState) : (h.modPort .b f).portB = f h.portB := rfl
@[simp] theorem port_a (h : Hub) : h.port .a = h.portA := rfl
@[simp] theorem port_b (h : Hub) : h.port .b = h.portB := rfl

@[simp] theorem modPort_port_same (h : Hub) (p : Port) (f : PortState → PortState) :
    (h.modPort p f).port p = f (h.port p) := by cases p <;> rfl

theorem modPort_port_other (h : Hub) {p q : Port} (f : PortState → PortState) (hpq : p ≠ q) :
    (h.modPort p f).port q = h.port q := by cases p <;> cases q <;> first | rfl | exact absurd rfl hpq

end Hub

/-! ### The shared operations on ports -/

@[simp] theorem offer_starting (k : NoticeKind) (body : List Byte) (h : Hub) (p : Port) :
    (offer k body h p).starting = h.starting := by cases p <;> rfl
@[simp] theorem offer_cause (k : NoticeKind) (body : List Byte) (h : Hub) (p : Port) :
    (offer k body h p).cause = h.cause := by cases p <;> rfl
@[simp] theorem offer_ticks (k : NoticeKind) (body : List Byte) (h : Hub) (p : Port) :
    (offer k body h p).ticks = h.ticks := by cases p <;> rfl
@[simp] theorem offer_levelDue (k : NoticeKind) (body : List Byte) (h : Hub) (p : Port) :
    (offer k body h p).levelDue = h.levelDue := by cases p <;> rfl
@[simp] theorem offer_windowDue (k : NoticeKind) (body : List Byte) (h : Hub) (p : Port) :
    (offer k body h p).windowDue = h.windowDue := by cases p <;> rfl
@[simp] theorem offer_conversionDue (k : NoticeKind) (body : List Byte) (h : Hub) (p : Port) :
    (offer k body h p).conversionDue = h.conversionDue := by cases p <;> rfl
@[simp] theorem offer_free (k : NoticeKind) (body : List Byte) (h : Hub) (p : Port) :
    (offer k body h p).free = h.free := by cases p <;> rfl
@[simp] theorem offer_captures (k : NoticeKind) (body : List Byte) (h : Hub) (p : Port) :
    (offer k body h p).captures = h.captures := by cases p <;> rfl
@[simp] theorem offer_slots (k : NoticeKind) (body : List Byte) (h : Hub) (p : Port) :
    (offer k body h p).slots = h.slots := by cases p <;> rfl
@[simp] theorem offer_plates (k : NoticeKind) (body : List Byte) (h : Hub) (p : Port) :
    (offer k body h p).plates = h.plates := by cases p <;> rfl
@[simp] theorem offer_screens (k : NoticeKind) (body : List Byte) (h : Hub) (p : Port) :
    (offer k body h p).screens = h.screens := by cases p <;> rfl
@[simp] theorem offer_groups (k : NoticeKind) (body : List Byte) (h : Hub) (p : Port) :
    (offer k body h p).groups = h.groups := by cases p <;> rfl
@[simp] theorem offer_buffers (k : NoticeKind) (body : List Byte) (h : Hub) (p : Port) :
    (offer k body h p).buffers = h.buffers := by cases p <;> rfl
@[simp] theorem offer_lastServed (k : NoticeKind) (body : List Byte) (h : Hub) (p : Port) :
    (offer k body h p).lastServed = h.lastServed := by cases p <;> rfl
@[simp] theorem offer_links (k : NoticeKind) (body : List Byte) (h : Hub) (p : Port) :
    (offer k body h p).links = h.links := by cases p <;> rfl
@[simp] theorem offer_lights (k : NoticeKind) (body : List Byte) (h : Hub) (p : Port) :
    (offer k body h p).lights = h.lights := by cases p <;> rfl
@[simp] theorem offer_curves (k : NoticeKind) (body : List Byte) (h : Hub) (p : Port) :
    (offer k body h p).curves = h.curves := by cases p <;> rfl
@[simp] theorem offer_dram (k : NoticeKind) (body : List Byte) (h : Hub) (p : Port) :
    (offer k body h p).dram = h.dram := by cases p <;> rfl
@[simp] theorem reply_starting (p : Port) (kind tag : Byte) (r : Result) (data : List Byte) (h : Hub) :
    (reply p kind tag r data h).starting = h.starting := by cases p <;> rfl
@[simp] theorem reply_cause (p : Port) (kind tag : Byte) (r : Result) (data : List Byte) (h : Hub) :
    (reply p kind tag r data h).cause = h.cause := by cases p <;> rfl
@[simp] theorem reply_ticks (p : Port) (kind tag : Byte) (r : Result) (data : List Byte) (h : Hub) :
    (reply p kind tag r data h).ticks = h.ticks := by cases p <;> rfl
@[simp] theorem reply_levelDue (p : Port) (kind tag : Byte) (r : Result) (data : List Byte) (h : Hub) :
    (reply p kind tag r data h).levelDue = h.levelDue := by cases p <;> rfl
@[simp] theorem reply_windowDue (p : Port) (kind tag : Byte) (r : Result) (data : List Byte) (h : Hub) :
    (reply p kind tag r data h).windowDue = h.windowDue := by cases p <;> rfl
@[simp] theorem reply_conversionDue (p : Port) (kind tag : Byte) (r : Result) (data : List Byte) (h : Hub) :
    (reply p kind tag r data h).conversionDue = h.conversionDue := by cases p <;> rfl
@[simp] theorem reply_free (p : Port) (kind tag : Byte) (r : Result) (data : List Byte) (h : Hub) :
    (reply p kind tag r data h).free = h.free := by cases p <;> rfl
@[simp] theorem reply_captures (p : Port) (kind tag : Byte) (r : Result) (data : List Byte) (h : Hub) :
    (reply p kind tag r data h).captures = h.captures := by cases p <;> rfl
@[simp] theorem reply_slots (p : Port) (kind tag : Byte) (r : Result) (data : List Byte) (h : Hub) :
    (reply p kind tag r data h).slots = h.slots := by cases p <;> rfl
@[simp] theorem reply_plates (p : Port) (kind tag : Byte) (r : Result) (data : List Byte) (h : Hub) :
    (reply p kind tag r data h).plates = h.plates := by cases p <;> rfl
@[simp] theorem reply_screens (p : Port) (kind tag : Byte) (r : Result) (data : List Byte) (h : Hub) :
    (reply p kind tag r data h).screens = h.screens := by cases p <;> rfl
@[simp] theorem reply_groups (p : Port) (kind tag : Byte) (r : Result) (data : List Byte) (h : Hub) :
    (reply p kind tag r data h).groups = h.groups := by cases p <;> rfl
@[simp] theorem reply_buffers (p : Port) (kind tag : Byte) (r : Result) (data : List Byte) (h : Hub) :
    (reply p kind tag r data h).buffers = h.buffers := by cases p <;> rfl
@[simp] theorem reply_lastServed (p : Port) (kind tag : Byte) (r : Result) (data : List Byte) (h : Hub) :
    (reply p kind tag r data h).lastServed = h.lastServed := by cases p <;> rfl
@[simp] theorem reply_links (p : Port) (kind tag : Byte) (r : Result) (data : List Byte) (h : Hub) :
    (reply p kind tag r data h).links = h.links := by cases p <;> rfl
@[simp] theorem reply_lights (p : Port) (kind tag : Byte) (r : Result) (data : List Byte) (h : Hub) :
    (reply p kind tag r data h).lights = h.lights := by cases p <;> rfl
@[simp] theorem reply_curves (p : Port) (kind tag : Byte) (r : Result) (data : List Byte) (h : Hub) :
    (reply p kind tag r data h).curves = h.curves := by cases p <;> rfl
@[simp] theorem reply_dram (p : Port) (kind tag : Byte) (r : Result) (data : List Byte) (h : Hub) :
    (reply p kind tag r data h).dram = h.dram := by cases p <;> rfl
@[simp] theorem setHandling_starting (p : Port) (x : Option InHandling) (h : Hub) :
    (setHandling p x h).starting = h.starting := by cases p <;> rfl
@[simp] theorem setHandling_cause (p : Port) (x : Option InHandling) (h : Hub) :
    (setHandling p x h).cause = h.cause := by cases p <;> rfl
@[simp] theorem setHandling_ticks (p : Port) (x : Option InHandling) (h : Hub) :
    (setHandling p x h).ticks = h.ticks := by cases p <;> rfl
@[simp] theorem setHandling_levelDue (p : Port) (x : Option InHandling) (h : Hub) :
    (setHandling p x h).levelDue = h.levelDue := by cases p <;> rfl
@[simp] theorem setHandling_windowDue (p : Port) (x : Option InHandling) (h : Hub) :
    (setHandling p x h).windowDue = h.windowDue := by cases p <;> rfl
@[simp] theorem setHandling_conversionDue (p : Port) (x : Option InHandling) (h : Hub) :
    (setHandling p x h).conversionDue = h.conversionDue := by cases p <;> rfl
@[simp] theorem setHandling_free (p : Port) (x : Option InHandling) (h : Hub) :
    (setHandling p x h).free = h.free := by cases p <;> rfl
@[simp] theorem setHandling_captures (p : Port) (x : Option InHandling) (h : Hub) :
    (setHandling p x h).captures = h.captures := by cases p <;> rfl
@[simp] theorem setHandling_slots (p : Port) (x : Option InHandling) (h : Hub) :
    (setHandling p x h).slots = h.slots := by cases p <;> rfl
@[simp] theorem setHandling_plates (p : Port) (x : Option InHandling) (h : Hub) :
    (setHandling p x h).plates = h.plates := by cases p <;> rfl
@[simp] theorem setHandling_screens (p : Port) (x : Option InHandling) (h : Hub) :
    (setHandling p x h).screens = h.screens := by cases p <;> rfl
@[simp] theorem setHandling_groups (p : Port) (x : Option InHandling) (h : Hub) :
    (setHandling p x h).groups = h.groups := by cases p <;> rfl
@[simp] theorem setHandling_buffers (p : Port) (x : Option InHandling) (h : Hub) :
    (setHandling p x h).buffers = h.buffers := by cases p <;> rfl
@[simp] theorem setHandling_lastServed (p : Port) (x : Option InHandling) (h : Hub) :
    (setHandling p x h).lastServed = h.lastServed := by cases p <;> rfl
@[simp] theorem setHandling_links (p : Port) (x : Option InHandling) (h : Hub) :
    (setHandling p x h).links = h.links := by cases p <;> rfl
@[simp] theorem setHandling_lights (p : Port) (x : Option InHandling) (h : Hub) :
    (setHandling p x h).lights = h.lights := by cases p <;> rfl
@[simp] theorem setHandling_curves (p : Port) (x : Option InHandling) (h : Hub) :
    (setHandling p x h).curves = h.curves := by cases p <;> rfl
@[simp] theorem setHandling_dram (p : Port) (x : Option InHandling) (h : Hub) :
    (setHandling p x h).dram = h.dram := by cases p <;> rfl
@[simp] theorem notify_starting (ps : List Port) (k : NoticeKind) (body : List Byte) (h : Hub) :
    (notify ps k body h).starting = h.starting := by
  induction ps generalizing h with
  | nil => rfl
  | cons p ps ih => exact (ih (offer k body h p)).trans (offer_starting k body h p)
@[simp] theorem notify_cause (ps : List Port) (k : NoticeKind) (body : List Byte) (h : Hub) :
    (notify ps k body h).cause = h.cause := by
  induction ps generalizing h with
  | nil => rfl
  | cons p ps ih => exact (ih (offer k body h p)).trans (offer_cause k body h p)
@[simp] theorem notify_ticks (ps : List Port) (k : NoticeKind) (body : List Byte) (h : Hub) :
    (notify ps k body h).ticks = h.ticks := by
  induction ps generalizing h with
  | nil => rfl
  | cons p ps ih => exact (ih (offer k body h p)).trans (offer_ticks k body h p)
@[simp] theorem notify_levelDue (ps : List Port) (k : NoticeKind) (body : List Byte) (h : Hub) :
    (notify ps k body h).levelDue = h.levelDue := by
  induction ps generalizing h with
  | nil => rfl
  | cons p ps ih => exact (ih (offer k body h p)).trans (offer_levelDue k body h p)
@[simp] theorem notify_windowDue (ps : List Port) (k : NoticeKind) (body : List Byte) (h : Hub) :
    (notify ps k body h).windowDue = h.windowDue := by
  induction ps generalizing h with
  | nil => rfl
  | cons p ps ih => exact (ih (offer k body h p)).trans (offer_windowDue k body h p)
@[simp] theorem notify_conversionDue (ps : List Port) (k : NoticeKind) (body : List Byte) (h : Hub) :
    (notify ps k body h).conversionDue = h.conversionDue := by
  induction ps generalizing h with
  | nil => rfl
  | cons p ps ih => exact (ih (offer k body h p)).trans (offer_conversionDue k body h p)
@[simp] theorem notify_free (ps : List Port) (k : NoticeKind) (body : List Byte) (h : Hub) :
    (notify ps k body h).free = h.free := by
  induction ps generalizing h with
  | nil => rfl
  | cons p ps ih => exact (ih (offer k body h p)).trans (offer_free k body h p)
@[simp] theorem notify_captures (ps : List Port) (k : NoticeKind) (body : List Byte) (h : Hub) :
    (notify ps k body h).captures = h.captures := by
  induction ps generalizing h with
  | nil => rfl
  | cons p ps ih => exact (ih (offer k body h p)).trans (offer_captures k body h p)
@[simp] theorem notify_slots (ps : List Port) (k : NoticeKind) (body : List Byte) (h : Hub) :
    (notify ps k body h).slots = h.slots := by
  induction ps generalizing h with
  | nil => rfl
  | cons p ps ih => exact (ih (offer k body h p)).trans (offer_slots k body h p)
@[simp] theorem notify_plates (ps : List Port) (k : NoticeKind) (body : List Byte) (h : Hub) :
    (notify ps k body h).plates = h.plates := by
  induction ps generalizing h with
  | nil => rfl
  | cons p ps ih => exact (ih (offer k body h p)).trans (offer_plates k body h p)
@[simp] theorem notify_screens (ps : List Port) (k : NoticeKind) (body : List Byte) (h : Hub) :
    (notify ps k body h).screens = h.screens := by
  induction ps generalizing h with
  | nil => rfl
  | cons p ps ih => exact (ih (offer k body h p)).trans (offer_screens k body h p)
@[simp] theorem notify_groups (ps : List Port) (k : NoticeKind) (body : List Byte) (h : Hub) :
    (notify ps k body h).groups = h.groups := by
  induction ps generalizing h with
  | nil => rfl
  | cons p ps ih => exact (ih (offer k body h p)).trans (offer_groups k body h p)
@[simp] theorem notify_buffers (ps : List Port) (k : NoticeKind) (body : List Byte) (h : Hub) :
    (notify ps k body h).buffers = h.buffers := by
  induction ps generalizing h with
  | nil => rfl
  | cons p ps ih => exact (ih (offer k body h p)).trans (offer_buffers k body h p)
@[simp] theorem notify_lastServed (ps : List Port) (k : NoticeKind) (body : List Byte) (h : Hub) :
    (notify ps k body h).lastServed = h.lastServed := by
  induction ps generalizing h with
  | nil => rfl
  | cons p ps ih => exact (ih (offer k body h p)).trans (offer_lastServed k body h p)
@[simp] theorem notify_links (ps : List Port) (k : NoticeKind) (body : List Byte) (h : Hub) :
    (notify ps k body h).links = h.links := by
  induction ps generalizing h with
  | nil => rfl
  | cons p ps ih => exact (ih (offer k body h p)).trans (offer_links k body h p)
@[simp] theorem notify_lights (ps : List Port) (k : NoticeKind) (body : List Byte) (h : Hub) :
    (notify ps k body h).lights = h.lights := by
  induction ps generalizing h with
  | nil => rfl
  | cons p ps ih => exact (ih (offer k body h p)).trans (offer_lights k body h p)
@[simp] theorem notify_curves (ps : List Port) (k : NoticeKind) (body : List Byte) (h : Hub) :
    (notify ps k body h).curves = h.curves := by
  induction ps generalizing h with
  | nil => rfl
  | cons p ps ih => exact (ih (offer k body h p)).trans (offer_curves k body h p)
@[simp] theorem notify_dram (ps : List Port) (k : NoticeKind) (body : List Byte) (h : Hub) :
    (notify ps k body h).dram = h.dram := by
  induction ps generalizing h with
  | nil => rfl
  | cons p ps ih => exact (ih (offer k body h p)).trans (offer_dram k body h p)
@[simp] theorem handPacket_starting (l : Fin 6) (k : Packet) (h : Hub) : (handPacket l k h).starting = h.starting := rfl
@[simp] theorem handPacket_cause (l : Fin 6) (k : Packet) (h : Hub) : (handPacket l k h).cause = h.cause := rfl
@[simp] theorem handPacket_ticks (l : Fin 6) (k : Packet) (h : Hub) : (handPacket l k h).ticks = h.ticks := rfl
@[simp] theorem handPacket_levelDue (l : Fin 6) (k : Packet) (h : Hub) : (handPacket l k h).levelDue = h.levelDue := rfl
@[simp] theorem handPacket_windowDue (l : Fin 6) (k : Packet) (h : Hub) : (handPacket l k h).windowDue = h.windowDue := rfl
@[simp] theorem handPacket_conversionDue (l : Fin 6) (k : Packet) (h : Hub) : (handPacket l k h).conversionDue = h.conversionDue := rfl
@[simp] theorem handPacket_free (l : Fin 6) (k : Packet) (h : Hub) : (handPacket l k h).free = h.free := rfl
@[simp] theorem handPacket_captures (l : Fin 6) (k : Packet) (h : Hub) : (handPacket l k h).captures = h.captures := rfl
@[simp] theorem handPacket_slots (l : Fin 6) (k : Packet) (h : Hub) : (handPacket l k h).slots = h.slots := rfl
@[simp] theorem handPacket_plates (l : Fin 6) (k : Packet) (h : Hub) : (handPacket l k h).plates = h.plates := rfl
@[simp] theorem handPacket_screens (l : Fin 6) (k : Packet) (h : Hub) : (handPacket l k h).screens = h.screens := rfl
@[simp] theorem handPacket_groups (l : Fin 6) (k : Packet) (h : Hub) : (handPacket l k h).groups = h.groups := rfl
@[simp] theorem handPacket_buffers (l : Fin 6) (k : Packet) (h : Hub) : (handPacket l k h).buffers = h.buffers := rfl
@[simp] theorem handPacket_lastServed (l : Fin 6) (k : Packet) (h : Hub) : (handPacket l k h).lastServed = h.lastServed := rfl
@[simp] theorem handPacket_links (l : Fin 6) (k : Packet) (h : Hub) : (handPacket l k h).links = upd h.links l fun x => { x with control := x.control ++ [k] } := rfl
@[simp] theorem handPacket_lights (l : Fin 6) (k : Packet) (h : Hub) : (handPacket l k h).lights = h.lights := rfl
@[simp] theorem handPacket_curves (l : Fin 6) (k : Packet) (h : Hub) : (handPacket l k h).curves = h.curves := rfl
@[simp] theorem handPacket_portA (l : Fin 6) (k : Packet) (h : Hub) : (handPacket l k h).portA = h.portA := rfl
@[simp] theorem handPacket_portB (l : Fin 6) (k : Packet) (h : Hub) : (handPacket l k h).portB = h.portB := rfl
@[simp] theorem handPacket_dram (l : Fin 6) (k : Packet) (h : Hub) : (handPacket l k h).dram = h.dram := rfl

end Sys2Proof.Machine
end

