-- ==== Sys2Proof/Laws/Abort.lean ====
section
/-! SUPPORT. What notices, replies and the abort of a screen can do (R165, R167, R79). -/

namespace Sys2Proof.Machine

/-! ### Notices and replies -/

/-- R167: a notice offered to a port changes its notice queue and its lost flag at most. -/
theorem offer_only (x : PortState) (k : NoticeKind) (body : List Byte) :
    ∃ ns lost, x.offer k body = { x with notices := ns, lost := lost } := by
  unfold PortState.offer
  split
  · exact ⟨_, _, rfl⟩
  · split <;> exact ⟨_, _, rfl⟩

/-- R168: notices change the notice queues and lost flags of the ports at most. -/
theorem notify_only (ports : List Port) (k : NoticeKind) (body : List Byte) (h : Hub) :
    ∃ na la nb lb, notify ports k body h =
      { h with
        portA := { h.portA with notices := na, lost := la }
        portB := { h.portB with notices := nb, lost := lb } } := by
  unfold notify
  induction ports generalizing h with
  | nil => exact ⟨_, _, _, _, rfl⟩
  | cons p ports ih =>
    rw [List.foldl_cons]
    obtain ⟨na, la, nb, lb, e⟩ := ih (offer k body h p)
    rw [e]
    cases p with
    | a =>
      obtain ⟨ns, lost, ho⟩ := offer_only h.portA k body
      refine ⟨na, la, nb, lb, ?_⟩
      simp only [offer, Hub.modPort, ho]
    | b =>
      obtain ⟨ns, lost, ho⟩ := offer_only h.portB k body
      refine ⟨na, la, nb, lb, ?_⟩
      simp only [offer, Hub.modPort, ho]

/-! ### Abort -/

/-- R79: what an abort makes of its screen's slot, but for the screen state, which the caller sets. -/
def Screen.aborted (x : Screen) : Screen :=
  { x with
    entries := x.entries.map fun _ => Entry.absent
    engine :=
      { x.engine with
        cycle := none, showCount := 0, showTimer := none, lossWait := false, promptStart := false
        joinedSurfaces := Vector.replicate 2 false, joinedPlates := Vector.replicate 16 false } }

/-- The two links differ in their packets, their buffers' queues and the timers of their rows at most. -/
def Link.Aborted (x y : Link) : Prop :=
  y = { x with control := y.control, line := y.line, rows := y.rows, tiles := y.tiles, sentOrder := y.sentOrder } ∧
    (∀ a : Fin 2, y.rows[a].assignment = x.rows[a].assignment ∧ y.rows[a].credit = x.rows[a].credit) ∧
    (x.control = [] → y.control = []) ∧ (x.line = none → y.line = none)

theorem Link.Aborted.refl (x : Link) : Link.Aborted x x := ⟨rfl, fun _ => ⟨rfl, rfl⟩, id, id⟩

theorem Link.Aborted.trans {x y z : Link} (a : Link.Aborted x y) (b : Link.Aborted y z) : Link.Aborted x z := by
  refine ⟨?_, fun i => ⟨(b.2.1 i).1.trans (a.2.1 i).1, (b.2.1 i).2.trans (a.2.1 i).2⟩, fun e => b.2.2.1 (a.2.2.1 e),
    fun e => b.2.2.2 (a.2.2.2 e)⟩
  rw [b.1, a.1]

/-- What an abort of screen `n` leaves alone. -/
structure Aborted (n : Fin 8) (h k : Hub) : Prop where
  others : ∀ m : Fin 8, m ≠ n → k.screens[m] = h.screens[m]
  links : ∀ l : Fin 6, Link.Aborted h.links[l] k.links[l]
  buffers : ∀ (b : Fin 32) (y : Lend), k.buffers[b] = some y → ∃ x, h.buffers[b] = some x ∧ y.link = x.link ∧ y.row = x.row
  captures : k.captures = h.captures
  lights : k.lights = h.lights
  curves : k.curves = h.curves
  dram : k.dram = h.dram
  portA : k.portA = h.portA
  portB : k.portB = h.portB

namespace Aborted

theorem refl (n : Fin 8) (h : Hub) : Aborted n h h :=
  ⟨fun _ _ => rfl, fun _ => Link.Aborted.refl _, fun _ y e => ⟨y, e, rfl, rfl⟩, rfl, rfl, rfl, rfl, rfl, rfl⟩

theorem trans {n : Fin 8} {h k m : Hub} (a : Aborted n h k) (b : Aborted n k m) : Aborted n h m := by
  refine ⟨fun i hi => (b.others i hi).trans (a.others i hi), fun l => (a.links l).trans (b.links l), fun i z e => ?_,
    b.captures.trans a.captures, b.lights.trans a.lights, b.curves.trans a.curves, b.dram.trans a.dram,
    b.portA.trans a.portA, b.portB.trans a.portB⟩
  obtain ⟨y, hy, h1, h2⟩ := b.buffers i z e
  obtain ⟨x, hx, h3, h4⟩ := a.buffers i y hy
  exact ⟨x, hx, h1.trans h3, h2.trans h4⟩

theorem modScreen (n : Fin 8) (h : Hub) (f : Screen → Screen) : Aborted n h (h.modScreen n f) :=
  { refl n h with others := fun _ hm => upd_get_other _ _ (Ne.symm hm) }

theorem modLink (n : Fin 8) (h : Hub) (l : Fin 6) {f : Link → Link} (hf : Link.Aborted h.links[l] (f h.links[l])) :
    Aborted n h (h.modLink l f) := by
  refine { refl n h with links := fun i => ?_ }
  show Link.Aborted _ (upd h.links l f)[i]
  rw [upd_get]
  split
  · next e => subst e; exact hf
  · exact Link.Aborted.refl _

theorem freeBuffer (n : Fin 8) (h : Hub) (b : Fin 32) : Aborted n h (freeBuffer b h) := by
  refine { refl n h with links := fun l => ?_, buffers := fun i y e => ?_ }
  · have e : (Machine.freeBuffer b h).links[l] =
        { h.links[l] with
          tiles := h.links[l].tiles.filter (· != b), sentOrder := h.links[l].sentOrder.filter (· != b) } := by
      simp [Machine.freeBuffer]
    rw [e]
    exact ⟨rfl, fun _ => ⟨rfl, rfl⟩, id, id⟩
  · have e' : (h.buffers.set b none)[i] = some y := e
    by_cases hb : b = i
    · subst hb
      simp at e'
    · rw [show (h.buffers.set b none)[i] = h.buffers[i] by simp [Fin.val_ne_of_ne hb]] at e'
      exact ⟨y, e', rfl, rfl⟩

theorem modBuffer (n : Fin 8) (h : Hub) (b : Fin 32) (f : Lend → Lend) (hl : ∀ x, (f x).link = x.link)
    (hr : ∀ x, (f x).row = x.row) : Aborted n h (h.modBuffer b f) := by
  refine { refl n h with buffers := fun i y e => ?_ }
  have e' : (upd h.buffers b fun x => x.map f)[i] = some y := e
  rw [upd_get] at e'
  split at e'
  · obtain ⟨x, hx, rfl⟩ := Option.map_eq_some_iff.1 e'
    exact ⟨x, hx, hl x, hr x⟩
  · exact ⟨y, e', rfl, rfl⟩

theorem foldl {α : Type} {n : Fin 8} {f : Hub → α → Hub} (hf : ∀ h a, Aborted n h (f h a)) (l : List α) (h : Hub) :
    Aborted n h (l.foldl f h) := by
  induction l generalizing h with
  | nil => exact refl n h
  | cons a l ih => exact (hf h a).trans (ih _)

end Aborted

theorem voidBuffer_aborted (n : Fin 8) (h : Hub) (b : Fin 32) : Aborted n h (voidBuffer n h b) := by
  unfold voidBuffer
  split
  · exact Aborted.refl n h
  · split
    · split
      · exact Aborted.freeBuffer n h b
      · exact Aborted.modBuffer n h b _ (fun _ => rfl) fun _ => rfl
    · exact Aborted.refl n h

theorem voidBuffer_screens (n : Fin 8) (h : Hub) (b : Fin 32) : (voidBuffer n h b).screens = h.screens := by
  unfold voidBuffer
  split
  · rfl
  · split
    · split <;> rfl
    · rfl

theorem abortAtLink_aborted (n : Fin 8) (h : Hub) : Aborted n h (abortAtLink n h) := by
  unfold abortAtLink
  split
  · exact Aborted.refl n h
  · next l a _ =>
    refine Aborted.modLink n h l ⟨rfl, fun b => ?_, fun e => ?_, fun e => ?_⟩
    · dsimp only
      rw [upd_get]
      split <;> exact ⟨rfl, rfl⟩
    · dsimp only
      rw [e]
      rfl
    · dsimp only
      rw [e]
      rfl

theorem leaveSources_aborted (n : Fin 8) (h : Hub) : Aborted n h (leaveSources n h) := by
  unfold leaveSources
  exact Aborted.trans (k := { h with
    slots := h.slots.map fun (v : Vector Slot 3) => v.map (Slot.leave n)
    plates := h.plates.map fun (x : Plate) => { x with copies := x.copies.map (PlateCopy.leave n) } })
    { Aborted.refl n h with } (Aborted.modScreen n _ _)

theorem allAbsent_aborted (n : Fin 8) (h : Hub) : Aborted n h (allAbsent n h) := Aborted.modScreen n h _

theorem leaveRunning_aborted (n : Fin 8) (h : Hub) : Aborted n h (leaveRunning n h) := { Aborted.refl n h with }

/-- R79: what an abort can do. -/
theorem abort_aborted (n : Fin 8) (h : Hub) : Aborted n h (abort n h) :=
  (abortAtLink_aborted n h).trans ((leaveSources_aborted n _).trans
    ((Aborted.foldl (voidBuffer_aborted n) allBuffers _).trans ((allAbsent_aborted n _).trans
      ((Aborted.modScreen n _ _).trans (leaveRunning_aborted n _)))))

theorem foldl_voidBuffer_screens (n : Fin 8) (l : List (Fin 32)) (h : Hub) :
    (l.foldl (voidBuffer n) h).screens = h.screens := by
  induction l generalizing h with
  | nil => rfl
  | cons b l ih => rw [List.foldl_cons, ih, voidBuffer_screens]

theorem abortAtLink_screens (n : Fin 8) (h : Hub) : (abortAtLink n h).screens = h.screens := by
  unfold abortAtLink
  split <;> rfl

theorem leaveRunning_screens (n : Fin 8) (h : Hub) : (leaveRunning n h).screens = h.screens := rfl

/-- R79: the aborted screen's slot. -/
theorem abort_screen (n : Fin 8) (h : Hub) : (abort n h).screens[n] = h.screens[n].aborted := by
  unfold abort
  dsimp only
  rw [leaveRunning_screens, Hub.modEngine_screens, upd_get_same, allAbsent, modEntries, Hub.modScreen_screens, upd_get_same,
    foldl_voidBuffer_screens, leaveSources, Hub.modEngine_screens, upd_get_same, abortAtLink_screens]
  rfl

end Sys2Proof.Machine
end

