-- ==== Sys2Proof/Laws/Lost.lean ====
section
/-! SUPPORT. What a notice does to one port (R167, R168), and what an abort and a loss make of buffers, reader sets,
running sets and the row of the address (R79, R101, R104, R120). -/

namespace Sys2Proof.Machine

/-! ### Notices, port by port -/

/-- R168: each port that is named takes the notice by itself, the other stays as it was. -/
theorem notify_port (ports : List Port) (hn : ports.Nodup) (k : NoticeKind) (body : List Byte) (h : Hub) (p : Port) :
    (notify ports k body h).port p = if p ∈ ports then (h.port p).offer k body else h.port p := by
  unfold notify
  induction ports generalizing h with
  | nil => rfl
  | cons q l ih =>
    rw [List.foldl_cons, ih hn.tail]
    have hq := (List.nodup_cons.1 hn).1
    by_cases e : p = q
    · subst e
      rw [if_neg hq, if_pos (by simp)]
      cases p <;> rfl
    · have : (offer k body h q).port p = h.port p := by cases p <;> cases q <;> first | rfl | exact absurd rfl e
      rw [this]
      simp [e]

theorem ownerOrBoth_nodup (o : Option Port) : (ownerOrBoth o).Nodup := by cases o <;> simp [ownerOrBoth, bothPorts]

/-- R168: the owner, or both ports without one. -/
theorem mem_ownerOrBoth (o : Option Port) (p : Port) : p ∈ ownerOrBoth o ↔ o = some p ∨ o = none := by
  cases o with
  | none => cases p <;> simp [ownerOrBoth, bothPorts]
  | some q => simp [ownerOrBoth, eq_comm]

/-- A notice and a change of a link commute. -/
theorem notify_modLink (ports : List Port) (k : NoticeKind) (body : List Byte) (h : Hub) (l : Fin 6)
    (f : Link → Link) : (notify ports k body h).modLink l f = notify ports k body (h.modLink l f) := by
  unfold notify
  induction ports generalizing h with
  | nil => rfl
  | cons p ps ih =>
    rw [List.foldl_cons, List.foldl_cons, ih]
    cases p <;> rfl

/-! ### Buffers at an abort -/

/-- R101: what an abort of the screen makes of one buffer. -/
def voidedLend (n : Fin 8) (x : Option Lend) : Option Lend :=
  match x with
  | none => none
  | some y =>
    if y.screen = n then
      if y.phase = .queued ∧ y.inTransmission = false then none else some { y with voided := true }
    else some y

theorem voidBuffer_at (n : Fin 8) (h : Hub) (b i : Fin 32) :
    (voidBuffer n h b).buffers[i] = if b = i then voidedLend n h.buffers[i] else h.buffers[i] := by
  unfold voidBuffer voidedLend
  by_cases e : b = i
  · subst e
    rw [if_pos rfl]
    cases hb : h.buffers[b] with
    | none => exact hb
    | some x =>
      simp only
      split
      · by_cases hq : x.phase = .queued ∧ x.inTransmission = false
        · rw [if_pos hq, if_pos (by simpa using hq)]
          simp [freeBuffer]
        · rw [if_neg hq, if_neg (by simpa using hq), Hub.modBuffer]
          simp only [upd_get_same]
          rw [hb]
          rfl
      · exact hb
  · rw [if_neg e]
    split
    · rfl
    · split
      · split
        · simp [freeBuffer, Fin.val_ne_of_ne e]
        · rw [Hub.modBuffer]
          exact upd_get_other _ _ e
      · rfl

theorem foldl_voidBuffer_at (n : Fin 8) (l : List (Fin 32)) (hn : l.Nodup) (h : Hub) (i : Fin 32) :
    (l.foldl (voidBuffer n) h).buffers[i] = if i ∈ l then voidedLend n h.buffers[i] else h.buffers[i] := by
  induction l generalizing h with
  | nil => rfl
  | cons b l ih =>
    rw [List.foldl_cons, ih hn.tail, voidBuffer_at]
    by_cases e : b = i
    · subst e
      rw [if_neg (List.nodup_cons.1 hn).1, if_pos rfl, if_pos (by simp)]
    · rw [if_neg e]
      simp [Ne.symm e]

/-- R101: every buffer after an abort. -/
theorem abort_buffers (n : Fin 8) (h : Hub) (b : Fin 32) : (abort n h).buffers[b] = voidedLend n h.buffers[b] := by
  have e : (leaveSources n (abortAtLink n h)).buffers = h.buffers := by
    simp only [leaveSources, Hub.modEngine_buffers]
    unfold abortAtLink
    split <;> rfl
  unfold abort
  dsimp only
  simp only [leaveRunning, Hub.modEngine_buffers, allAbsent, modEntries, Hub.modScreen_buffers]
  rw [foldl_voidBuffer_at n _ (by decide), if_pos ((by decide : ∀ b, b ∈ allBuffers) b), e]

/-! ### The rest of an abort -/

theorem abort_port (n : Fin 8) (h : Hub) (p : Port) : (abort n h).port p = h.port p := by
  have := abort_aborted n h
  cases p
  · exact this.portA
  · exact this.portB

/-- R79, R85: the screen leaves every running set. -/
theorem abort_running (n : Fin 8) (h : Hub) (g : Fin 4) : (abort n h).groups[g].running[n] = false := by
  simp [abort, leaveRunning]

theorem voidBuffer_slots (n : Fin 8) (h : Hub) (b : Fin 32) :
    (voidBuffer n h b).slots = h.slots ∧ (voidBuffer n h b).plates = h.plates := by
  unfold voidBuffer
  split
  · exact ⟨rfl, rfl⟩
  · split
    · split <;> exact ⟨rfl, rfl⟩
    · exact ⟨rfl, rfl⟩

/-- R79, R71: slots and plates after an abort are as after a leave. -/
theorem abort_sources (n : Fin 8) (h : Hub) :
    (abort n h).slots = (leaveSources n h).slots ∧ (abort n h).plates = (leaveSources n h).plates := by
  have v : ∀ (l : List (Fin 32)) (h : Hub),
      (l.foldl (voidBuffer n) h).slots = h.slots ∧ (l.foldl (voidBuffer n) h).plates = h.plates := by
    intro l
    induction l with
    | nil => exact fun h => ⟨rfl, rfl⟩
    | cons b l ih => exact fun h => ⟨(ih _).1.trans (voidBuffer_slots n h b).1, (ih _).2.trans (voidBuffer_slots n h b).2⟩
  have a : (abortAtLink n h).slots = h.slots ∧ (abortAtLink n h).plates = h.plates := by
    unfold abortAtLink
    split <;> exact ⟨rfl, rfl⟩
  unfold abort
  dsimp only
  constructor
  · simp only [leaveRunning, Hub.modEngine_slots, allAbsent, modEntries, Hub.modScreen_slots, (v _ _).1, leaveSources, a.1]
  · simp only [leaveRunning, Hub.modEngine_plates, allAbsent, modEntries, Hub.modScreen_plates, (v _ _).2, leaveSources,
      a.2]

theorem foldl_voidBuffer_rows (n : Fin 8) (l : Fin 6) (bs : List (Fin 32)) (h : Hub) :
    (bs.foldl (voidBuffer n) h).links[l].rows = h.links[l].rows ∧
      (bs.foldl (voidBuffer n) h).links[l].line = h.links[l].line := by
  induction bs generalizing h with
  | nil => exact ⟨rfl, rfl⟩
  | cons b t ih =>
    have e : (voidBuffer n h b).links[l].rows = h.links[l].rows ∧ (voidBuffer n h b).links[l].line = h.links[l].line := by
      unfold voidBuffer
      split
      · exact ⟨rfl, rfl⟩
      · split
        · split
          · simp [freeBuffer]
          · exact ⟨rfl, rfl⟩
        · exact ⟨rfl, rfl⟩
    rw [List.foldl_cons, (ih _).1, (ih _).2]
    exact e

/-- What an abort makes of a link's rows and line it makes at the link (R79). -/
theorem abort_atLink (n : Fin 8) (h : Hub) (l : Fin 6) :
    (abort n h).links[l].rows = (abortAtLink n h).links[l].rows ∧
      (abort n h).links[l].line = (abortAtLink n h).links[l].line := by
  unfold abort
  dsimp only
  simp only [leaveRunning, Hub.modEngine_links, allAbsent, modEntries, Hub.modScreen_links,
    (foldl_voidBuffer_rows n l _ _).1, (foldl_voidBuffer_rows n l _ _).2, leaveSources, and_self]

/-- R79: the timers of the screen's address stop, the other row stays. -/
theorem abort_rows {n : Fin 8} {h : Hub} {l : Fin 6} {a : Fin 2} (he : addressOf h n = some (l, a)) :
    (abort n h).links[l].rows[a] =
        { h.links[l].rows[a] with silence := none, pollWait := none, pollAwaited := false } ∧
      (abort n h).links[l].rows[other a] = h.links[l].rows[other a] := by
  have f : (abortAtLink n h).links[l].rows =
      upd h.links[l].rows a fun r => { r with silence := none, pollWait := none, pollAwaited := false } := by
    unfold abortAtLink
    rw [he]
    simp
  rw [(abort_atLink n h l).1, f]
  exact ⟨upd_get_same _ _ _, upd_get_other _ _ ((by decide : ∀ a : Fin 2, a ≠ other a) a)⟩

/-! ### The queues of the links at an abort -/

/-- R101: the buffer is freed at an abort of the screen. -/
def freedAtAbort (n : Fin 8) (x : Option Lend) : Bool :=
  match x with
  | some y => y.screen == n && y.phase == .queued && !y.inTransmission
  | none => false

/-- What `voidBuffer` does to a link: its two queues of buffers, and nothing else. -/
theorem voidBuffer_link (n : Fin 8) (h : Hub) (b : Fin 32) (l : Fin 6) :
    (voidBuffer n h b).links[l] =
      { h.links[l] with
        tiles := h.links[l].tiles.filter fun c => !(c == b && freedAtAbort n h.buffers[b])
        sentOrder := h.links[l].sentOrder.filter fun c => !(c == b && freedAtAbort n h.buffers[b]) } := by
  have none : ∀ (k : Link), k = { k with
      tiles := k.tiles.filter fun c => !(c == b && false), sentOrder := k.sentOrder.filter fun c => !(c == b && false) } := by
    intro k
    simp
  unfold voidBuffer
  cases hb : h.buffers[b] with
  | none => exact none _
  | some x =>
    dsimp only
    split
    · next hx =>
      split
      · next hq =>
        have : freedAtAbort n (some x) = true := by simpa [freedAtAbort, hx] using hq
        rw [this]
        simp [freeBuffer, bne]
      · next hq =>
        have : freedAtAbort n (some x) = false := by
          cases e : freedAtAbort n (some x) with
          | false => rfl
          | true => exact absurd (by simpa [freedAtAbort, hx] using e) hq
        rw [this]
        exact none _
    · next hx =>
      have : freedAtAbort n (some x) = false := by simp [freedAtAbort, hx]
      rw [this]
      exact none _

theorem foldl_voidBuffer_link (n : Fin 8) (l : Fin 6) (bs : List (Fin 32)) (hn : bs.Nodup) (h : Hub) :
    (bs.foldl (voidBuffer n) h).links[l] =
      { h.links[l] with
        tiles := h.links[l].tiles.filter fun c => !(bs.contains c && freedAtAbort n h.buffers[c])
        sentOrder := h.links[l].sentOrder.filter fun c => !(bs.contains c && freedAtAbort n h.buffers[c]) } := by
  induction bs generalizing h with
  | nil => simp
  | cons b t ih =>
    have f : ∀ q : List (Fin 32),
        (q.filter fun c => !(c == b && freedAtAbort n h.buffers[b])).filter
            (fun c => !(t.contains c && freedAtAbort n (voidBuffer n h b).buffers[c])) =
          q.filter fun c => !((b :: t).contains c && freedAtAbort n h.buffers[c]) := by
      intro q
      rw [List.filter_filter]
      congr 1
      funext c
      rw [voidBuffer_at, List.contains_cons]
      by_cases e : c = b
      · subst e
        have : t.contains c = false := by simpa using (List.nodup_cons.1 hn).1
        rw [this, beq_self_eq_true]
        simp only [Bool.false_and, Bool.not_false, Bool.true_and, Bool.true_or]
      · rw [if_neg (Ne.symm e), beq_eq_false_iff_ne.2 e]
        simp only [Bool.false_and, Bool.not_false, Bool.and_true, Bool.false_or]
    rw [List.foldl_cons, ih hn.tail, voidBuffer_link]
    simp only [f]

/-- R79, R101: every link after an abort: what `abortAtLink` makes of it, the freed buffers out of its queues. -/
theorem abort_link (n : Fin 8) (h : Hub) (l : Fin 6) :
    (abort n h).links[l] =
      { (abortAtLink n h).links[l] with
        tiles := h.links[l].tiles.filter fun c => !freedAtAbort n h.buffers[c]
        sentOrder := h.links[l].sentOrder.filter fun c => !freedAtAbort n h.buffers[c] } := by
  have q : (abortAtLink n h).links[l].tiles = h.links[l].tiles ∧
      (abortAtLink n h).links[l].sentOrder = h.links[l].sentOrder := by
    unfold abortAtLink
    split
    · exact ⟨rfl, rfl⟩
    · rw [Hub.modLink_links, upd_get]
      split
      · next e =>
        subst e
        exact ⟨rfl, rfl⟩
      · exact ⟨rfl, rfl⟩
  have bf : (leaveSources n (abortAtLink n h)).buffers = h.buffers := by
    simp only [leaveSources, Hub.modEngine_buffers]
    unfold abortAtLink
    split <;> rfl
  have all : ∀ c : Fin 32, allBuffers.contains c = true := by decide
  unfold abort
  dsimp only
  simp only [leaveRunning, Hub.modEngine_links, allAbsent, modEntries, Hub.modScreen_links]
  rw [foldl_voidBuffer_link n l _ (by decide), bf]
  simp only [all, Bool.true_and, leaveSources, Hub.modEngine_links, q.1, q.2]

/-! ### Becoming Lost -/

/-- R104: the slot of a screen that became Lost; every other slot stays. -/
theorem becomeLost_screens (n : Fin 8) (r : LostReason) (h : Hub) :
    (becomeLost n r h).screens[n] = { h.screens[n].aborted with state := .lost } ∧
      ∀ m : Fin 8, m ≠ n → (becomeLost n r h).screens[m] = h.screens[m] := by
  have same := abort_screen n h
  have others := (abort_aborted n h).others
  unfold becomeLost
  generalize abort n h = k at *
  have s : ∀ k' : Hub, k'.screens = (setScreenState n .lost k).screens →
      k'.screens[n] = { h.screens[n].aborted with state := .lost } ∧ ∀ m : Fin 8, m ≠ n → k'.screens[m] = h.screens[m] := by
    intro k' e
    have e' : k'.screens = upd k.screens n fun x => { x with state := .lost } := e
    constructor
    · rw [e', upd_get_same, same]
    · intro m hm
      rw [e', upd_get_other _ _ (Ne.symm hm), others m hm]
  apply s
  dsimp only
  rw [notify_screens]
  cases addressOf h n <;> rfl

/-- R79, R85, R101: slots, plates, buffers, running sets and pixels at a loss are as after the abort. -/
theorem becomeLost_rest (n : Fin 8) (r : LostReason) (h : Hub) :
    (becomeLost n r h).slots = (leaveSources n h).slots ∧ (becomeLost n r h).plates = (leaveSources n h).plates ∧
      (∀ b : Fin 32, (becomeLost n r h).buffers[b] = voidedLend n h.buffers[b]) ∧
      (∀ g : Fin 4, (becomeLost n r h).groups[g].running[n] = false) ∧ (becomeLost n r h).dram = h.dram := by
  have e := abort_sources n h
  have buffers := abort_buffers n h
  have running := abort_running n h
  have dram := (abort_aborted n h).dram
  unfold becomeLost
  generalize abort n h = k at *
  dsimp only
  simp only [notify_slots, notify_plates, notify_buffers, notify_groups, notify_dram]
  cases addressOf h n <;> exact ⟨e.1, e.2, buffers, running, dram⟩

/-- Every link after a screen became Lost: as after the abort, the lost poll timer of its address running (R120). -/
theorem becomeLost_link (n : Fin 8) (r : LostReason) (h : Hub) (l : Fin 6) :
    (becomeLost n r h).links[l] =
      match addressOf h n with
      | some (m, a) =>
        if m = l then
          { (abort n h).links[l] with
            rows := upd (abort n h).links[l].rows a fun w => { w with lostPoll := some Config.lostPollTicks } }
        else (abort n h).links[l]
      | none => (abort n h).links[l] := by
  unfold becomeLost
  generalize abort n h = k
  dsimp only
  rw [notify_links]
  cases addressOf h n with
  | none => rfl
  | some x =>
    obtain ⟨m, a⟩ := x
    simp only [Hub.modRow, Hub.modLink_links]
    rw [upd_get]
    split
    · next e =>
      subst e
      rfl
    · rfl

/-- R79: the link of the screen's address at an abort. -/
theorem abortAtLink_link {n : Fin 8} {h : Hub} {l : Fin 6} {a : Fin 2} (he : addressOf h n = some (l, a)) :
    (abortAtLink n h).links[l] =
      { h.links[l] with
        control := (h.links[l].control.filter fun p => !p.removedAtAbort a).map (Packet.disarm n a)
        line := h.links[l].line.map fun o => { o with packet := o.packet.disarm n a }
        rows := upd h.links[l].rows a fun r => { r with silence := none, pollWait := none, pollAwaited := false } } := by
  unfold abortAtLink
  rw [he]
  exact upd_get_same _ _ _

/-- R79: every other link at an abort. -/
theorem abortAtLink_other {n : Fin 8} {h : Hub} {l : Fin 6} (he : ∀ a, addressOf h n ≠ some (l, a)) :
    (abortAtLink n h).links[l] = h.links[l] := by
  unfold abortAtLink
  split
  · rfl
  · next m a e =>
    have : m ≠ l := by
      rintro rfl
      exact he a e
    exact upd_get_other _ _ this

end Sys2Proof.Machine
end

