-- ==== Sys2Proof/Laws/Cleared.lean ====
section
/-! SUPPORT. What the aborts of several screens at one event do together (R79, R101), as one fold: `AbortedAll` says it
once, `abortAll` is its only proof, and a disable, a reset (`clear_abortedAll`) and a park (`park_abortedAll`) cite it. -/

namespace Sys2Proof.Machine

/-- R101: what the aborts of the screens make of one buffer. -/
def voidedAll (ns : List (Fin 8)) (x : Option Lend) : Option Lend :=
  match x with
  | none => none
  | some y =>
    if y.screen ∈ ns then if y.phase = .queued ∧ y.inTransmission = false then none else some { y with voided := true }
    else some y

/-- R101: the buffer stays in its queues. -/
def keptAll (ns : List (Fin 8)) (x : Option Lend) : Bool :=
  match x with
  | none => true
  | some y => !(ns.contains y.screen && y.phase == .queued && !y.inTransmission)

theorem voidedAll_cons {n : Fin 8} {ns : List (Fin 8)} (hn : n ∉ ns) (x : Option Lend) :
    voidedAll ns (voidedLend n x) = voidedAll (n :: ns) x := by
  cases x with
  | none => rfl
  | some y =>
    by_cases e : y.screen = n
    · by_cases q : y.phase = .queued ∧ y.inTransmission = false
      · simp [voidedLend, voidedAll, e, q]
      · simp [voidedLend, voidedAll, e, q, hn]
    · simp [voidedLend, voidedAll, e]

theorem keptAll_cons {n : Fin 8} {ns : List (Fin 8)} (hn : n ∉ ns) (x : Option Lend) :
    (!freedAtAbort n x && keptAll ns (voidedLend n x)) = keptAll (n :: ns) x := by
  cases x with
  | none => rfl
  | some y =>
    by_cases e : y.screen = n
    · by_cases q : y.phase = .queued ∧ y.inTransmission = false
      · simp [freedAtAbort, voidedLend, keptAll, e, q]
      · simp [freedAtAbort, voidedLend, keptAll, e, q, hn]
    · have : (y.screen == n) = false := by simpa using e
      simp [freedAtAbort, voidedLend, keptAll, e]

/-- What an abort changes at most. -/
def Rest (h k : Hub) : Prop :=
  k = { h with
    slots := k.slots, plates := k.plates, screens := k.screens, groups := k.groups, buffers := k.buffers,
    links := k.links }

theorem Rest.refl (h : Hub) : Rest h h := rfl

theorem Rest.trans {h k m : Hub} (a : Rest h k) (b : Rest k m) : Rest h m := by
  unfold Rest at a b ⊢
  refine b.trans ?_
  rw [a]

theorem Rest.foldl {α : Type} {f : Hub → α → Hub} (hf : ∀ h a, Rest h (f h a)) (l : List α) (h : Hub) :
    Rest h (l.foldl f h) := by
  induction l generalizing h with
  | nil => exact Rest.refl h
  | cons a l ih => exact (hf h a).trans (ih _)

/-- What the aborts of the screens `ns` do, each of which then becomes what `f` says. -/
structure AbortedAll (ns : List (Fin 8)) (f : Screen → Screen) (h k : Hub) : Prop where
  rest : Rest h k
  slots : k.slots = (ns.foldl (fun h n => leaveSources n h) h).slots
  plates : k.plates = (ns.foldl (fun h n => leaveSources n h) h).plates
  screens : ∀ m : Fin 8, k.screens[m] = if m ∈ ns then f h.screens[m].aborted else h.screens[m]
  groups : ∀ g : Fin 4, k.groups[g] = { h.groups[g] with running := k.groups[g].running }
  running : ∀ (g : Fin 4) (m : Fin 8), k.groups[g].running[m] = (h.groups[g].running[m] && !ns.contains m)
  buffers : ∀ b : Fin 32, k.buffers[b] = voidedAll ns h.buffers[b]
  links : ∀ l : Fin 6, Link.Aborted h.links[l] k.links[l]
  tiles : ∀ l : Fin 6, k.links[l].tiles = h.links[l].tiles.filter fun b => keptAll ns h.buffers[b]
  sentOrder : ∀ l : Fin 6, k.links[l].sentOrder = h.links[l].sentOrder.filter fun b => keptAll ns h.buffers[b]
  line : ∀ l : Fin 6, k.links[l].line = none ↔ h.links[l].line = none
  rows : ∀ (l : Fin 6) (a : Fin 2), k.links[l].rows[a].stopTimers = h.links[l].rows[a].stopTimers
  elsewhere : ∀ l : Fin 6, (∀ n ∈ ns, h.screens[n].link ≠ some l) →
    k.links[l] = { h.links[l] with tiles := k.links[l].tiles, sentOrder := k.links[l].sentOrder }

/-! ### One abort -/

theorem voidBuffer_rest (n : Fin 8) (h : Hub) (b : Fin 32) : Rest h (voidBuffer n h b) := by
  unfold voidBuffer
  split
  · rfl
  · split
    · split <;> rfl
    · rfl

theorem abortAtLink_rest (n : Fin 8) (h : Hub) : Rest h (abortAtLink n h) := by
  unfold abortAtLink
  split <;> rfl

theorem leaveSources_rest (n : Fin 8) (h : Hub) : Rest h (leaveSources n h) := by
  unfold leaveSources
  rfl

theorem modScreen_rest (n : Fin 8) (f : Screen → Screen) (h : Hub) : Rest h (h.modScreen n f) := rfl

theorem leaveRunning_rest (n : Fin 8) (h : Hub) : Rest h (leaveRunning n h) := rfl

theorem abort_rest (n : Fin 8) (h : Hub) : Rest h (abort n h) := by
  unfold abort
  exact (abortAtLink_rest n h).trans ((leaveSources_rest n _).trans ((Rest.foldl (voidBuffer_rest n) _ _).trans
    ((modScreen_rest n _ _).trans ((modScreen_rest n _ _).trans (leaveRunning_rest n _)))))

theorem foldl_voidBuffer_groups (n : Fin 8) (bs : List (Fin 32)) (h : Hub) :
    (bs.foldl (voidBuffer n) h).groups = h.groups := by
  induction bs generalizing h with
  | nil => rfl
  | cons b t ih =>
    rw [List.foldl_cons, ih]
    unfold voidBuffer
    split
    · rfl
    · split
      · split <;> rfl
      · rfl

theorem abort_groups (n : Fin 8) (h : Hub) (g : Fin 4) :
    (abort n h).groups[g] = { h.groups[g] with running := h.groups[g].running.set n false } := by
  have a : (abortAtLink n h).groups = h.groups := by
    unfold abortAtLink
    split <;> rfl
  unfold abort
  dsimp only
  simp [leaveRunning, allAbsent, modEntries, foldl_voidBuffer_groups, leaveSources, a]

theorem disarm_line (n : Fin 8) (h : Hub) (l : Fin 6) : (abort n h).links[l].line = none ↔ h.links[l].line = none := by
  rw [(abort_atLink n h l).2]
  unfold abortAtLink
  split
  · rfl
  · rw [Hub.modLink_links, upd_get]
    split
    · next e =>
      subst e
      exact Option.map_eq_none_iff
    · rfl

theorem abort_stopped (n : Fin 8) (h : Hub) (l : Fin 6) (a : Fin 2) :
    (abort n h).links[l].rows[a].stopTimers = h.links[l].rows[a].stopTimers := by
  rw [(abort_atLink n h l).1]
  unfold abortAtLink
  split
  · rfl
  · rw [Hub.modLink_links, upd_get]
    split
    · next e =>
      subst e
      dsimp only
      rw [upd_get]
      split <;> rfl
    · rfl

/-- R79: an abort of a screen of another link leaves this link's packets and rows alone. -/
theorem abort_elsewhere {n : Fin 8} {h : Hub} {l : Fin 6} (hl : h.screens[n].link ≠ some l) :
    (abort n h).links[l] =
      { h.links[l] with tiles := (abort n h).links[l].tiles, sentOrder := (abort n h).links[l].sentOrder } := by
  have he : ∀ a, addressOf h n ≠ some (l, a) := by
    intro a e
    unfold addressOf at e
    split at e
    · exact absurd e (by simp)
    · next m hm =>
      have : m = l := by
        split at e
        · simpa using congrArg (Option.map Prod.fst) e
        · split at e
          · simpa using congrArg (Option.map Prod.fst) e
          · exact absurd e (by simp)
      exact hl (this ▸ hm)
  rw [abort_link, abortAtLink_other he]

/-! ### Several -/

theorem leaveSources_slots (n : Fin 8) {h k : Hub} (e : k.slots = h.slots) (p : k.plates = h.plates) :
    (leaveSources n k).slots = (leaveSources n h).slots ∧ (leaveSources n k).plates = (leaveSources n h).plates := by
  simp only [leaveSources, Hub.modEngine_slots, Hub.modEngine_plates, e, p, and_self]

theorem foldl_leaveSources_slots (ns : List (Fin 8)) {h k : Hub} (e : k.slots = h.slots) (p : k.plates = h.plates) :
    (ns.foldl (fun h n => leaveSources n h) k).slots = (ns.foldl (fun h n => leaveSources n h) h).slots ∧
      (ns.foldl (fun h n => leaveSources n h) k).plates = (ns.foldl (fun h n => leaveSources n h) h).plates := by
  induction ns generalizing h k with
  | nil => exact ⟨e, p⟩
  | cons n ns ih =>
    have := leaveSources_slots n e p
    exact ih this.1 this.2

/-- R79: one abort, followed by a change of its own slot. -/
theorem abort_abortedAll (n : Fin 8) (f : Screen → Screen) (h : Hub) :
    AbortedAll [n] f h ((abort n h).modScreen n f) := by
  have rest := abort_rest n h
  have sources := abort_sources n h
  have own := abort_screen n h
  have others := (abort_aborted n h).others
  have groups := abort_groups n h
  have buffers := abort_buffers n h
  have links := (abort_aborted n h).links
  have queues := abort_link n h
  have line := disarm_line n h
  have stopped := abort_stopped n h
  have far : ∀ l : Fin 6, h.screens[n].link ≠ some l → _ := fun l hl => abort_elsewhere (n := n) (h := h) (l := l) hl
  generalize abort n h = a at *
  have kept : ∀ b : Fin 32, (!freedAtAbort n h.buffers[b]) = keptAll [n] h.buffers[b] := by
    intro b
    rw [← keptAll_cons (by simp)]
    cases voidedLend n h.buffers[b] <;> simp [keptAll]
  refine ⟨rest.trans (modScreen_rest n f a), sources.1, sources.2, fun m => ?_, fun g => ?_, fun g m => ?_, fun b => ?_,
    links, fun l => ?_, fun l => ?_, line, stopped, fun l hl => far l (hl n (by simp))⟩
  · rw [Hub.modScreen_screens]
    by_cases e : m = n
    · subst e
      rw [if_pos (by simp), upd_get_same, own]
    · rw [if_neg (by simpa using e), upd_get_other _ _ (Ne.symm e), others m e]
  · rw [Hub.modScreen_groups, groups]
  · rw [Hub.modScreen_groups, groups]
    by_cases e : n = m
    · subst e
      simp
    · simp [Fin.val_ne_of_ne e, Ne.symm e]
  · rw [Hub.modScreen_buffers, buffers, ← voidedAll_cons (by simp)]
    cases voidedLend n h.buffers[b] <;> simp [voidedAll]
  · rw [Hub.modScreen_links, queues]
    simp only [kept]
  · rw [Hub.modScreen_links, queues]
    simp only [kept]

theorem AbortedAll.cons {n : Fin 8} {ns : List (Fin 8)} {f : Screen → Screen} {h k m : Hub} (hn : n ∉ ns)
    (a : AbortedAll [n] f h k) (b : AbortedAll ns f k m) : AbortedAll (n :: ns) f h m := by
  have other : ∀ i : Fin 8, i ≠ n → k.screens[i] = h.screens[i] := fun i e => by
    rw [a.screens i, if_neg (by simpa using e)]
  have one : ∀ x, voidedAll [n] x = voidedLend n x := by
    intro x
    rw [← voidedAll_cons (by simp)]
    cases voidedLend n x <;> simp [voidedAll]
  have kept : ∀ i : Fin 32,
      (keptAll [n] h.buffers[i] && keptAll ns k.buffers[i]) = keptAll (n :: ns) h.buffers[i] := by
    intro i
    rw [a.buffers i, one, ← keptAll_cons hn, ← keptAll_cons (ns := []) (by simp)]
    congr 1
    cases voidedLend n h.buffers[i] <;> simp [keptAll]
  have queue : ∀ q : List (Fin 32),
      (q.filter fun i => keptAll [n] h.buffers[i]).filter (fun i => keptAll ns k.buffers[i]) =
        q.filter fun i => keptAll (n :: ns) h.buffers[i] := by
    intro q
    rw [List.filter_filter]
    congr 1
    funext i
    rw [Bool.and_comm, kept]
  have left := foldl_leaveSources_slots ns (h := leaveSources n h) a.slots a.plates
  refine ⟨a.rest.trans b.rest, b.slots.trans left.1, b.plates.trans left.2, fun i => ?_, fun g => ?_, fun g i => ?_,
    fun i => ?_, fun l => (a.links l).trans (b.links l), fun l => ?_, fun l => ?_, fun l => (b.line l).trans (a.line l),
    fun l r => (b.rows l r).trans (a.rows l r), fun l hl => ?_⟩
  · rw [b.screens i]
    by_cases e : i = n
    · subst e
      rw [if_neg hn, a.screens i, if_pos (by simp), if_pos (by simp)]
    · rw [other i e]
      simp [e]
  · rw [b.groups g, a.groups g]
  · rw [b.running g i, a.running g i]
    simp [Bool.and_assoc]
  · rw [b.buffers i, a.buffers i, one, voidedAll_cons hn]
  · rw [b.tiles l, a.tiles l, queue]
  · rw [b.sentOrder l, a.sentOrder l, queue]
  · rw [b.elsewhere l fun i hi => ?_, a.elsewhere l fun i hi => ?_]
    · rw [List.mem_singleton.1 hi]
      exact hl n (by simp)
    · rw [other i (by rintro rfl; exact hn hi)]
      exact hl i (List.mem_cons_of_mem _ hi)

/-- R79: the aborts of several screens, each followed by a change of its own slot. -/
theorem abortAll (ns : List (Fin 8)) (hn : ns.Nodup) (f : Screen → Screen) (h : Hub) :
    AbortedAll ns f h (ns.foldl (fun h n => (abort n h).modScreen n f) h) := by
  induction ns generalizing h with
  | nil =>
    rw [List.foldl_nil]
    refine ⟨Rest.refl h, rfl, rfl, fun m => by simp, fun g => rfl, fun g m => by simp, fun b => ?_,
      fun l => Link.Aborted.refl _, fun l => ?_, fun l => ?_, fun l => Iff.rfl, fun l a => rfl, fun l _ => rfl⟩
    · cases h.buffers[b] <;> simp [voidedAll]
    all_goals
      refine (List.filter_eq_self.2 fun b _ => ?_).symm
      cases h.buffers[b] <;> simp [keptAll]
  | cons n ns ih =>
    rw [List.foldl_cons]
    have a := abort_abortedAll n f h
    generalize (abort n h).modScreen n f = k at a ⊢
    exact AbortedAll.cons (List.nodup_cons.1 hn).1 a (ih (List.nodup_cons.1 hn).2 k)

/-! ### The screens of a link -/

/-- A fold over the screens of a link that aborts some of them and leaves the others alone is the fold of the aborts. -/
theorem foldl_aborts {here aborts : Fin 8 → Bool} {f : Screen → Screen} {step : Hub → Fin 8 → Hub} {h : Hub}
    (sub : ∀ n, aborts n = true → here n = true)
    (yes : ∀ g n, g.screens[n] = h.screens[n] → aborts n = true → step g n = (abort n g).modScreen n f)
    (no : ∀ g n, g.screens[n] = h.screens[n] → here n = true → aborts n = false → step g n = g)
    (ns : List (Fin 8)) (hn : ns.Nodup) (k : Hub) (hk : ∀ n ∈ ns, k.screens[n] = h.screens[n]) :
    (ns.filter here).foldl step k = (ns.filter aborts).foldl (fun g n => (abort n g).modScreen n f) k := by
  induction ns generalizing k with
  | nil => rw [List.filter_nil, List.filter_nil, List.foldl_nil, List.foldl_nil]
  | cons n ns ih =>
    have far : ∀ m ∈ ns, m ≠ n := fun m hm e => (List.nodup_cons.1 hn).1 (e ▸ hm)
    have kn := hk n (List.mem_cons_self ..)
    have kt : ∀ m ∈ ns, k.screens[m] = h.screens[m] := fun m hm => hk m (List.mem_cons_of_mem _ hm)
    cases d : aborts n with
    | true =>
      rw [List.filter_cons_of_pos (sub n d), List.filter_cons_of_pos d, List.foldl_cons, List.foldl_cons, yes k n kn d]
      refine ih hn.tail _ fun m hm => ?_
      rw [Hub.modScreen_screens, upd_get_other _ _ (far m hm).symm, (abort_aborted n k).others m (far m hm)]
      exact kt m hm
    | false =>
      rw [List.filter_cons_of_neg (p := aborts) (by simp [d])]
      cases b : here n with
      | true =>
        rw [List.filter_cons_of_pos b, List.foldl_cons, no k n kn b d]
        exact ih hn.tail k kt
      | false =>
        rw [List.filter_cons_of_neg (p := here) (by simp [b])]
        exact ih hn.tail k kt

theorem allScreens_nodup : allScreens.Nodup := by decide

/-- R111 step 3, R112 step 3: what a disable and a reset do to the screens bound to the link. -/
theorem clear_abortedAll (l : Fin 6) (h : Hub) (drops : Fin 8 → Bool)
    (hd : ∀ n, drops n = true ↔ h.screens[n].link = some l ∧
      (h.screens[n].state = .joined ∨ h.screens[n].state = .lost ∨ h.screens[n].state = .parked)) :
    AbortedAll (allScreens.filter drops) (fun x => { x with state := .missing }) h (dropScreens l h) := by
  unfold dropScreens boundTo
  rw [foldl_aborts (h := h) (aborts := drops) (f := fun x => { x with state := .missing }) _ _ _ _ allScreens_nodup h
    fun _ _ => rfl]
  · exact abortAll _ (allScreens_nodup.filter _) _ h
  · intro n d
    obtain ⟨e, s⟩ := (hd n).1 d
    have b : h.screens[n].bound = true := by
      unfold Screen.bound
      rcases s with s | s | s <;> rw [s] <;> rfl
    rw [b, e]
    simp
  · intro g n e d
    rw [e, if_pos ((hd n).1 d).2]
    rfl
  · intro g n e b d
    rw [e, if_neg]
    intro s
    have : h.screens[n].link = some l := by simpa using (Bool.and_eq_true_iff.1 b).2
    exact absurd ((hd n).2 ⟨this, s⟩) (by simp [d])

/-- R124 step 2, R153: what a park does to the screens bound to the link. -/
theorem park_abortedAll (l : Fin 6) (h : Hub) (parks : Fin 8 → Bool)
    (hp : ∀ n, parks n = true ↔ h.screens[n].link = some l ∧
      (h.screens[n].state = .joined ∨ h.screens[n].state = .lost ∨ h.screens[n].state = .missing)) :
    AbortedAll (allScreens.filter parks)
      (fun x => { x with state := .parked, level := { x.level with current := 0 } }) h
      ((boundTo h l).foldl parkScreen h) := by
  unfold boundTo
  rw [foldl_aborts (h := h) (aborts := parks)
    (f := fun x => { x with state := .parked, level := { x.level with current := 0 } }) _ _ _ _ allScreens_nodup h
    fun _ _ => rfl]
  · exact abortAll _ (allScreens_nodup.filter _) _ h
  · intro n d
    obtain ⟨e, s⟩ := (hp n).1 d
    have b : h.screens[n].bound = true := by
      unfold Screen.bound
      rcases s with s | s | s <;> rw [s] <;> rfl
    rw [b, e]
    simp
  · intro g n e d
    unfold parkScreen
    rw [e, if_pos ((hp n).1 d).2]
    simp only [setScreenState, Hub.modLevel, Hub.modScreen, upd_upd]
  · intro g n e b d
    unfold parkScreen
    rw [e, if_neg]
    intro s
    have : h.screens[n].link = some l := by simpa using (Bool.and_eq_true_iff.1 b).2
    exact absurd ((hp n).2 ⟨this, s⟩) (by simp [d])

end Sys2Proof.Machine
end

