-- ==== Sys2Proof/Laws/Kept.lean ====
section
/-! SUPPORT. What the shared operations of the engines leave alone (`Hub.Kept`), once for each operation: leaving and
joining sources, aborts, cycle starts, SHOWs, grants, resets of a link, and the starts of transmissions. -/

namespace Sys2Proof.Machine

/-! ### The relation -/

theorem Screen.Kept.refl (x : Screen) : Screen.Kept x x := by simp [Screen.Kept]

theorem Screen.Kept.trans {x y z : Screen} (a : Screen.Kept x y) (b : Screen.Kept y z) : Screen.Kept x z := by
  unfold Screen.Kept at *
  simp_all

theorem Link.Kept.refl (x : Link) : Link.Kept x x := by simp [Link.Kept]

theorem Link.Kept.trans {x y z : Link} (a : Link.Kept x y) (b : Link.Kept y z) : Link.Kept x z := by
  unfold Link.Kept at *
  simp_all

theorem PortState.Kept.refl (x : PortState) : PortState.Kept x x := rfl

theorem PortState.Kept.trans {x y z : PortState} (a : PortState.Kept x y) (b : PortState.Kept y z) :
    PortState.Kept x z := by
  unfold PortState.Kept at *
  rw [b, a]

namespace Hub.Kept

theorem refl (h : Hub) : Hub.Kept h h :=
  { starting := rfl, cause := rfl, ticks := rfl, levelDue := rfl, windowDue := rfl, conversionDue := rfl, free := rfl,
    captures := rfl, lights := rfl, curves := rfl, plates := fun _ => ⟨rfl, rfl, rfl⟩,
    screens := fun _ => Screen.Kept.refl _, groups := fun _ => rfl, links := fun _ => Link.Kept.refl _,
    portA := rfl, portB := rfl, dram := fun _ _ => rfl }

theorem trans {h k m : Hub} (a : Hub.Kept h k) (b : Hub.Kept k m) : Hub.Kept h m :=
  { starting := b.starting.trans a.starting, cause := b.cause.trans a.cause, ticks := b.ticks.trans a.ticks,
    levelDue := b.levelDue.trans a.levelDue, windowDue := b.windowDue.trans a.windowDue,
    conversionDue := b.conversionDue.trans a.conversionDue, free := b.free.trans a.free,
    captures := b.captures.trans a.captures, lights := b.lights.trans a.lights, curves := b.curves.trans a.curves,
    plates := fun p => ⟨(b.plates p).1.trans (a.plates p).1, (b.plates p).2.1.trans (a.plates p).2.1,
      (b.plates p).2.2.trans (a.plates p).2.2⟩,
    screens := fun n => (a.screens n).trans (b.screens n), groups := fun g => (b.groups g).trans (a.groups g),
    links := fun l => (a.links l).trans (b.links l), portA := a.portA.trans b.portA, portB := a.portB.trans b.portB,
    dram := fun x hx => (b.dram x hx).trans (a.dram x hx) }

theorem foldl {α : Type} {f : Hub → α → Hub} (hf : ∀ h a, Hub.Kept h (f h a)) (l : List α) (h : Hub) :
    Hub.Kept h (l.foldl f h) := by
  induction l generalizing h with
  | nil => exact refl h
  | cons a l ih => exact (hf h a).trans (ih (f h a))

theorem ite {c : Prop} [Decidable c] {h a b : Hub} (ha : Hub.Kept h a) (hb : Hub.Kept h b) :
    Hub.Kept h (if c then a else b) := by
  split
  · exact ha
  · exact hb

/-! ### Updates of one element -/

theorem modScreen (h : Hub) (n : Fin 8) {f : Screen → Screen} (hf : ∀ x, Screen.Kept x (f x)) :
    Hub.Kept h (h.modScreen n f) :=
  { refl h with
    screens := upd_all (fun j y => Screen.Kept h.screens[j] y) (fun _ => Screen.Kept.refl _) fun _ => hf _ }

theorem modEngine (h : Hub) (n : Fin 8) (f : Engine → Engine) : Hub.Kept h (h.modEngine n f) :=
  modScreen h n fun x => by simp [Screen.Kept]

theorem modLink (h : Hub) (l : Fin 6) {f : Link → Link} (hf : ∀ x, Link.Kept x (f x)) : Hub.Kept h (h.modLink l f) :=
  { refl h with links := upd_all (fun j y => Link.Kept h.links[j] y) (fun _ => Link.Kept.refl _) fun _ => hf _ }

theorem modGroup (h : Hub) (g : Fin 4) {f : Group → Group} (hf : ∀ x, (f x).pace = x.pace) :
    Hub.Kept h (h.modGroup g f) :=
  { refl h with groups := upd_all (fun j (y : Group) => y.pace = (h.groups[j]).pace) (fun _ => rfl) fun _ => hf _ }

theorem modBuffer (h : Hub) (b : Fin 32) (f : Lend → Lend) : Hub.Kept h (h.modBuffer b f) := { refl h with }

theorem modSlot (h : Hub) (i : Fin 2) (k : Fin 3) (f : Slot → Slot) : Hub.Kept h (h.modSlot i k f) := { refl h with }

theorem modCopy (h : Hub) (p : Fin 16) (c : Fin 2) (f : PlateCopy → PlateCopy) : Hub.Kept h (h.modCopy p c f) :=
  { refl h with
    plates := upd_all
      (fun j (y : Plate) => y.size = (h.plates[j]).size ∧ y.live = (h.plates[j]).live ∧ y.version = (h.plates[j]).version)
      (fun _ => ⟨rfl, rfl, rfl⟩) fun _ => ⟨rfl, rfl, rfl⟩ }

theorem handPacket (l : Fin 6) (k : Packet) (h : Hub) : Hub.Kept h (handPacket l k h) :=
  modLink h l fun _ => by simp [Link.Kept]

end Hub.Kept

/-! ### Sources, entries, running sets, buffers -/

theorem joinSurface_kept (n : Fin 8) (h : Hub) (i : Fin 2) : Hub.Kept h (joinSurface n h i) := by
  unfold joinSurface
  split
  · exact Hub.Kept.refl h
  · exact (Hub.Kept.modSlot h _ _ _).trans (Hub.Kept.modEngine _ _ _)

theorem joinPlate_kept (n : Fin 8) (h : Hub) (p : Fin 16) : Hub.Kept h (joinPlate n h p) := by
  unfold joinPlate
  split
  · exact Hub.Kept.refl h
  · exact (Hub.Kept.modCopy h _ _ _).trans (Hub.Kept.modEngine _ _ _)

theorem joinSources_kept (n : Fin 8) (h : Hub) : Hub.Kept h (joinSources n h) :=
  ((Hub.Kept.modEngine h _ _).trans (Hub.Kept.foldl (joinSurface_kept n) _ _)).trans
    (Hub.Kept.foldl (joinPlate_kept n) _ _)

theorem leaveSources_kept (n : Fin 8) (h : Hub) : Hub.Kept h (leaveSources n h) := by
  unfold leaveSources
  refine Hub.Kept.trans ?_ (Hub.Kept.modEngine _ _ _)
  exact { Hub.Kept.refl h with plates := fun p => by simp }

theorem modEntries_kept (n : Fin 8) (f : Entry → Entry) (h : Hub) : Hub.Kept h (modEntries n f h) :=
  Hub.Kept.modScreen h n fun x => by simp [Screen.Kept]

theorem modEntry_kept (n : Fin 8) (t : Nat) (f : Entry → Entry) (h : Hub) : Hub.Kept h (modEntry n t f h) :=
  Hub.Kept.modScreen h n fun x => by simp [Screen.Kept]

theorem allAbsent_kept (n : Fin 8) (h : Hub) : Hub.Kept h (allAbsent n h) := modEntries_kept n _ h

theorem dropTargets_kept (n : Fin 8) (h : Hub) : Hub.Kept h (dropTargets n h) := modEntries_kept n _ h

theorem leaveRunning_kept (n : Fin 8) (h : Hub) : Hub.Kept h (leaveRunning n h) :=
  { Hub.Kept.refl h with groups := fun g => by simp [leaveRunning] }

theorem mapLinks_kept (h : Hub) {f : Link → Link} (hf : ∀ x, Link.Kept x (f x)) :
    Hub.Kept h { h with links := h.links.map f } :=
  { Hub.Kept.refl h with links := fun l => by simpa using hf _ }

theorem freeBuffer_kept (b : Fin 32) (h : Hub) : Hub.Kept h (freeBuffer b h) :=
  Hub.Kept.trans (k := { h with buffers := h.buffers.set b none }) { Hub.Kept.refl h with }
    (mapLinks_kept _ fun _ => by simp [Link.Kept])

theorem voidBuffer_kept (n : Fin 8) (h : Hub) (b : Fin 32) : Hub.Kept h (voidBuffer n h b) := by
  unfold voidBuffer
  split
  · exact Hub.Kept.refl h
  · split
    · split
      · exact freeBuffer_kept b h
      · exact Hub.Kept.modBuffer h b _
    · exact Hub.Kept.refl h

theorem freeLinkBuffers_kept (l : Fin 6) (h : Hub) : Hub.Kept h (freeLinkBuffers l h) := by
  unfold freeLinkBuffers
  refine Hub.Kept.trans ?_ (Hub.Kept.modLink _ l (f := fun k => { k with tiles := [], sentOrder := [] }) fun _ => ?_)
  · exact { Hub.Kept.refl h with }
  · simp [Link.Kept]

/-! ### Aborts and resets of a link -/

theorem abortAtLink_kept (n : Fin 8) (h : Hub) : Hub.Kept h (abortAtLink n h) := by
  unfold abortAtLink
  split
  · exact Hub.Kept.refl h
  · exact Hub.Kept.modLink h _ fun _ => by simp [Link.Kept]

theorem abort_kept (n : Fin 8) (h : Hub) : Hub.Kept h (abort n h) :=
  ((((abortAtLink_kept n h).trans (leaveSources_kept n _)).trans
    (Hub.Kept.foldl (voidBuffer_kept n) _ _)).trans (allAbsent_kept n _)).trans
    ((Hub.Kept.modEngine _ _ _).trans (leaveRunning_kept n _))

theorem setScreenState_kept (n : Fin 8) (st : ScreenState) (h : Hub) : Hub.Kept h (setScreenState n st h) :=
  Hub.Kept.modScreen h n fun _ => by simp [Screen.Kept]

theorem dropScreens_kept (l : Fin 6) (h : Hub) : Hub.Kept h (dropScreens l h) :=
  Hub.Kept.foldl (fun h n => Hub.Kept.ite ((abort_kept n h).trans (setScreenState_kept n _ _)) (Hub.Kept.refl h)) _ _

theorem enterHold_kept (x : Link) : Link.Kept x x.enterHold := by
  simp [Link.Kept, Link.enterHold, Link.cleared, Link.clearRows]

/-- A reset of a link at its current cap (R112 step 5, the cause being no LINK-RESET and no fallback). -/
theorem resetLink_kept (l : Fin 6) (h : Hub) : Hub.Kept h (resetLink l h.links[l].currentCap h) := by
  have drop := (freeLinkBuffers_kept l h).trans (dropScreens_kept l _)
  have cap : ∀ k : Hub, Hub.Kept h k → ∀ f : Link → Link,
      (∀ x, Link.Kept x { f x with currentCap := x.currentCap }) →
      Hub.Kept k (k.modLink l fun x => { f x with currentCap := (h.links[l]).currentCap }) := by
    intro k hk f hf
    refine { Hub.Kept.refl k with links := fun j => ?_ }
    rw [Hub.modLink_links, upd_get]
    split
    · next e =>
      subst e
      have := (hk.links l).2.2.1
      rw [← this]
      exact hf _
    · exact Link.Kept.refl _
  unfold resetLink
  split
  · exact cap h (Hub.Kept.refl h) (fun x => { x with hold := some Config.holdTicks }) fun x => by simp [Link.Kept]
  all_goals
    first
      | exact drop.trans (cap _ drop Link.enterHold fun x => by
          simp [Link.Kept, Link.enterHold, Link.cleared, Link.clearRows])
      | exact cap h (Hub.Kept.refl h) (fun x => { x with checkFailures := 0 }) fun x => by simp [Link.Kept]

theorem resetIfAllLost_kept (h : Hub) (l : Fin 6) : Hub.Kept h (resetIfAllLost h l) :=
  Hub.Kept.ite (resetLink_kept l h) (Hub.Kept.refl h)

/-! ### Cycles -/

theorem setCycle_kept (n : Fin 8) (c : CycleState) (h : Hub) : Hub.Kept h (setCycle n c h) := Hub.Kept.modEngine h n _

theorem handOver_kept (x : Screen) : Screen.Kept x x.handOver := by simp [Screen.Kept, Screen.handOver]

theorem setTargets_kept (n : Fin 8) (h : Hub) : Hub.Kept h (setTargets n h) :=
  Hub.Kept.modScreen h n fun x => by simp [Screen.Kept]

theorem recordSources_kept (n : Fin 8) (h : Hub) : Hub.Kept h (recordSources n h) :=
  Hub.Kept.modScreen h n fun x => by simp [Screen.Kept]

theorem startCycle_kept (n : Fin 8) (h : Hub) : Hub.Kept h (startCycle n h) := by
  unfold startCycle
  have a : Hub.Kept h ((recordSources n (setTargets n (joinSources n (h.modScreen n Screen.handOver)))).modEngine n
      Engine.started) :=
    ((((Hub.Kept.modScreen h n handOver_kept).trans (joinSources_kept n _)).trans (setTargets_kept n _)).trans
      (recordSources_kept n _)).trans (Hub.Kept.modEngine _ _ _)
  dsimp only
  split
  · exact a.trans (setCycle_kept n _ _)
  · exact a.trans ((leaveSources_kept n _).trans ((dropTargets_kept n _).trans (setCycle_kept n _ _)))

theorem endGathering_kept (h : Hub) (n : Fin 8) : Hub.Kept h (endGathering h n) :=
  Hub.Kept.ite ((leaveSources_kept n h).trans (setCycle_kept n _ _)) (Hub.Kept.refl h)

theorem endCut_kept (h : Hub) (n : Fin 8) : Hub.Kept h (endCut h n) :=
  Hub.Kept.ite (startCycle_kept n h) (Hub.Kept.refl h)

theorem startScreen_kept (h : Hub) (n : Fin 8) : Hub.Kept h (startScreen h n) :=
  Hub.Kept.ite (startCycle_kept n h) (Hub.Kept.refl h)

theorem handShow_kept (n : Fin 8) (h : Hub) : Hub.Kept h (handShow n h) := by
  unfold handShow
  split
  · exact Hub.Kept.refl h
  · exact Hub.Kept.handPacket _ _ h

theorem presenting_kept (n : Fin 8) (h : Hub) : Hub.Kept h (presenting n h) := Hub.Kept.modEngine h n _

theorem showIfReady_kept (h : Hub) (n : Fin 8) : Hub.Kept h (showIfReady h n) :=
  Hub.Kept.ite ((handShow_kept n h).trans (presenting_kept n _)) (Hub.Kept.refl h)

theorem releaseOnLink_kept (running : ScreenSet) (h : Hub) (l : Fin 6) : Hub.Kept h (releaseOnLink running h l) := by
  unfold releaseOnLink
  split
  · exact Hub.Kept.ite (Hub.Kept.handPacket _ _ h) ((handShow_kept _ h).trans (handShow_kept _ _))
  · exact Hub.Kept.foldl (fun h n => handShow_kept n h) _ _

theorem releaseGroup_kept (h : Hub) (g : Fin 4) : Hub.Kept h (releaseGroup h g) :=
  Hub.Kept.ite
    ((Hub.Kept.foldl (releaseOnLink_kept _) _ _).trans (Hub.Kept.foldl (fun h n => presenting_kept n h) _ _))
    (Hub.Kept.refl h)

theorem startGroup_kept (h : Hub) (g : Fin 4) : Hub.Kept h (startGroup h g) :=
  Hub.Kept.ite
    ((Hub.Kept.foldl (fun h n => startCycle_kept n h) _ _).trans (Hub.Kept.modGroup _ _ fun _ => rfl))
    (Hub.Kept.refl h)

end Sys2Proof.Machine
end

