-- ==== Sys2Proof/Laws/Memory.lean ====
section
/-! SUPPORT. The stacked DRAM: what is read after a write, and the canonical form, which every memory operation keeps. -/

namespace Sys2Proof.Machine

namespace Memory

theorem read_of_wfAbove {low : Nat} {m : Memory} (hm : wfAbove low m = true) {x : Nat} (hx : x < low) :
    read m x = unlisted := by
  induction m generalizing low with
  | nil => rfl
  | cons e rest ih =>
    obtain ⟨a, b⟩ := e
    simp only [wfAbove, Bool.and_eq_true, decide_eq_true_eq] at hm
    have hxa : x ≠ a := by omega
    simp only [read, if_neg hxa]
    exact ih hm.2 (by omega)

theorem read_write_same {low : Nat} {m : Memory} (hm : wfAbove low m = true) (x : Nat) (v : Byte) :
    read (write m x v) x = v := by
  induction m generalizing low with
  | nil => simp only [write]; split <;> simp_all [read]
  | cons e rest ih =>
    obtain ⟨a, b⟩ := e
    simp only [wfAbove, Bool.and_eq_true, decide_eq_true_eq] at hm
    simp only [write]
    split
    · split
      · next hlt hv =>
        rw [hv]
        have : x ≠ a := by omega
        simp only [read, if_neg this]
        exact read_of_wfAbove hm.2 (by omega)
      · simp [read]
    · split
      · split
        · next h1 h2 hv =>
          rw [hv]
          exact read_of_wfAbove hm.2 (by omega)
        · simp [read]
      · next h1 h2 =>
        simp only [read, if_neg h2]
        exact ih hm.2

theorem read_write_other (m : Memory) {x y : Nat} (v : Byte) (hxy : y ≠ x) : read (write m x v) y = read m y := by
  induction m with
  | nil => simp only [write]; split <;> simp [read, hxy]
  | cons e rest ih =>
    obtain ⟨a, b⟩ := e
    simp only [write]
    split
    · split
      · rfl
      · simp [read, hxy]
    · split
      · next h1 h2 =>
        subst h2
        split <;> simp [read, hxy]
      · simp only [read]
        split
        · rfl
        · exact ih

theorem write_wfAbove {low : Nat} {m : Memory} (hm : wfAbove low m = true) {x : Nat} (hx : low ≤ x) (v : Byte) :
    wfAbove low (write m x v) = true := by
  induction m generalizing low with
  | nil => simp only [write]; split <;> simp_all [wfAbove]
  | cons e rest ih =>
    obtain ⟨a, b⟩ := e
    have hm0 := hm
    simp only [wfAbove, Bool.and_eq_true, decide_eq_true_eq] at hm
    simp only [write]
    split
    · split
      · exact hm0
      · next hlt hv =>
        simp only [wfAbove, Bool.and_eq_true, decide_eq_true_eq]
        exact ⟨⟨hx, hv⟩, ⟨by omega, hm.1.2⟩, hm.2⟩
    · split
      · next hge heq =>
        subst heq
        split
        · clear ih
          have weaken : ∀ (m : Memory) (a b : Nat), a ≤ b → wfAbove b m = true → wfAbove a m = true := by
            intro m
            cases m with
            | nil => intros; rfl
            | cons e m =>
              intro a b hab h
              simp only [wfAbove, Bool.and_eq_true, decide_eq_true_eq] at h ⊢
              exact ⟨⟨by omega, h.1.2⟩, h.2⟩
          exact weaken _ _ _ (by omega) hm.2
        · next hv =>
          simp only [wfAbove, Bool.and_eq_true, decide_eq_true_eq]
          exact ⟨⟨hx, hv⟩, hm.2⟩
      · next hge hne =>
        simp only [wfAbove, Bool.and_eq_true, decide_eq_true_eq]
        exact ⟨hm.1, ih hm.2 (by omega)⟩

/-- A write keeps the canonical form. -/
theorem write_wf {m : Memory} (hm : m.wf = true) (x : Nat) (v : Byte) : (m.write x v).wf = true :=
  write_wfAbove hm (Nat.zero_le x) v

theorem writeBytes_wf {m : Memory} (hm : m.wf = true) (x : Nat) (vs : List Byte) : (m.writeBytes x vs).wf = true := by
  induction vs generalizing m x with
  | nil => exact hm
  | cons v vs ih => exact ih (write_wf hm x v) (x + 1)

theorem read_writeBytes_outside (m : Memory) (x : Nat) (vs : List Byte) {y : Nat} (hy : y < x ∨ x + vs.length ≤ y) :
    read (m.writeBytes x vs) y = read m y := by
  induction vs generalizing m x with
  | nil => rfl
  | cons v vs ih =>
    simp only [List.length_cons] at hy
    rw [writeBytes, ih _ _ (by omega), read_write_other _ _ (by omega)]

theorem read_writeBytes_inside {m : Memory} (hm : m.wf = true) (x : Nat) (vs : List Byte) (k : Nat)
    (hk : k < vs.length) : read (m.writeBytes x vs) (x + k) = vs[k] := by
  induction vs generalizing m x k with
  | nil => simp at hk
  | cons v vs ih =>
    rw [writeBytes]
    cases k with
    | zero =>
      rw [read_writeBytes_outside _ _ _ (by omega)]
      exact read_write_same hm x v
    | succ k =>
      simp only [List.length_cons] at hk
      have := ih (write_wf hm x v) (x + 1) k (by omega)
      rw [show x + (k + 1) = x + 1 + k by omega, this]
      rfl

theorem readBytes_length (m : Memory) (x n : Nat) : (m.readBytes x n).length = n := by
  induction n generalizing x with
  | zero => rfl
  | succ n ih => simp [readBytes, ih]

end Memory

/-- After a reset nothing is listed. -/
theorem reset_dram_wf : State.reset.hub.dram.wf = true := rfl

end Sys2Proof.Machine
end

