-- ==== Sys2Proof/Laws/Consequences.lean ====
section
/-! SUPPORT. What grants and the starts of transmissions leave alone, and so the consequences of an event as a whole; and
what `settle` is while no frame waits. -/

namespace Sys2Proof.Machine

theorem fillTile_length (x : Colour) : (fillTile x).length = 4800 := by
  rw [fillTile, List.length_flatten, List.map_replicate, List.sum_replicate_nat]
  rfl

theorem sourceBytes_length (h : Hub) (n : Fin 8) (src : TileSource) : (sourceBytes h n src).length = Config.tileBytes := by
  cases src <;> simp [sourceBytes, Memory.readBytes_length, fillTile_length, Config.tileBytes]

theorem outside_slice {base t a : Nat} (b : Fin 32) (ha : a < base + 0 * t ∨ base + 32 * t ≤ a) :
    a < base + b.val * t ∨ base + b.val * t + t ≤ a := by
  rcases ha with h | h
  · left
    rw [Nat.zero_mul] at h
    omega
  · right
    have hb : (b.val + 1) * t ≤ 32 * t := Nat.mul_le_mul_right t b.isLt
    rw [Nat.add_mul] at hb
    omega

/-- The tile copy of a buffer lies within the buffers' regions. -/
theorem bufferCopy_inside (b : Fin 32) {a : Nat} (ha : outsideBuffers a) :
    a < Config.bufferBase b.val ∨ Config.bufferBase b.val + Config.tileBytes ≤ a :=
  outside_slice b ha

theorem grantTo_kept (b : Fin 32) (l : Fin 6) (h : Hub) : Hub.Kept h (grantTo b l h) := by
  unfold grantTo
  dsimp only
  split
  · exact Hub.Kept.refl h
  · split
    · exact Hub.Kept.refl h
    · next n _ _ t _ =>
      have a := (modEntry_kept n t (fun e => { e with state := .sending }) h).trans
        (Hub.Kept.modLink _ l (f := fun k => { k with nextRow := other (grantRow h l) }) fun _ => by simp [Link.Kept])
      refine a.trans { Hub.Kept.refl _ with dram := fun x hx => ?_ }
      refine Memory.read_writeBytes_outside _ _ _ ?_
      rw [sourceBytes_length]
      exact bufferCopy_inside b hx

theorem grantOnce_kept {h k : Hub} (hk : grantOnce h = some k) : Hub.Kept h k := by
  unfold grantOnce at hk
  split at hk
  · cases hk; exact grantTo_kept _ _ h
  · cases hk

theorem grants_kept (m : Nat) (h : Hub) : Hub.Kept h (grants m h) := by
  induction m generalizing h with
  | zero => exact Hub.Kept.refl h
  | succ m ih =>
    unfold grants
    split
    · next k hk => exact (grantOnce_kept hk).trans (ih k)
    · exact Hub.Kept.refl h

theorem transmitNext_kept (h : Hub) (l : Fin 6) : Hub.Kept h (transmitNext h l) := by
  unfold transmitNext
  dsimp only
  repeat' split
  all_goals
    first
      | exact Hub.Kept.refl h
      | exact Hub.Kept.modLink h l fun _ => by simp [Link.Kept]
      | exact (Hub.Kept.modBuffer h _ _).trans (Hub.Kept.modLink _ l fun _ => by simp [Link.Kept])

theorem transmit_kept (x : PortState) : PortState.Kept x x.transmit := by
  unfold PortState.Kept PortState.transmit
  split
  · rfl
  · split
    · rfl
    · split <;> rfl

theorem transmitPort_kept (h : Hub) (p : Port) : Hub.Kept h (transmitPort h p) := by
  refine Hub.Kept.ite (Hub.Kept.refl h) ?_
  cases p
  · exact { Hub.Kept.refl h with portA := transmit_kept _ }
  · exact { Hub.Kept.refl h with portB := transmit_kept _ }

theorem consequences_kept (h : Hub) : Hub.Kept h (consequences h) :=
  (((((((((Hub.Kept.foldl resetIfAllLost_kept _ h).trans (Hub.Kept.foldl endGathering_kept _ _)).trans
    (Hub.Kept.foldl endCut_kept _ _)).trans (Hub.Kept.foldl showIfReady_kept _ _)).trans
    (Hub.Kept.foldl releaseGroup_kept _ _)).trans (Hub.Kept.foldl startScreen_kept _ _)).trans
    (Hub.Kept.foldl startGroup_kept _ _)).trans (grants_kept _ _)).trans (Hub.Kept.foldl transmitNext_kept _ _)).trans
    (Hub.Kept.foldl transmitPort_kept _ _)

/-- A port whose input queue is empty begins no frame. -/
theorem mayBegin_of_empty {x : PortState} (hx : x.input = []) : x.mayBegin = false := by
  simp [PortState.mayBegin, hx]

/-- While no frame waits, what follows at an event is its consequences. -/
theorem settle_of_noFrameWaits {h : Hub} (hh : noFrameWaits h) : settle h = consequences h := by
  have kept := consequences_kept h
  have a : (consequences h).portA.input = [] := by rw [kept.portA]; exact hh.1
  have b : (consequences h).portB.input = [] := by rw [kept.portB]; exact hh.2
  simp [settle, drain, beginningPort, mayBegin_of_empty a, mayBegin_of_empty b]

end Sys2Proof.Machine
end

