-- ==== Sys2Proof/Laws/Cycle.lean ====
section
/-! SUPPORT. What the joining of sources can do (R15, R31): it changes reader sets and the joined sources of its screen,
and so no target. Later proofs cite `joinSources_joined` and unfold no join. -/

namespace Sys2Proof.Machine

/-- `k` differs from `h` in reader sets and in the joined sources of screen `n` at most. -/
structure Joined (n : Fin 8) (h k : Hub) : Prop where
  others : ∀ m : Fin 8, m ≠ n → k.screens[m] = h.screens[m]
  screen : ∃ e, k.screens[n] = { h.screens[n] with engine := e } ∧ e.cycle = h.screens[n].engine.cycle ∧
    e.paceCount = h.screens[n].engine.paceCount
  slots : ∀ (i : Fin 2) (j : Fin 3), ∃ r, k.slots[i][j] = { h.slots[i][j] with readers := r }
  plates : ∀ p : Fin 16, k.plates[p].size = h.plates[p].size ∧ k.plates[p].live = h.plates[p].live ∧
    k.plates[p].version = h.plates[p].version ∧
    ∀ c : Fin 2, (k.plates[p].copies[c]).signatures = (h.plates[p].copies[c]).signatures
  dram : k.dram = h.dram
  links : k.links = h.links
  groups : k.groups = h.groups
  buffers : k.buffers = h.buffers
  captures : k.captures = h.captures
  portA : k.portA = h.portA
  portB : k.portB = h.portB

namespace Joined

theorem refl (n : Fin 8) (h : Hub) : Joined n h h :=
  ⟨fun _ _ => rfl, ⟨_, rfl, rfl, rfl⟩, fun _ _ => ⟨_, rfl⟩, fun _ => ⟨rfl, rfl, rfl, fun _ => rfl⟩, rfl, rfl, rfl, rfl,
    rfl, rfl, rfl⟩

theorem trans {n : Fin 8} {h k m : Hub} (a : Joined n h k) (b : Joined n k m) : Joined n h m := by
  refine ⟨fun i hi => (b.others i hi).trans (a.others i hi), ?_, fun i j => ?_, fun p => ?_, b.dram.trans a.dram,
    b.links.trans a.links, b.groups.trans a.groups, b.buffers.trans a.buffers, b.captures.trans a.captures,
    b.portA.trans a.portA, b.portB.trans a.portB⟩
  · obtain ⟨e, he, h1, h2⟩ := a.screen
    obtain ⟨f, hf, h3, h4⟩ := b.screen
    exact ⟨f, by rw [hf, he], by rw [h3, he, h1], by rw [h4, he, h2]⟩
  · obtain ⟨r, hr⟩ := a.slots i j
    obtain ⟨q, hq⟩ := b.slots i j
    exact ⟨q, by rw [hq, hr]⟩
  · obtain ⟨a1, a2, a3, a4⟩ := a.plates p
    obtain ⟨b1, b2, b3, b4⟩ := b.plates p
    exact ⟨b1.trans a1, b2.trans a2, b3.trans a3, fun c => (b4 c).trans (a4 c)⟩

theorem foldl {α : Type} {n : Fin 8} {f : Hub → α → Hub} (hf : ∀ h a, Joined n h (f h a)) (l : List α) (h : Hub) :
    Joined n h (l.foldl f h) := by
  induction l generalizing h with
  | nil => exact refl n h
  | cons a l ih => exact (hf h a).trans (ih _)

theorem modEngine (n : Fin 8) (h : Hub) {f : Engine → Engine} (hc : ∀ e, (f e).cycle = e.cycle)
    (hp : ∀ e, (f e).paceCount = e.paceCount) : Joined n h (h.modEngine n f) :=
  { refl n h with
    others := fun _ hm => upd_get_other _ _ (Ne.symm hm)
    screen := ⟨f h.screens[n].engine, upd_get_same _ _ _, hc _, hp _⟩ }

theorem modSlot (n : Fin 8) (h : Hub) (i : Fin 2) (j : Fin 3) (g : ScreenSet → ScreenSet) :
    Joined n h (h.modSlot i j fun s => { s with readers := g s.readers }) := by
  refine { refl n h with slots := fun a b => ?_ }
  rw [Hub.modSlot_slots, upd_get]
  split
  · rw [upd_get]
    split <;> exact ⟨_, rfl⟩
  · exact ⟨_, rfl⟩

theorem modCopy (n : Fin 8) (h : Hub) (p : Fin 16) (c : Fin 2) (g : ScreenSet → ScreenSet) :
    Joined n h (h.modCopy p c fun x => { x with readers := g x.readers }) := by
  refine { refl n h with plates := fun q => ?_ }
  have key : (h.modCopy p c fun x => { x with readers := g x.readers }).plates[q] =
      if p = q then { h.plates[q] with copies := upd h.plates[q].copies c fun x => { x with readers := g x.readers } }
      else h.plates[q] :=
    upd_get h.plates p q _
  rw [key]
  split
  · refine ⟨rfl, rfl, rfl, fun d => ?_⟩
    rw [upd_get]
    split <;> rfl
  · exact ⟨rfl, rfl, rfl, fun _ => rfl⟩

end Joined

theorem joinSurface_joined (n : Fin 8) (h : Hub) (i : Fin 2) : Joined n h (joinSurface n h i) := by
  unfold joinSurface
  split
  · exact Joined.refl n h
  · next k _ =>
    exact (Joined.modSlot n h i k fun r => r.set n true).trans (Joined.modEngine n _ (fun _ => rfl) fun _ => rfl)

theorem joinPlate_joined (n : Fin 8) (h : Hub) (p : Fin 16) : Joined n h (joinPlate n h p) := by
  unfold joinPlate
  split
  · exact Joined.refl n h
  · next c _ =>
    exact (Joined.modCopy n h p c fun r => r.set n true).trans (Joined.modEngine n _ (fun _ => rfl) fun _ => rfl)

/-- R68 step 2: what the joining of the sources of a layout can do. -/
theorem joinSources_joined (n : Fin 8) (h : Hub) : Joined n h (joinSources n h) := by
  unfold joinSources
  refine Joined.trans (Joined.modEngine n h ?_ ?_)
    ((Joined.foldl (joinSurface_joined n) _ _).trans (Joined.foldl (joinPlate_joined n) _ _))
  · exact fun _ => rfl
  · exact fun _ => rfl

namespace Joined

theorem newestSlot_eq {n : Fin 8} {h k : Hub} (a : Joined n h k) (i : Fin 2) : newestSlot k i = newestSlot h i := by
  unfold newestSlot
  congr 1
  funext j
  obtain ⟨r, hr⟩ := a.slots i j
  rw [hr]

/-- R50: a join changes no target. -/
theorem targetOf_eq {n : Fin 8} {h k : Hub} (a : Joined n h k) (x : Screen) (e : Engine) (t : Nat) :
    targetOf k { x with engine := e } t = targetOf h x t := by
  have bg : backgroundTarget { x with engine := e } = backgroundTarget x := rfl
  have hs : ∀ i c r, surfaceTarget k { x with engine := e } i c r = surfaceTarget h x i c r := by
    intro i c r
    unfold surfaceTarget
    rw [a.newestSlot_eq, a.captures, bg]
    cases newestSlot h i with
    | none => rfl
    | some j =>
      obtain ⟨q, hq⟩ := a.slots i j
      have hsig : k.slots[i][j].signatures = h.slots[i][j].signatures := by rw [hq]
      cases h.captures[i].size with
      | none => rfl
      | some z => dsimp only; rw [hsig]
  have hp : ∀ p c r, plateTarget k { x with engine := e } p c r = plateTarget h x p c r := by
    intro p c r
    obtain ⟨b1, b2, _, b4⟩ := a.plates p
    simp only [plateTarget, b1, b2, b4, bg]
  simp only [targetOf, hs, hp, bg]

end Joined

end Sys2Proof.Machine
end

