-- ==== Sys2Proof/Laws/Operands.lean ====
section
/-! SUPPORT. Reading back what was written: the byte order, view lists and curve points, the kinds, and the frame of a
request; and what the arrival of a request's frame is when the port handles it at once. -/

namespace Sys2Proof.Machine

/-! ### Byte order -/

theorem be16_eq_cons (x : Half) : ∃ b1 b0, be16 x = [b1, b0] ∧ of16 b1 b0 = x := by
  refine ⟨_, _, rfl, ?_⟩
  apply BitVec.eq_of_getLsbD_eq
  intro i hi
  simp only [of16, BitVec.getLsbD_append, BitVec.getLsbD_extractLsb']
  grind

theorem be32_eq_cons (x : Signature) : ∃ b3 b2 b1 b0, be32 x = [b3, b2, b1, b0] ∧ of32 b3 b2 b1 b0 = x := by
  refine ⟨_, _, _, _, rfl, ?_⟩
  apply BitVec.eq_of_getLsbD_eq
  intro i hi
  simp only [of32, BitVec.getLsbD_append, BitVec.getLsbD_extractLsb']
  grind

theorem be48_eq_cons (x : Identity) :
    ∃ b5 b4 b3 b2 b1 b0, be48 x = [b5, b4, b3, b2, b1, b0] ∧ of48 b5 b4 b3 b2 b1 b0 = x := by
  refine ⟨_, _, _, _, _, _, rfl, ?_⟩
  apply BitVec.eq_of_getLsbD_eq
  intro i hi
  simp only [of48, BitVec.getLsbD_append, BitVec.getLsbD_extractLsb']
  grind

theorem be16_inj {x y : Half} (h : be16 x = be16 y) : x = y := by
  obtain ⟨a, b, hx, rfl⟩ := be16_eq_cons x
  obtain ⟨c, d, hy, rfl⟩ := be16_eq_cons y
  simp only [hx, hy, List.cons.injEq, and_true] at h
  rw [h.1, h.2]

/-! ### View lists and points -/

theorem parseViews_flatMap (vs : List RawView) : parseViews (vs.flatMap RawView.bytes) = some vs := by
  induction vs with
  | nil => rfl
  | cons v vs ih => simp [RawView.bytes, parseViews, ih]

theorem parsePoints_flatMap (ps : List RawPoint) : parsePoints (ps.flatMap RawPoint.bytes) = some ps := by
  induction ps with
  | nil => rfl
  | cons p ps ih =>
    obtain ⟨x, level⟩ := p
    obtain ⟨b1, b0, hx, rfl⟩ := be16_eq_cons x
    simp only [List.flatMap_cons, RawPoint.bytes, hx]
    simp [parsePoints, ih]

theorem parseCounted_counted {vs : List RawView} (h : vs.length ≤ 4) :
    parseCounted (byteOf vs.length) (vs.flatMap RawView.bytes) = some vs := by
  have hb : (byteOf vs.length).toNat = vs.length := by
    simp only [byteOf, BitVec.toNat_ofNat]
    omega
  simp [parseCounted, parseViews_flatMap, hb, h]

/-! ### Requests -/

/-- Its lists have the lengths their counts can say: at most four views, eight points. -/
def Request.listsFit : Request → Prop
  | .layoutSet _ _ _ views => views.length ≤ 4
  | .seize _ views => views.length ≤ 4
  | .curveSet _ points => points.length = 8
  | _ => True

theorem requestKind_code (k : RequestKind) : requestKind k.code = some k := by cases k <;> decide

/-- R173 step 2: the body of a request has the length of its kind and is read back. -/
theorem parseBody_body {r : Request} (h : r.listsFit) : parseBody r.kind r.body = some r := by
  cases r with
  | noticeSet kinds =>
    obtain ⟨b1, b0, hx, rfl⟩ := be16_eq_cons kinds
    simp only [Request.body, hx]
    rfl
  | screenBind screen link identity columns rows fill =>
    obtain ⟨b5, b4, b3, b2, b1, b0, hx, rfl⟩ := be48_eq_cons identity
    simp only [Request.body, hx]
    rfl
  | layoutSet screen present stamp views =>
    obtain ⟨b1, b0, hx, rfl⟩ := be16_eq_cons stamp
    simp [Request.body, hx, counted, Request.kind, parseBody, parseLayout, parseCounted_counted h]
  | paceSet target number pace =>
    obtain ⟨b1, b0, hx, rfl⟩ := be16_eq_cons pace
    simp only [Request.body, hx]
    rfl
  | seize screen views =>
    simp [Request.body, Request.kind, counted, parseBody, parseSeize, parseCounted_counted h]
  | curveSet curve points =>
    have h8 : points.length = 8 := h
    simp [Request.body, Request.kind, parseBody, parseCurve, parsePoints_flatMap, h8]
  | _ => rfl

theorem flatMap_length_const {α : Type} {f : α → List Byte} {k : Nat} (hf : ∀ x, (f x).length = k) (l : List α) :
    (l.flatMap f).length = k * l.length := by
  induction l with
  | nil => rfl
  | cons x l ih => simp only [List.flatMap_cons, List.length_append, ih, hf, List.length_cons]; ring

/-- R161: the frame of a request is an ordinary one. -/
theorem ordinaryFrame_of_request {r : Request} (h : r.listsFit) (tag : Byte) : ordinaryFrame (r.frame tag) = true := by
  have hv : ∀ v : RawView, (RawView.bytes v).length = 7 := fun _ => rfl
  have hp : ∀ p : RawPoint, (RawPoint.bytes p).length = 3 := fun _ => rfl
  simp only [ordinaryFrame, Request.frame, Bool.or_eq_true]
  refine Or.inl (decide_eq_true ?_)
  cases r with
  | layoutSet screen present stamp views =>
    have h4 : views.length ≤ 4 := h
    simp only [Request.body, counted, be16, List.cons_append, List.nil_append, List.length_cons,
      flatMap_length_const hv]
    omega
  | seize screen views =>
    have h4 : views.length ≤ 4 := h
    simp only [Request.body, counted, List.length_cons, flatMap_length_const hv]
    omega
  | curveSet curve points =>
    have h8 : points.length = 8 := h
    simp only [Request.body, List.length_cons, flatMap_length_const hp]
    omega
  | _ => simp [Request.body, be16, be48, Colour.bytes]

@[simp] theorem port_hunting (p : Port) (h : Hub) : (h.hunting p).port p = (h.port p).hunt := by cases p <;> rfl

theorem beginsAtOnce_hunt (x : PortState) : beginsAtOnce x.hunt = beginsAtOnce x := rfl

/-- R164: a frame that a port can handle at its arrival is handled with the receiver Hunting. -/
theorem frameArrives_handled {p : Port} {f : Frame} {h : Hub} (hp : handlesAtOnce p h = true)
    (hf : ordinaryFrame f = true) : frameArrives p f h = handleFrame p f (h.hunting p) := by
  simp only [handlesAtOnce, Bool.and_eq_true] at hp
  have hb : beginsAtOnce ((h.modPort p PortState.hunt).port p) = true := by
    rw [show (h.modPort p PortState.hunt).port p = (h.port p).hunt from port_hunting p h, beginsAtOnce_hunt]
    exact hp.2
  unfold frameArrives
  rw [hp.1, hf, Bool.and_self, if_pos rfl, if_pos hb]
  rfl

/-- R164, R173: the arrival of the frame of a request that a port can handle at once. -/
theorem requestArrives_handled {p : Port} {h : Hub} (hp : handlesAtOnce p h = true) (tag : Byte) {r : Request}
    (hr : r.listsFit) : requestArrives p tag r h = handleRequest p tag r (h.hunting p) := by
  rw [requestArrives, frameArrives_handled hp (ordinaryFrame_of_request hr tag), handleFrame, parse]
  simp only [Request.frame, requestKind_code, parseBody_body hr]

/-- R173 step 3: a request in range is performed and its answer queued. -/
theorem handleRequest_inRange {r : Request} (hr : r.badField = none) (p : Port) (tag : Byte) (h : Hub) :
    handleRequest p tag r h = queueAnswer p r.kind.code tag (perform p tag r h) := by
  simp [handleRequest, judge, hr]

@[simp] theorem queueAnswer_done (p : Port) (kind tag : Byte) (h : Hub) (data : List Byte) :
    queueAnswer p kind tag (h.done data) = reply p kind tag .done data h := rfl

@[simp] theorem queueAnswer_refuse (p : Port) (kind tag : Byte) (h : Hub) (r : Result) (data : List Byte) :
    queueAnswer p kind tag (h.refuse r data) = reply p kind tag r data h := rfl

@[simp] theorem queueAnswer_noReply (p : Port) (kind tag : Byte) (h : Hub) :
    queueAnswer p kind tag h.noReply = h := rfl

/-! ### Completion -/

/-- The form of every meaning: the command completes with its effect on the part. -/
theorem complete_completes {c : Instr} {s : State} {f : Hub → Hub} {h : Hub} (hc : exec c s = complete f s)
    (hf : f s.hub = h) : Completes c s h := by
  rw [Completes, hc, complete, hf]

end Sys2Proof.Machine
end

