-- ==== Sys2Proof/Laws/Packets.lean ====
section
/-! SUPPORT. What the taking of an upstream packet can do before the packet's own rule: at most one silence timer of the
address starts again (R118), and the sender is what the address table says. -/

namespace Sys2Proof.Machine

/-- The two links differ in the silence timers of their rows at most. -/
def Link.Touched (x y : Link) : Prop :=
  y = { x with rows := y.rows } ∧ ∀ a : Fin 2, y.rows[a] = { x.rows[a] with silence := y.rows[a].silence }

theorem Link.Touched.refl (x : Link) : Link.Touched x x := ⟨rfl, fun _ => rfl⟩

/-- R118: at most one silence timer starts again. -/
theorem touchSilence_touched (l : Fin 6) (address : Byte) (h : Hub) :
    ∃ k, touchSilence l address h = { h with links := h.links.set l k } ∧ Link.Touched h.links[l] k := by
  have same : ∃ k, h = { h with links := h.links.set l k } ∧ Link.Touched h.links[l] k :=
    ⟨h.links[l], by simp, Link.Touched.refl _⟩
  unfold touchSilence
  split
  · exact same
  · next a _ =>
    split
    · split
      · refine ⟨_, rfl, rfl, fun b => ?_⟩
        dsimp only
        rw [upd_get]
        split <;> rfl
      · exact same
    · exact same

theorem touchSilence_screens (l : Fin 6) (address : Byte) (h : Hub) : (touchSilence l address h).screens = h.screens := by
  obtain ⟨k, hk, -⟩ := touchSilence_touched l address h
  rw [hk]

theorem touchSilence_buffers (l : Fin 6) (address : Byte) (h : Hub) : (touchSilence l address h).buffers = h.buffers := by
  obtain ⟨k, hk, -⟩ := touchSilence_touched l address h
  rw [hk]

theorem touchSilence_groups (l : Fin 6) (address : Byte) (h : Hub) : (touchSilence l address h).groups = h.groups := by
  obtain ⟨k, hk, -⟩ := touchSilence_touched l address h
  rw [hk]

theorem touchSilence_dram (l : Fin 6) (address : Byte) (h : Hub) : (touchSilence l address h).dram = h.dram := by
  obtain ⟨k, hk, -⟩ := touchSilence_touched l address h
  rw [hk]

theorem touchSilence_link (l : Fin 6) (address : Byte) (h : Hub) :
    Link.Touched h.links[l] (touchSilence l address h).links[l] := by
  obtain ⟨k, hk, ht⟩ := touchSilence_touched l address h
  have e : (touchSilence l address h).links[l] = k := by
    rw [hk]
    simp
  rwa [e]

theorem matchSent_touchSilence (l : Fin 6) (address : Byte) (h : Hub) (a : Fin 2) (tile : Nat) :
    matchSent (touchSilence l address h) l a tile = matchSent h l a tile := by
  have e : (touchSilence l address h).links[l].sentOrder = h.links[l].sentOrder := by
    rw [(touchSilence_link l address h).1]
  unfold matchSent
  rw [e, touchSilence_buffers]

@[simp] theorem rowOf_rowByte (a : Fin 2) : rowOf (rowByte a) = some a := by
  revert a
  decide

theorem rowByte_le (a : Fin 2) : ¬15 < (rowByte a).toNat := by
  revert a
  decide

/-- R109, R118: a packet that passes its check is taken while the receiver takes packets. -/
theorem takePacket_taken {l : Fin 6} {h : Hub} (hr : receiverOpen h.links[l] = true) (a : Fin 2) (f : Hub → Hub) :
    takePacket l (rowByte a) f h = f (touchSilence l (rowByte a) h) := by
  rw [takePacket, hr, if_neg (by decide), if_neg (rowByte_le a)]

theorem touchSilence_assignment (l : Fin 6) (address : Byte) (h : Hub) (a : Fin 2) :
    (touchSilence l address h).links[l].rows[a].assignment = h.links[l].rows[a].assignment := by
  rw [(touchSilence_link l address h).2 a]

/-- R129: the sender of a packet from an address 1 or 2, by the address table. -/
theorem senderOf_screen {l : Fin 6} {h : Hub} {a : Fin 2} {n : Fin 8}
    (hn : h.links[l].rows[a].assignment = .screen n) :
    senderOf (touchSilence l (rowByte a) h) l (rowByte a) = .screen a n := by
  simp only [senderOf, rowOf_rowByte, touchSilence_assignment, hn]

theorem senderOf_stranger {l : Fin 6} {h : Hub} {a : Fin 2} {i : Identity}
    (hn : h.links[l].rows[a].assignment = .stranger i) :
    senderOf (touchSilence l (rowByte a) h) l (rowByte a) = .stranger a := by
  simp only [senderOf, rowOf_rowByte, touchSilence_assignment, hn]

theorem senderOf_unassigned {l : Fin 6} {h : Hub} {a : Fin 2}
    (hn : h.links[l].rows[a].assignment = .unassigned) :
    senderOf (touchSilence l (rowByte a) h) l (rowByte a) = .unassigned := by
  simp only [senderOf, rowOf_rowByte, touchSilence_assignment, hn]

end Sys2Proof.Machine
end

