-- ==== Sys2Proof/Laws/Readers.lean ====
section
/-! SUPPORT. What a join and a leave make of each slot and each plate copy (R15, R31, R68 step 2, R71). -/

namespace Sys2Proof.Machine

/-! ### Surfaces (R15) -/

theorem joinSurface_slots (n : Fin 8) (h : Hub) (i i' : Fin 2) (j : Fin 3) :
    (joinSurface n h i).slots[i'][j] =
      if i' = i ∧ newestSlot h i = some j then { h.slots[i'][j] with readers := h.slots[i'][j].readers.set n true }
      else h.slots[i'][j] := by
  unfold joinSurface
  cases e : newestSlot h i with
  | none =>
    dsimp only
    rw [if_neg (by simp)]
  | some k =>
    dsimp only
    rw [Hub.modEngine_slots, Hub.modSlot_slots, upd_get]
    by_cases hi : i = i'
    · subst hi
      rw [if_pos rfl, upd_get]
      by_cases hk : k = j
      · subst hk
        rw [if_pos rfl, if_pos ⟨rfl, rfl⟩]
      · rw [if_neg hk, if_neg (by simp [hk])]
    · rw [if_neg hi, if_neg (by simp [Ne.symm hi])]

theorem joinSurface_engine (n : Fin 8) (h : Hub) (i : Fin 2) :
    (∀ i' : Fin 2, (joinSurface n h i).screens[n].engine.joinedSurfaces[i'] =
      if i' = i ∧ (newestSlot h i).isSome then true else h.screens[n].engine.joinedSurfaces[i']) ∧
    (joinSurface n h i).screens[n].engine.joinedPlates = h.screens[n].engine.joinedPlates ∧
    (joinSurface n h i).plates = h.plates := by
  unfold joinSurface
  cases e : newestSlot h i with
  | none => exact ⟨fun i' => (if_neg (by simp)).symm, rfl, rfl⟩
  | some k =>
    refine ⟨fun i' => ?_, ?_, rfl⟩ <;> dsimp only <;> rw [Hub.modEngine_screens, upd_get_same, Hub.modSlot_screens]
    simp only [Option.isSome_some, and_true]
    by_cases hi : i' = i
    · subst hi
      simp
    · rw [if_neg hi]
      simp [Fin.getElem_fin, Vector.getElem_set_ne, Fin.val_ne_of_ne (Ne.symm hi)]

/-- R15: the surfaces of a list, each joined once. -/
theorem foldl_joinSurface (n : Fin 8) (is : List (Fin 2)) (hn : is.Nodup) (h : Hub) :
    (∀ (i : Fin 2) (j : Fin 3), (is.foldl (joinSurface n) h).slots[i][j] =
      if i ∈ is ∧ newestSlot h i = some j then { h.slots[i][j] with readers := h.slots[i][j].readers.set n true }
      else h.slots[i][j]) ∧
    (∀ i : Fin 2, (is.foldl (joinSurface n) h).screens[n].engine.joinedSurfaces[i] =
      if i ∈ is ∧ (newestSlot h i).isSome then true else h.screens[n].engine.joinedSurfaces[i]) ∧
    (is.foldl (joinSurface n) h).screens[n].engine.joinedPlates = h.screens[n].engine.joinedPlates ∧
    (is.foldl (joinSurface n) h).plates = h.plates := by
  induction is generalizing h with
  | nil => simp
  | cons a is ih =>
    obtain ⟨i1, i2, i3, i4⟩ := ih hn.tail (joinSurface n h a)
    obtain ⟨j1, j2, j3⟩ := joinSurface_engine n h a
    have ha := (List.nodup_cons.1 hn).1
    have nw : ∀ i, newestSlot (joinSurface n h a) i = newestSlot h i := (joinSurface_joined n h a).newestSlot_eq
    refine ⟨fun i j => ?_, fun i => ?_, ?_, ?_⟩ <;> rw [List.foldl_cons]
    · rw [i1, nw, joinSurface_slots]
      by_cases e : i = a
      · subst e
        simp [ha]
      · simp [e]
    · rw [i2, nw, j1]
      by_cases e : i = a
      · subst e
        simp [ha]
      · simp [e]
    · rw [i3, j2]
    · rw [i4, j3]

/-! ### Plates (R31) -/

theorem joinPlate_plates (n : Fin 8) (h : Hub) (p : Fin 16) :
    (∀ q : Fin 16, (joinPlate n h p).plates[q] = { h.plates[q] with copies := (joinPlate n h p).plates[q].copies }) ∧
    (∀ (q : Fin 16) (c : Fin 2), (joinPlate n h p).plates[q].copies[c] =
      if q = p ∧ h.plates[q].live = some c then
        { h.plates[q].copies[c] with readers := h.plates[q].copies[c].readers.set n true }
      else h.plates[q].copies[c]) ∧
    (∀ q : Fin 16, (joinPlate n h p).screens[n].engine.joinedPlates[q] =
      if q = p ∧ h.plates[q].live.isSome then true else h.screens[n].engine.joinedPlates[q]) ∧
    (joinPlate n h p).screens[n].engine.joinedSurfaces = h.screens[n].engine.joinedSurfaces ∧
    (joinPlate n h p).slots = h.slots := by
  unfold joinPlate
  cases e : h.plates[p].live with
  | none =>
    refine ⟨fun q => rfl, fun q c => (if_neg ?_).symm, fun q => (if_neg ?_).symm, rfl, rfl⟩ <;>
      · rintro ⟨rfl, q⟩
        rw [e] at q
        cases q
  | some c =>
    have pl : ∀ q : Fin 16,
        ((h.modCopy p c fun x => { x with readers := x.readers.set n true }).modEngine n fun e =>
          { e with joinedPlates := e.joinedPlates.set p true }).plates[q] =
        if p = q then
          { h.plates[q] with copies := upd h.plates[q].copies c fun x => { x with readers := x.readers.set n true } }
        else h.plates[q] := fun q => upd_get h.plates p q _
    refine ⟨fun q => ?_, fun q d => ?_, fun q => ?_, ?_, rfl⟩ <;> dsimp only
    · rw [pl]
      split <;> rfl
    · rw [pl]
      by_cases hq : p = q
      · subst hq
        rw [if_pos rfl]
        dsimp only
        rw [upd_get]
        by_cases hd : c = d
        · subst hd
          rw [if_pos rfl, if_pos ⟨rfl, e⟩]
        · rw [if_neg hd, if_neg]
          rintro ⟨-, q⟩
          rw [e] at q
          cases q
          exact hd rfl
      · rw [if_neg hq, if_neg fun x => hq x.1.symm]
    · rw [Hub.modEngine_screens, upd_get_same]
      show (h.screens[n].engine.joinedPlates.set p true)[q] = _
      by_cases hi : q = p
      · subst hi
        rw [if_pos ⟨rfl, by rw [e]; rfl⟩]
        simp
      · rw [if_neg fun x => hi x.1]
        simp [Fin.getElem_fin, Vector.getElem_set_ne, Fin.val_ne_of_ne (Ne.symm hi)]
    · rw [Hub.modEngine_screens, upd_get_same]
      rfl

/-- R31: the plates of a list, each joined once. -/
theorem foldl_joinPlate (n : Fin 8) (ps : List (Fin 16)) (hn : ps.Nodup) (h : Hub) :
    (∀ q : Fin 16, (ps.foldl (joinPlate n) h).plates[q] =
      { h.plates[q] with copies := (ps.foldl (joinPlate n) h).plates[q].copies }) ∧
    (∀ (q : Fin 16) (c : Fin 2), (ps.foldl (joinPlate n) h).plates[q].copies[c] =
      if q ∈ ps ∧ h.plates[q].live = some c then
        { h.plates[q].copies[c] with readers := h.plates[q].copies[c].readers.set n true }
      else h.plates[q].copies[c]) ∧
    (∀ q : Fin 16, (ps.foldl (joinPlate n) h).screens[n].engine.joinedPlates[q] =
      if q ∈ ps ∧ h.plates[q].live.isSome then true else h.screens[n].engine.joinedPlates[q]) ∧
    (ps.foldl (joinPlate n) h).screens[n].engine.joinedSurfaces = h.screens[n].engine.joinedSurfaces ∧
    (ps.foldl (joinPlate n) h).slots = h.slots := by
  induction ps generalizing h with
  | nil => simp
  | cons a ps ih =>
    obtain ⟨i1, i2, i3, i4, i5⟩ := ih hn.tail (joinPlate n h a)
    obtain ⟨j1, j2, j3, j4, j5⟩ := joinPlate_plates n h a
    have ha := (List.nodup_cons.1 hn).1
    have jl : ∀ q : Fin 16, (joinPlate n h a).plates[q].live = h.plates[q].live := fun q => by rw [j1]
    refine ⟨fun q => ?_, fun q c => ?_, fun q => ?_, ?_, ?_⟩ <;> rw [List.foldl_cons]
    · rw [i1, j1]
    · rw [i2, jl, j2]
      by_cases e : q = a
      · subst e
        simp only [ha, false_and, if_false, List.mem_cons, true_or]
      · simp only [e, false_and, if_false, List.mem_cons, false_or]
    · rw [i3, jl, j3]
      by_cases e : q = a
      · subst e
        simp only [ha, false_and, if_false, List.mem_cons, true_or]
      · simp only [e, false_and, if_false, List.mem_cons, false_or]
    · rw [i4, j4]
    · rw [i5, j5]

/-! ### All sources of a layout -/

theorem newestSlot_of_slots {h k : Hub} (e : k.slots = h.slots) (i : Fin 2) : newestSlot k i = newestSlot h i := by
  unfold newestSlot
  rw [e]

/-- R68 step 2: every slot, plate and copy, and the sources marked as joined, after the join of the layout's sources. -/
theorem joinSources_readers (n : Fin 8) (h : Hub) (v : Layout) (hv : v = h.screens[n].layout) :
    (∀ (i : Fin 2) (j : Fin 3), (joinSources n h).slots[i][j] =
      if v.names (.surface i) ∧ newestSlot h i = some j then
        { h.slots[i][j] with readers := h.slots[i][j].readers.set n true }
      else h.slots[i][j]) ∧
    (∀ p : Fin 16, (joinSources n h).plates[p] = { h.plates[p] with copies := (joinSources n h).plates[p].copies }) ∧
    (∀ (p : Fin 16) (c : Fin 2), (joinSources n h).plates[p].copies[c] =
      if v.names (.plate p) ∧ h.plates[p].live = some c then
        { h.plates[p].copies[c] with readers := h.plates[p].copies[c].readers.set n true }
      else h.plates[p].copies[c]) ∧
    (∀ i : Fin 2,
      (joinSources n h).screens[n].engine.joinedSurfaces[i] = (v.names (.surface i) && (newestSlot h i).isSome)) ∧
    ∀ p : Fin 16,
      (joinSources n h).screens[n].engine.joinedPlates[p] = (v.names (.plate p) && h.plates[p].live.isSome) := by
  unfold joinSources
  dsimp only
  generalize hA : (h.modEngine n fun e =>
    { e with joinedSurfaces := Vector.replicate 2 false, joinedPlates := Vector.replicate 16 false }) = a
  have al : a.screens[n].layout = v := by
    subst hA
    rw [Hub.modEngine_screens, upd_get_same]
    exact hv.symm
  have ae : a.screens[n].engine.joinedSurfaces = Vector.replicate 2 false ∧
      a.screens[n].engine.joinedPlates = Vector.replicate 16 false := by
    subst hA
    rw [Hub.modEngine_screens, upd_get_same]
    exact ⟨rfl, rfl⟩
  have as : a.slots = h.slots := by subst hA; rfl
  have ap : a.plates = h.plates := by subst hA; rfl
  rw [al]
  obtain ⟨s1, s2, s3, s4⟩ :=
    foldl_joinSurface n (allInputs.filter fun i => v.names (.surface i)) ((by decide : allInputs.Nodup).filter _) a
  generalize (allInputs.filter fun i => v.names (.surface i)).foldl (joinSurface n) a = b at *
  obtain ⟨p1, p2, p3, p4, p5⟩ :=
    foldl_joinPlate n (allPlates.filter fun p => v.names (.plate p)) ((by decide : allPlates.Nodup).filter _) b
  generalize (allPlates.filter fun p => v.names (.plate p)).foldl (joinPlate n) b = c at *
  have mi : ∀ i, i ∈ (allInputs.filter fun i => v.names (.surface i)) ↔ v.names (.surface i) = true := fun i =>
    List.mem_filter.trans ⟨fun x => x.2, fun x => ⟨(by decide : ∀ i, i ∈ allInputs) i, x⟩⟩
  have mp : ∀ p, p ∈ (allPlates.filter fun p => v.names (.plate p)) ↔ v.names (.plate p) = true := fun p =>
    List.mem_filter.trans ⟨fun x => x.2, fun x => ⟨(by decide : ∀ p, p ∈ allPlates) p, x⟩⟩
  refine ⟨fun i j => ?_, fun p => ?_, fun p c => ?_, fun i => ?_, fun p => ?_⟩
  · simp only [p5]
    rw [s1]
    simp only [mi, newestSlot_of_slots as, as]
  · have := p1 p
    simp only [s4, ap] at this
    exact this
  · rw [p2]
    simp only [mp, s4, ap]
  · simp only [p4]
    rw [s2]
    simp only [mi, newestSlot_of_slots as, ae.1]
    cases v.names (.surface i) <;> cases (newestSlot h i).isSome <;> simp
  · rw [p3]
    simp only [mp, s4, ap, s3, ae.2]
    cases v.names (.plate p) <;> cases (h.plates[p].live).isSome <;> simp

/-! ### Leaving (R71) -/

/-- R15, R71: to join a Newest slot and to leave it is to leave it. -/
theorem Slot.leave_join (n : Fin 8) {x : Slot} (hx : x.state = .newest) :
    Slot.leave n { x with readers := x.readers.set n true } = Slot.leave n x := by
  have t : (x.readers.set n true)[n] = true := by simp
  have s : (x.readers.set n true).set n false = x.readers.set n false := by simp
  unfold Slot.leave
  simp only [t, if_true, hx, s, reduceCtorEq, false_and, if_false]
  cases hr : x.readers[n] with
  | true => simp
  | false =>
    have e : x.readers.set n false = x.readers := by
      ext m hm
      rw [Vector.getElem_set]
      split
      · next e => subst e; exact hr.symm
      · rfl
    simp only [e, Bool.false_eq_true, if_false]
    rw [← hx]

/-- R31, R71: to join a Live copy and to leave it is to leave it. -/
theorem PlateCopy.leave_join (n : Fin 8) {x : PlateCopy} (hx : x.state = .live) :
    PlateCopy.leave n { x with readers := x.readers.set n true } = PlateCopy.leave n x := by
  have t : (x.readers.set n true)[n] = true := by simp
  have s : (x.readers.set n true).set n false = x.readers.set n false := by simp
  unfold PlateCopy.leave
  simp only [t, if_true, hx, s, reduceCtorEq, false_and, if_false]
  cases hr : x.readers[n] with
  | true => simp
  | false =>
    have e : x.readers.set n false = x.readers := by
      ext m hm
      rw [Vector.getElem_set]
      split
      · next e => subst e; exact hr.symm
      · rfl
    simp only [e, Bool.false_eq_true, if_false]
    rw [← hx]

end Sys2Proof.Machine
end

