-- ==== Sys2Proof/Laws/Reset.lean ====
section
/-! SUPPORT. What a disable and a reset of a link can do (R111, R112), and when lock can be lost (R122). Later proofs cite
`abort_onLink`, `dropScreens_onLink` and `dropScreens_missing` and unfold no abort. -/

namespace Sys2Proof.Machine

theorem modLink_modLink (h : Hub) (l : Fin 6) (f g : Link → Link) :
    (h.modLink l f).modLink l g = h.modLink l fun x => g (f x) := by
  have e : upd (upd h.links l f) l g = upd h.links l fun x => g (f x) := by
    ext j hj
    simp only [upd, Fin.getElem_fin, Vector.getElem_set]
    split <;> simp
  simp only [Hub.modLink, e]

/-! ### Loss of lock (R122) -/

/-- R122: in Rolling and Up lock is lost at the current rate. -/
theorem lockedRate_running {k : Link} {r : LinkRate} (hs : k.state = .rolling ∨ k.state = .up)
    (hr : k.rate = some r) : lockedRate k = some r := by
  unfold lockedRate
  rcases hs with hs | hs <;> rw [hs] <;> simp [hr]

/-- R122: in the hold lock is lost at the rate that the reset taken first cut (log 25). -/
theorem lockedRate_hold {k : Link} (hs : k.state = .training .hold) : lockedRate k = k.cutRate := by
  unfold lockedRate
  rw [hs]

/-- R122: in no other state is the line locked. -/
theorem lockedRate_none {k : Link} (h1 : k.state ≠ .rolling) (h2 : k.state ≠ .up) (h3 : k.state ≠ .training .hold) :
    lockedRate k = none := by
  unfold lockedRate
  split <;> simp_all

/-! ### What aborts on a link can do -/

/-- `k` holds no buffer for link `l` that `h` does not hold, and differs from `h` on the link as aborts do. -/
structure OnLink (l : Fin 6) (h k : Hub) : Prop where
  buffers : (∀ (b : Fin 32) (x : Lend), h.buffers[b] = some x → x.link ≠ l) →
    ∀ (b : Fin 32) (x : Lend), k.buffers[b] = some x → x.link ≠ l
  link : Link.Aborted h.links[l] k.links[l]
  line : k.links[l].line = none ↔ h.links[l].line = none
  portA : k.portA = h.portA
  portB : k.portB = h.portB

namespace OnLink

theorem refl (l : Fin 6) (h : Hub) : OnLink l h h := ⟨id, Link.Aborted.refl _, Iff.rfl, rfl, rfl⟩

theorem trans {l : Fin 6} {h k m : Hub} (a : OnLink l h k) (b : OnLink l k m) : OnLink l h m :=
  ⟨b.buffers ∘ a.buffers, a.link.trans b.link, b.line.trans a.line, b.portA.trans a.portA, b.portB.trans a.portB⟩

end OnLink

theorem abortAtLink_line (n : Fin 8) (h : Hub) (l : Fin 6) :
    (abortAtLink n h).links[l].line = none ↔ h.links[l].line = none := by
  unfold abortAtLink
  split
  · exact Iff.rfl
  · simp only [Hub.modLink_links]
    rw [upd_get]
    split
    · next e => subst e; simp
    · exact Iff.rfl

/-- R79: an abort, seen from a link. -/
theorem abort_onLink (l : Fin 6) (n : Fin 8) (h : Hub) : OnLink l h (abort n h) := by
  have ab := abort_aborted n h
  refine ⟨fun hb b y hy => ?_, ab.links l, ?_, ab.portA, ab.portB⟩
  · obtain ⟨x, hx, h1, -⟩ := ab.buffers b y hy
    rw [h1]
    exact hb b x hx
  · rw [(abort_atLink n h l).2]
    exact abortAtLink_line n h l

/-! ### The screens of the link -/

/-- R111 step 3, R112 step 3: one screen of the link. -/
def dropScreen (h : Hub) (n : Fin 8) : Hub :=
  if h.screens[n].state = .joined ∨ h.screens[n].state = .lost ∨ h.screens[n].state = .parked then
    setScreenState n .missing (abort n h)
  else h

theorem dropScreens_eq (l : Fin 6) (h : Hub) : dropScreens l h = (boundTo h l).foldl dropScreen h := rfl

/-- R111, R112: the drop of a link's screens, seen from the link. -/
theorem dropScreens_onLink (l : Fin 6) (h : Hub) : OnLink l h (dropScreens l h) := by
  rw [dropScreens_eq]
  generalize boundTo h l = screens
  induction screens generalizing h with
  | nil => exact OnLink.refl l h
  | cons n _ ih =>
    rw [List.foldl_cons]
    refine OnLink.trans ?_ (ih _)
    unfold dropScreen
    split
    · refine (abort_onLink l n h).trans ?_
      generalize abort n h = k
      exact ⟨id, Link.Aborted.refl _, Iff.rfl, rfl, rfl⟩
    · exact OnLink.refl l h

theorem dropScreen_at (h : Hub) (n m : Fin 8) :
    (dropScreen h n).screens[m].link = h.screens[m].link ∧
      (dropScreen h n).screens[m].state =
        if m = n ∧ (h.screens[m].state = .joined ∨ h.screens[m].state = .lost ∨ h.screens[m].state = .parked) then
          .missing
        else h.screens[m].state := by
  have aborted := abort_screen n h
  have rest := (abort_aborted n h).others
  unfold dropScreen
  generalize abort n h = k at *
  have same : (setScreenState n .missing k).screens[n] = { h.screens[n].aborted with state := .missing } := by
    show (upd k.screens n _)[n] = _
    rw [upd_get_same, aborted]
  have others : ∀ m, m ≠ n → (setScreenState n .missing k).screens[m] = h.screens[m] := by
    intro m e
    show (upd k.screens n _)[m] = _
    rw [upd_get_other _ _ (Ne.symm e), rest m e]
  by_cases hc : h.screens[n].state = .joined ∨ h.screens[n].state = .lost ∨ h.screens[n].state = .parked
  · simp only [if_pos hc]
    by_cases e : m = n
    · subst e
      rw [same, if_pos ⟨rfl, hc⟩]
      exact ⟨rfl, rfl⟩
    · rw [others m e, if_neg (fun q => e q.1)]
      exact ⟨rfl, rfl⟩
  · simp only [if_neg hc]
    refine ⟨trivial, (if_neg ?_).symm⟩
    rintro ⟨rfl, q⟩
    exact hc q

theorem foldl_dropScreen_at (screens : List (Fin 8)) (h : Hub) (m : Fin 8) :
    (screens.foldl dropScreen h).screens[m].link = h.screens[m].link ∧
      (screens.foldl dropScreen h).screens[m].state =
        if m ∈ screens ∧ (h.screens[m].state = .joined ∨ h.screens[m].state = .lost ∨ h.screens[m].state = .parked) then
          .missing
        else h.screens[m].state := by
  induction screens generalizing h with
  | nil => exact ⟨rfl, by simp⟩
  | cons n rest ih =>
    obtain ⟨i1, i2⟩ := ih (dropScreen h n)
    obtain ⟨o1, o2⟩ := dropScreen_at h n m
    rw [List.foldl_cons]
    refine ⟨i1.trans o1, ?_⟩
    rw [i2, o2]
    by_cases e : m = n
    · subst e
      by_cases c : h.screens[m].state = .joined ∨ h.screens[m].state = .lost ∨ h.screens[m].state = .parked
      · simp only [c, and_true, if_true, List.mem_cons, true_or]
        simp
      · simp only [c, and_false, if_false]
    · simp only [e, false_and, if_false, List.mem_cons, false_or]

/-- R111, R112: after the drop every screen bound to the link is Missing. -/
theorem dropScreens_missing (l : Fin 6) (h : Hub) (n : Fin 8) (hl : (dropScreens l h).screens[n].link = some l)
    (hb : (dropScreens l h).screens[n].bound = true) : (dropScreens l h).screens[n].state = .missing := by
  obtain ⟨t1, t2⟩ := foldl_dropScreen_at (boundTo h l) h n
  rw [← dropScreens_eq] at t1 t2
  rw [t1] at hl
  simp only [Screen.bound, t2] at hb
  rw [t2]
  by_cases hm : n ∈ boundTo h l
  · revert hb
    generalize h.screens[n].state = st
    cases st <;> simp [hm]
  · have : ¬h.screens[n].bound = true := by
      intro hbb
      apply hm
      unfold boundTo
      rw [List.mem_filter]
      exact ⟨(by decide : ∀ m : Fin 8, m ∈ allScreens) n, by rw [hbb, hl]; simp⟩
    have : h.screens[n].state = .unbound := by simpa [Screen.bound] using this
    rw [this] at hb
    simp [hm] at hb

end Sys2Proof.Machine
end

