-- ==== Sys2Proof/Laws/Settle.lean ====
section
/-! SUPPORT. What follows at an event (log 2): handling a frame touches no input queue, so that the frames of two queues
of at most eight frames are all taken where a port may begin them (`drain_enough`, `settle_step`), and every event ends
with the starts of transmissions (`settle_ends`). -/

namespace Sys2Proof.Machine

/-! ### Handling a frame touches no input queue -/

/-- The input queues of the two parts are the same. -/
def InputsKept (h k : Hub) : Prop := k.portA.input = h.portA.input ∧ k.portB.input = h.portB.input

namespace InputsKept

theorem refl (h : Hub) : InputsKept h h := ⟨rfl, rfl⟩

theorem trans {h k m : Hub} (a : InputsKept h k) (b : InputsKept k m) : InputsKept h m :=
  ⟨b.1.trans a.1, b.2.trans a.2⟩

theorem ite {c : Prop} [Decidable c] {h a b : Hub} (ha : InputsKept h a) (hb : InputsKept h b) :
    InputsKept h (if c then a else b) := by
  split
  · exact ha
  · exact hb

theorem foldl {α : Type} {f : Hub → α → Hub} (hf : ∀ h a, InputsKept h (f h a)) (l : List α) (h : Hub) :
    InputsKept h (l.foldl f h) := by
  induction l generalizing h with
  | nil => exact refl h
  | cons a l ih => exact (hf h a).trans (ih (f h a))

theorem ofKept {h k : Hub} (a : Hub.Kept h k) : InputsKept h k := ⟨by rw [a.portA], by rw [a.portB]⟩

theorem modPort (p : Port) {f : PortState → PortState} (hf : ∀ x, (f x).input = x.input) (h : Hub) :
    InputsKept h (h.modPort p f) := by
  cases p
  · exact ⟨hf _, rfl⟩
  · exact ⟨rfl, hf _⟩

end InputsKept

theorem notify_inputs (ports : List Port) (k : NoticeKind) (body : List Byte) (h : Hub) :
    InputsKept h (notify ports k body h) := by
  obtain ⟨_, _, _, _, e⟩ := notify_only ports k body h
  rw [e]
  exact ⟨rfl, rfl⟩

theorem reply_inputs (p : Port) (kind tag : Byte) (r : Result) (data : List Byte) (h : Hub) :
    InputsKept h (reply p kind tag r data h) := by
  unfold reply
  exact InputsKept.modPort p (by intro; rfl) h

theorem tear_inputs (i : Fin 2) (r : TearReason) (h : Hub) : InputsKept h (tear i r h) := by
  refine InputsKept.trans ?_ (notify_inputs _ _ _ _)
  cases h.captures[i].filling <;> exact InputsKept.refl h

theorem clearLink_inputs (l : Fin 6) (h : Hub) : InputsKept h (dropScreens l (freeLinkBuffers l h)) :=
  InputsKept.ofKept ((freeLinkBuffers_kept l h).trans (dropScreens_kept l _))

theorem resetLink_inputs (l : Fin 6) (cap : LinkRate) (h : Hub) : InputsKept h (resetLink l cap h) := by
  have d := clearLink_inputs l h
  unfold resetLink
  split
  · exact InputsKept.refl h
  all_goals first
    | exact d
    | exact InputsKept.refl h

theorem disableLink_inputs (l : Fin 6) (h : Hub) : InputsKept h (disableLink l h) := clearLink_inputs l h

theorem takeWake_inputs (l : Fin 6) (h : Hub) : InputsKept h (takeWake l h) :=
  InputsKept.ite (notify_inputs _ _ _ h) (notify_inputs _ _ _ h)

theorem seizeCycle_inputs (n : Fin 8) (h : Hub) : InputsKept h (seizeCycle n h) := by
  unfold seizeCycle cut
  split
  · exact InputsKept.ofKept (startCycle_kept n h)
  · exact InputsKept.ofKept
      (((leaveSources_kept n h).trans (dropTargets_kept n _)).trans (setCycle_kept n _ _))
  · exact InputsKept.refl h
  · exact InputsKept.ofKept (startCycle_kept n h)
  · exact InputsKept.refl h
  · exact InputsKept.refl h

theorem seizeScreen_inputs (n : Fin 8) (l : Layout) (h : Hub) : InputsKept h (seizeScreen n l h).hub := by
  unfold seizeScreen
  split
  · exact InputsKept.refl h
  · have k := seizeCycle_inputs n (leaveRunning n (h.modScreen n (Screen.seized l)))
    exact InputsKept.ite (InputsKept.trans k (notify_inputs _ _ _ _)) k

theorem blankScreen_inputs (n : Fin 8) (h : Hub) : InputsKept h (blankScreen n h) := by
  unfold blankScreen
  split <;> exact InputsKept.refl _

theorem unbindScreen_inputs (n : Fin 8) (h : Hub) : InputsKept h (unbindScreen n h).hub := by
  have k : InputsKept h (if h.screens[n].state = .joined then blankScreen n (abort n h) else abortAtLink n h) :=
    InputsKept.ite (InputsKept.trans (InputsKept.ofKept (abort_kept n h)) (blankScreen_inputs n _))
      (InputsKept.ofKept (abortAtLink_kept n h))
  unfold unbindScreen
  generalize (if h.screens[n].state = .joined then blankScreen n (abort n h) else abortAtLink n h) = m at k ⊢
  exact ⟨k.1, k.2⟩

theorem onBound_inputs (n : Fin 8) {f : Hub → Answer} (hf : ∀ h, InputsKept h (f h).hub) (h : Hub) :
    InputsKept h (onBound n f h).hub := by
  unfold onBound
  split
  · exact hf h
  · exact InputsKept.refl h

theorem asOwner_inputs (p : Port) (n : Fin 8) {f : Hub → Answer} (hf : ∀ h, InputsKept h (f h).hub) (h : Hub) :
    InputsKept h (asOwner p n f h).hub :=
  onBound_inputs n (fun h => by
    split
    · exact hf h
    · exact InputsKept.refl h) h

theorem fromB_inputs (p : Port) (n : Fin 8) {f : Hub → Answer} (hf : ∀ h, InputsKept h (f h).hub) (h : Hub) :
    InputsKept h (fromB p n f h).hub :=
  onBound_inputs n (fun h => by
    split
    · exact hf h
    · exact InputsKept.refl h) h

theorem asWriter_inputs (p : Port) (pl : Fin 16) {f : Hub → Answer} (hf : ∀ h, InputsKept h (f h).hub) (h : Hub) :
    InputsKept h (asWriter p pl f h).hub := by
  unfold asWriter
  split
  · exact hf h
  · exact InputsKept.refl h

theorem enableInput_inputs (p : Port) (i : Fin 2) (z : Size) (h : Hub) : InputsKept h (enableInput p i z h).hub := by
  unfold enableInput enableSameSize
  split
  · exact InputsKept.ite (InputsKept.refl h) (InputsKept.refl h)
  · split
    · exact InputsKept.refl h
    · exact InputsKept.trans (InputsKept.ite (tear_inputs i _ h) (InputsKept.refl h)) (InputsKept.refl _)

theorem perform_inputs (p : Port) (tag : Byte) (r : Request) (h : Hub) : InputsKept h (perform p tag r h).hub := by
  cases r with
  | hubAsk => exact InputsKept.modPort p (by intro; rfl) h
  | hubReset =>
    show InputsKept h (resetHub p h).hub
    unfold resetHub
    split
    · exact InputsKept.modPort p (f := fun x => { x with handling := some .hubReset }) (fun _ => rfl) h
    · exact InputsKept.refl h
  | lineSet rate => exact InputsKept.modPort p (by intro; rfl) h
  | noticeSet kinds => exact InputsKept.modPort p (by intro; rfl) h
  | inputSet input enable columns rows =>
    show InputsKept h (if enable = 1 then _ else _ : Answer).hub
    split
    · exact enableInput_inputs p _ _ h
    · exact InputsKept.trans (InputsKept.ite (tear_inputs _ _ h) (InputsKept.refl h)) (InputsKept.refl _)
  | inputAsk input => exact InputsKept.refl h
  | plateOpen plate columns rows =>
    refine asWriter_inputs p _ (fun h => ?_) h
    unfold openPlate
    dsimp only
    split <;> exact InputsKept.refl h
  | plateCommit plate =>
    refine asWriter_inputs p _ (fun h => ?_) h
    unfold commitPlate
    dsimp only
    split
    · exact InputsKept.refl h
    · split
      · exact InputsKept.refl h
      · exact InputsKept.trans (InputsKept.refl h) (InputsKept.modPort p (by intro; rfl) _)
  | plateDrop plate =>
    refine asWriter_inputs p _ (fun h => ?_) h
    unfold dropPlate
    split <;> exact InputsKept.refl h
  | plateAsk plate => exact InputsKept.refl h
  | screenBind screen link identity columns rows fill =>
    show InputsKept h (bindScreen p _ _ _ _ _ h).hub
    unfold bindScreen
    dsimp only
    split
    · exact InputsKept.refl h
    · split
      · exact InputsKept.refl h
      · split
        · exact InputsKept.refl h
        · split <;> exact InputsKept.refl h
  | screenUnbind screen => exact asOwner_inputs p _ (unbindScreen_inputs _) h
  | screenAsk screen => exact InputsKept.refl h
  | layoutSet screen present stamp views =>
    refine asOwner_inputs p _ (fun h => ?_) h
    unfold setLayout
    dsimp only
    split
    · exact InputsKept.refl h
    · split <;> exact InputsKept.refl h
  | groupSet screen present group =>
    refine asOwner_inputs p _ (fun h => ?_) h
    exact InputsKept.ite (InputsKept.refl h) (InputsKept.refl h)
  | paceSet target number pace =>
    show InputsKept h (if target = 0 then _ else _ : Answer).hub
    split
    · exact asOwner_inputs p _ (fun h => InputsKept.refl h) h
    · exact InputsKept.refl h
  | fillSet screen fill => exact asOwner_inputs p _ (fun h => InputsKept.refl h) h
  | claim screen =>
    refine onBound_inputs _ (fun h => ?_) h
    unfold claimScreen
    split <;> exact InputsKept.refl h
  | yieldScreen screen =>
    refine asOwner_inputs p _ (fun h => ?_) h
    unfold yieldOwner
    split <;> exact InputsKept.refl h
  | seize screen views => exact fromB_inputs p _ (seizeScreen_inputs _ _) h
  | returnScreen screen =>
    refine fromB_inputs p _ (fun h => ?_) h
    unfold returnOwner
    split
    · exact InputsKept.refl h
    · exact InputsKept.trans (InputsKept.refl h) (notify_inputs _ _ _ _)
  | linkSet link enable cap wakeMode autoWake warmUp =>
    show InputsKept h (if enable = 1 then _ else _ : Answer).hub
    split
    · show InputsKept h (enableLink _ _ h)
      unfold enableLink
      refine InputsKept.ite (InputsKept.refl h) (InputsKept.ite ?_ (InputsKept.refl h))
      exact InputsKept.trans (InputsKept.refl h) (takeWake_inputs _ _)
    · exact InputsKept.ite (InputsKept.refl h) (disableLink_inputs _ h)
  | linkReset link =>
    show InputsKept h (resetRequest _ h).hub
    unfold resetRequest
    split
    all_goals first
      | exact InputsKept.refl h
      | exact resetLink_inputs _ _ h
  | linkPark link =>
    show InputsKept h (parkRequest p _ h).hub
    unfold parkRequest
    dsimp only
    split
    · exact InputsKept.refl h
    · split
      · exact InputsKept.refl h
      · split <;> exact InputsKept.refl h
  | linkWake link =>
    show InputsKept h (wakeRequest _ h).hub
    unfold wakeRequest
    split <;> exact InputsKept.refl h
  | linkAsk link => exact InputsKept.refl h
  | levelSet screen mode target step input curve => exact asOwner_inputs p _ (fun h => InputsKept.refl h) h
  | curveSet curve points =>
    show InputsKept h (setCurve _ _ h).hub
    unfold setCurve
    split <;> exact InputsKept.refl h
  | lightAsk => exact InputsKept.refl h

/-- R164: handling a frame takes no frame from an input queue and puts none into one. -/
theorem handleFrame_inputs (p : Port) (f : Frame) (h : Hub) : InputsKept h (handleFrame p f h) := by
  unfold handleFrame
  split
  · exact reply_inputs _ _ _ _ _ h
  · unfold handleRequest queueAnswer judge
    split <;> split <;> try exact InputsKept.refl h
    all_goals first
      | exact reply_inputs _ _ _ _ _ h
      | exact (perform_inputs p f.tag _ h).trans (reply_inputs _ _ _ _ _ _)
      | exact perform_inputs p f.tag _ h

/-! ### The frames that wait -/

def waiting (h : Hub) : Nat := h.portA.input.length + h.portB.input.length

theorem waiting_of_inputs {h k : Hub} (a : InputsKept h k) : waiting k = waiting h := by
  unfold waiting
  rw [a.1, a.2]

theorem waiting_consequences (h : Hub) : waiting (consequences h) = waiting h :=
  waiting_of_inputs (InputsKept.ofKept (consequences_kept h))

theorem beginningPort_input {h : Hub} {p : Port} (hp : beginningPort h = some p) : (h.port p).mayBegin = true := by
  unfold beginningPort at hp
  split at hp
  · cases hp
  · split at hp
    · cases hp
      assumption
    · split at hp
      · cases hp
        assumption
      · cases hp

/-- R164: a frame that is handled has left its queue. -/
theorem waiting_handleOldest {h : Hub} {p : Port} (hp : beginningPort h = some p) :
    waiting (handleOldest p h) + 1 = waiting h := by
  have m := beginningPort_input hp
  unfold handleOldest
  split
  · next e => simp [PortState.mayBegin, e] at m
  · next f rest e =>
    rw [waiting_of_inputs (handleFrame_inputs p f _)]
    cases p
    · have : h.portA.input = f :: rest := e
      simp [waiting, Hub.modPort, this]
      omega
    · have : h.portB.input = f :: rest := e
      simp [waiting, Hub.modPort, this]
      omega

/-- As many steps as frames wait are enough, and more change nothing. -/
theorem drain_enough (m : Nat) (h : Hub) (hm : waiting h ≤ m) : drain (m + 1) h = drain m h := by
  induction m generalizing h with
  | zero =>
    have : beginningPort h = none := by
      cases hp : beginningPort h with
      | none => rfl
      | some p => have := waiting_handleOldest hp; omega
    simp [drain, this]
  | succ m ih =>
    rw [drain, drain]
    cases hp : beginningPort h with
    | none => rfl
    | some p =>
      refine ih _ ?_
      rw [waiting_consequences]
      have := waiting_handleOldest hp
      omega

/-- R164: while a port may begin a frame, what follows at an event is that of the part in which the port has handled its
oldest frame. -/
theorem settle_step {h : Hub} {p : Port} (hp : beginningPort (consequences h) = some p)
    (hw : waiting (consequences h) ≤ 8) : settle h = settle (handleOldest p (consequences h)) := by
  have := waiting_handleOldest hp
  have e : drain 8 (consequences h) = drain 7 (consequences (handleOldest p (consequences h))) := by rw [drain, hp]
  rw [settle, e]
  exact (drain_enough 7 _ (by rw [waiting_consequences]; omega)).symm

theorem settle_done {h : Hub} (hp : beginningPort (consequences h) = none) : settle h = consequences h := by
  unfold settle
  rw [drain, hp]

/-! ### Every event ends with the starts of transmissions -/

theorem drain_ends {q : Hub → Prop} (hq : ∀ h, q (consequences h)) (m : Nat) (h : Hub) : q (drain m (consequences h)) := by
  induction m generalizing h with
  | zero => exact hq h
  | succ m ih =>
    rw [drain]
    split
    · exact ih _
    · exact hq h

theorem settle_ends {q : Hub → Prop} (hq : ∀ h, q (consequences h)) (h : Hub) : q (settle h) := drain_ends hq 8 h

end Sys2Proof.Machine
end

