-- ==== Sys2Proof/Laws/Views.lean ====
section
/-! SUPPORT. What the derived views of the hub say, one lemma for each: the searches (the first element of an ascending
list, or of a queue, that meets a condition: `find?_first`, `find?_inOrder`), the conditions of requests, grants and
triggers, the conditions under which a step of the engines is taken, and the target of a directory entry. -/

namespace Sys2Proof.Machine

/-! ### The first of an ascending list -/

theorem find?_ascending {α : Type} [LinearOrder α] {p : α → Bool} {l : List α} (hl : l.Pairwise (· < ·)) (n : α) :
    l.find? p = some n ↔ (n ∈ l ∧ p n = true) ∧ ∀ m ∈ l, m < n → p m = false := by
  induction l with
  | nil => simp
  | cons a l ih =>
    rw [List.pairwise_cons] at hl
    rw [List.find?_cons]
    cases hp : p a with
    | true =>
      simp only [Option.some.injEq, List.mem_cons]
      constructor
      · rintro rfl
        refine ⟨⟨Or.inl rfl, hp⟩, fun m hm hlt => ?_⟩
        rcases hm with rfl | hm
        · exact absurd hlt (lt_irrefl _)
        · exact absurd (hl.1 m hm) (not_lt.2 hlt.le)
      · rintro ⟨⟨h1, _⟩, h3⟩
        rcases h1 with h1 | h1
        · exact h1.symm
        · have := h3 a (Or.inl rfl) (hl.1 n h1)
          simp [hp] at this
    | false =>
      rw [ih hl.2]
      simp only [List.mem_cons, forall_eq_or_imp]
      constructor
      · rintro ⟨⟨h1, h2⟩, h3⟩
        exact ⟨⟨Or.inr h1, h2⟩, fun _ => hp, h3⟩
      · rintro ⟨⟨h1, h2⟩, _, h4⟩
        rcases h1 with rfl | h1
        · simp [hp] at h2
        · exact ⟨⟨h1, h2⟩, h4⟩

/-- A search of an ascending list, the members that meet its condition being those of `q`. -/
theorem find?_first {α : Type} [LinearOrder α] {p : α → Bool} {l : List α} {q : α → Prop}
    (hl : l.Pairwise (· < ·)) (hq : ∀ n, (n ∈ l ∧ p n = true) ↔ q n) :
    (∀ n, l.find? p = some n ↔ q n ∧ ∀ m < n, ¬q m) ∧ (l.find? p = none ↔ ∀ n, ¬q n) := by
  refine ⟨fun n => ?_, ?_⟩
  · rw [find?_ascending hl, hq]
    refine and_congr Iff.rfl ⟨fun H m hm hf => ?_, fun H m hm hlt => ?_⟩
    · have hf := (hq m).2 hf
      have := H m hf.1 hm
      rw [hf.2] at this
      cases this
    · have := H m hlt
      rw [← hq] at this
      simpa [hm] using this
  · rw [List.find?_eq_none]
    exact ⟨fun H n hn => H n ((hq n).2 hn).1 ((hq n).2 hn).2, fun H n hn hp => H n ((hq n).1 ⟨hn, hp⟩)⟩

/-- A search of a queue, from its head. -/
theorem find?_inOrder {α : Type} {p : α → Bool} {l : List α} {q : α → Prop} (hq : ∀ b, p b = true ↔ q b) :
    (∀ b, l.find? p = some b ↔ q b ∧ ∃ before after, l = before ++ b :: after ∧ ∀ c ∈ before, ¬q c) ∧
      (l.find? p = none ↔ ∀ b ∈ l, ¬q b) := by
  refine ⟨fun b => ?_, ?_⟩
  · rw [List.find?_eq_some_iff_append]
    simp only [Bool.not_eq_true', ← Bool.not_eq_true, hq]
  · rw [List.find?_eq_none]
    simp only [hq]

theorem allScreens_ascending : allScreens.Pairwise (· < ·) := by decide
theorem allSlots_ascending : allSlots.Pairwise (· < ·) := by decide
theorem allBuffers_ascending : allBuffers.Pairwise (· < ·) := by decide
theorem mem_allScreens (n : Fin 8) : n ∈ allScreens := by revert n; decide
theorem mem_allSlots (k : Fin 3) : k ∈ allSlots := by revert k; decide
theorem mem_allBuffers (b : Fin 32) : b ∈ allBuffers := by revert b; decide
theorem mem_allGroups (g : Fin 4) : g ∈ allGroups := by revert g; decide
theorem mem_allInputs (i : Fin 2) : i ∈ allInputs := by revert i; decide
theorem mem_allPlates (p : Fin 16) : p ∈ allPlates := by revert p; decide

theorem mem_boundTo (h : Hub) (l : Fin 6) (n : Fin 8) :
    n ∈ boundTo h l ↔ h.screens[n].state ≠ .unbound ∧ h.screens[n].link = some l := by
  simp [boundTo, Screen.bound, mem_allScreens]

theorem boundTo_ascending (h : Hub) (l : Fin 6) : (boundTo h l).Pairwise (· < ·) := allScreens_ascending.filter _

/-! ### Each search -/

/-- R14: the Newest slot of a surface. -/
theorem newestSlot_first (h : Hub) (i : Fin 2) :
    (∀ k, newestSlot h i = some k ↔ h.slots[i][k].state = .newest ∧ ∀ j < k, h.slots[i][j].state ≠ .newest) ∧
      (newestSlot h i = none ↔ ∀ k : Fin 3, h.slots[i][k].state ≠ .newest) :=
  find?_first (p := fun k : Fin 3 => h.slots[i][k].state == .newest) (q := fun k : Fin 3 => h.slots[i][k].state = .newest)
    allSlots_ascending fun k : Fin 3 => by simp [mem_allSlots]

/-- R9: the lowest-numbered Free slot. -/
theorem freeSlot_first (h : Hub) (i : Fin 2) :
    (∀ k, freeSlot h i = some k ↔ h.slots[i][k].state = .free ∧ ∀ j < k, h.slots[i][j].state ≠ .free) ∧
      (freeSlot h i = none ↔ ∀ k : Fin 3, h.slots[i][k].state ≠ .free) :=
  find?_first (p := fun k : Fin 3 => h.slots[i][k].state == .free) (q := fun k : Fin 3 => h.slots[i][k].state = .free)
    allSlots_ascending fun k : Fin 3 => by simp [mem_allSlots]

/-- R91: the lowest-numbered Free buffer. -/
theorem lowestFreeBuffer_first (h : Hub) :
    (∀ b, lowestFreeBuffer h = some b ↔ h.buffers[b] = none ∧ ∀ c < b, h.buffers[c] ≠ none) ∧
      (lowestFreeBuffer h = none ↔ ∀ b : Fin 32, h.buffers[b] ≠ none) :=
  find?_first (p := fun b : Fin 32 => h.buffers[b].isNone) (q := fun b : Fin 32 => h.buffers[b] = none)
    allBuffers_ascending fun b => by simp [mem_allBuffers]

/-- R115: the screen a HELLO is matched to. -/
theorem awaitedScreen_first (h : Hub) (l : Fin 6) (identity : Identity) {q : Fin 8 → Prop}
    (hq : ∀ n, q n ↔ h.screens[n].link = some l ∧
      (h.screens[n].state = .missing ∨ h.screens[n].state = .parked) ∧ h.screens[n].identity = some identity) :
    (∀ n, awaitedScreen h l identity = some n ↔ q n ∧ ∀ m < n, ¬q m) ∧
      (awaitedScreen h l identity = none ↔ ∀ n, ¬q n) :=
  find?_first (boundTo_ascending h l) fun n => by
    rw [hq, mem_boundTo]
    simp only [Bool.and_eq_true, Bool.or_eq_true, beq_iff_eq]
    constructor
    · rintro ⟨⟨_, b⟩, c⟩
      exact ⟨b, c⟩
    · rintro ⟨b, c⟩
      refine ⟨⟨?_, b⟩, c⟩
      rcases c.1 with e | e <;> rw [e] <;> decide

/-- R123: the lowest-numbered Joined screen of the link that the port does not own. -/
theorem foreignJoined_first (p : Port) (h : Hub) (l : Fin 6) {q : Fin 8 → Prop}
    (hq : ∀ n, q n ↔ h.screens[n].link = some l ∧ h.screens[n].state = .joined ∧ h.screens[n].owner ≠ some p) :
    (∀ n, foreignJoined p h l = some n ↔ q n ∧ ∀ m < n, ¬q m) ∧ (foreignJoined p h l = none ↔ ∀ n, ¬q n) :=
  find?_first (boundTo_ascending h l) fun n => by
    rw [hq, mem_boundTo]
    simp only [Bool.and_eq_true, beq_iff_eq, bne_iff_ne]
    constructor
    · rintro ⟨⟨_, b⟩, c⟩
      exact ⟨b, c⟩
    · rintro ⟨b, c⟩
      exact ⟨⟨by rw [c.1]; decide, b⟩, c⟩

/-- R96: the Sent buffer of an address and tile index that was transmitted first. -/
theorem matchSent_first (h : Hub) (l : Fin 6) (a : Fin 2) (t : Nat) {q : Fin 32 → Prop}
    (hq : ∀ b, q b ↔ ∃ x, h.buffers[b] = some x ∧ x.phase = .sent ∧ x.link = l ∧ x.row = a ∧ x.tile = t) :
    (∀ b, matchSent h l a t = some b ↔
      q b ∧ ∃ before after, h.links[l].sentOrder = before ++ b :: after ∧ ∀ c ∈ before, ¬q c) ∧
      (matchSent h l a t = none ↔ ∀ b ∈ h.links[l].sentOrder, ¬q b) :=
  find?_inOrder fun b => by
    rw [hq]
    cases h.buffers[b] <;> simp [and_assoc]

/-- R91: the first link that asks, in cyclic order after the last-served one. -/
theorem nextAsking_first (h : Hub) :
    (∀ l : Fin 6, nextAsking h = some l ↔
      asks h l = true ∧ ∃ d, 1 ≤ d ∧ d ≤ 6 ∧ l.val = (h.lastServed.val + d) % 6 ∧
        ∀ (e : Nat) (m : Fin 6), 1 ≤ e → e < d → m.val = (h.lastServed.val + e) % 6 → asks h m = false) ∧
    (nextAsking h = none ↔ ∀ l : Fin 6, asks h l = false) := by
  have cyc : ∀ (s l : Fin 6), ∃ d, d ∈ [1, 2, 3, 4, 5, 6] ∧ l = Fin.ofNat 6 (s.val + d) := by decide
  have asc : ([1, 2, 3, 4, 5, 6] : List Nat).Pairwise (· < ·) := by decide
  have mem : ∀ d, d ∈ ([1, 2, 3, 4, 5, 6] : List Nat) ↔ 1 ≤ d ∧ d ≤ 6 := by simp; omega
  have val : ∀ (l : Fin 6) d, l.val = (h.lastServed.val + d) % 6 ↔ Fin.ofNat 6 (h.lastServed.val + d) = l := by
    intro l d
    rw [Fin.ext_iff]
    simp [eq_comm]
  have first := find?_first (p := fun d => asks h (Fin.ofNat 6 (h.lastServed.val + d)))
    (q := fun d => (1 ≤ d ∧ d ≤ 6) ∧ asks h (Fin.ofNat 6 (h.lastServed.val + d)) = true) asc fun d => by rw [mem]
  unfold nextAsking
  rw [List.find?_map]
  refine ⟨fun l => ?_, ?_⟩
  · simp only [Option.map_eq_some_iff]
    constructor
    · rintro ⟨d, hd, rfl⟩
      obtain ⟨⟨r, q⟩, f⟩ := (first.1 d).1 hd
      refine ⟨q, d, r.1, r.2, (val _ _).2 rfl, fun e m h1 h2 hm => ?_⟩
      have := f e h2
      rw [(val _ _).1 hm] at this
      simpa [h1, (h2.le.trans r.2)] using this
    · rintro ⟨hl, d, h1, h2, hv, f⟩
      refine ⟨d, (first.1 d).2 ⟨⟨⟨h1, h2⟩, ?_⟩, fun e he q => ?_⟩, (val _ _).1 hv⟩
      · rw [(val _ _).1 hv]; exact hl
      · have := f e _ q.1.1 he ((val _ _).2 rfl)
        rw [q.2] at this
        cases this
  · rw [Option.map_eq_none_iff]
    refine Iff.trans first.2 ?_
    constructor
    · intro H l
      obtain ⟨d, hd, e⟩ := cyc h.lastServed l
      have := H d
      rw [← e, ← mem] at this
      simpa [hd] using this
    · intro H d q
      rw [H] at q
      cases q.2

/-! ### Conditions -/

/-- R90: the screen at the row is eligible. -/
theorem eligibleScreen_iff (h : Hub) (l : Fin 6) (a : Fin 2) (n : Fin 8) :
    eligibleScreen h l a = some n ↔
      h.links[l].rows[a].assignment = .screen n ∧ h.screens[n].state = .joined ∧
        h.screens[n].engine.cycle = some .gathering ∧ (∃ e ∈ h.screens[n].entries, e.state = .behind) ∧
        ∃ credit, h.links[l].rows[a].credit = some credit ∧ outstandingCredit h l a < credit := by
  unfold eligibleScreen
  dsimp only
  cases ha : h.links[l].rows[a].assignment <;> cases hc : h.links[l].rows[a].credit <;> simp [hasEntry]
  constructor
  · rintro ⟨h1, rfl⟩
    exact ⟨rfl, h1⟩
  · rintro ⟨rfl, h1⟩
    exact ⟨h1, rfl⟩

theorem filter_length_add {α : Type} {p q s : α → Bool} (hs : ∀ b, (p b).toNat + (q b).toNat = (s b).toNat)
    (l : List α) : (l.filter p).length + (l.filter q).length = (l.filter s).length := by
  induction l with
  | nil => rfl
  | cons b l ih =>
    have := hs b
    simp only [List.filter_cons]
    cases hp : p b <;> cases hq : q b <;> cases hc : s b <;> simp [hp, hq, hc] at this ⊢ <;> omega

/-- R90: the buffers of a link are those of its two rows. -/
theorem linkBuffers_eq (h : Hub) (l : Fin 6) :
    linkBuffers h l = (allBuffers.filter fun b =>
      match h.buffers[b] with
      | some x => x.link == l
      | none => false).length :=
  filter_length_add (fun b => by
    cases h.buffers[b] with
    | none => rfl
    | some x =>
      have r : x.row = 0 ∨ x.row = 1 := by omega
      rcases r with r | r <;> by_cases c : x.link = l <;> simp [r, c]) _

/-- R90: a link asks for a buffer. -/
theorem asks_iff (h : Hub) (l : Fin 6) :
    asks h l = true ↔ h.links[l].state = .up ∧ linkBuffers h l < 16 ∧ ∃ a n, eligibleScreen h l a = some n := by
  unfold asks
  simp only [Bool.and_eq_true, beq_iff_eq, Config.linkBufferLimit, Bool.or_eq_true, Option.isSome_iff_exists,
    Fin.exists_fin_two, and_assoc]
  exact and_congr Iff.rfl (and_congr decide_eq_true_iff Iff.rfl)

/-- R66: the four conditions of a trigger. -/
theorem hasTrigger_iff (h : Hub) (n : Fin 8) {x : Screen} (hx : x = h.screens[n]) :
    hasTrigger h n = true ↔
      (∃ (i : Fin 2) (k : Fin 3), (∃ v ∈ x.layout, v.source = .surface i) ∧ newestSlot h i = some k ∧
        (x.lastFrames[i] = none ∨ h.slots[i][k].number ≠ x.lastFrames[i])) ∨
      (∃ p : Fin 16, (∃ v ∈ x.layout, v.source = .plate p) ∧ h.plates[p].live ≠ none ∧
        x.lastVersions[p] ≠ some h.plates[p].version) ∨
      x.pendingFlag = true ∨ ∃ e ∈ x.entries, e.state = .absent := by
  unfold hasTrigger
  simp only [← hx]
  simp only [Bool.or_eq_true, List.any_eq_true, Bool.and_eq_true, Layout.names, beq_iff_eq, bne_iff_ne, hasEntry,
    or_assoc]
  refine or_congr ⟨?_, ?_⟩ (or_congr ⟨?_, ?_⟩ Iff.rfl)
  · rintro ⟨i, _, h1, h2⟩
    cases hk : newestSlot h i with
    | none => simp [hk] at h2
    | some k =>
      simp only [hk, Bool.or_eq_true, bne_iff_ne, beq_iff_eq] at h2
      exact ⟨i, k, h1, hk, h2.symm⟩
  · rintro ⟨i, k, h1, hk, h2⟩
    refine ⟨i, mem_allInputs i, h1, ?_⟩
    simp only [hk, Bool.or_eq_true, bne_iff_ne, beq_iff_eq]
    exact h2.symm
  · rintro ⟨p, _, ⟨h1, h2⟩, h3⟩
    exact ⟨p, h1, Option.isSome_iff_ne_none.1 h2, h3⟩
  · rintro ⟨p, h1, h2, h3⟩
    exact ⟨p, mem_allPlates p, ⟨h1, Option.isSome_iff_ne_none.2 h2⟩, h3⟩

/-- R108: the first row of the screen's link that names it. -/
theorem addressOf_iff (h : Hub) (n : Fin 8) (l : Fin 6) (a : Fin 2) :
    addressOf h n = some (l, a) ↔
      h.screens[n].link = some l ∧ h.links[l].rows[a].assignment = .screen n ∧
        ∀ b < a, h.links[l].rows[b].assignment ≠ .screen n := by
  have r : a = 0 ∨ a = 1 := by omega
  unfold addressOf
  cases hl : h.screens[n].link with
  | none => simp
  | some m =>
    simp only [Option.some.injEq]
    by_cases h0 : h.links[m].rows[(0 : Fin 2)].assignment = .screen n
    · simp only [h0, if_true, Option.some.injEq, Prod.mk.injEq]
      constructor
      · rintro ⟨rfl, rfl⟩
        exact ⟨rfl, h0, fun b hb => by omega⟩
      · rintro ⟨rfl, _, f⟩
        rcases r with rfl | rfl
        · exact ⟨rfl, rfl⟩
        · exact absurd h0 (f 0 (by decide))
    · simp only [h0, if_false]
      split
      · next h1 =>
        simp only [Option.some.injEq, Prod.mk.injEq]
        constructor
        · rintro ⟨rfl, rfl⟩
          refine ⟨rfl, h1, fun b hb => ?_⟩
          have : b = 0 := by omega
          subst this
          exact h0
        · rintro ⟨rfl, e, _⟩
          rcases r with rfl | rfl
          · exact absurd e h0
          · exact ⟨rfl, rfl⟩
      · next h1 =>
        simp only [reduceCtorEq, false_iff]
        rintro ⟨rfl, e, _⟩
        rcases r with rfl | rfl
        · exact absurd e h0
        · exact absurd e h1

/-- R80: the screen is in a running set. -/
theorem inRunning_iff (h : Hub) (n : Fin 8) : inRunning h n = true ↔ ∃ g : Fin 4, h.groups[g].running[n] = true := by
  simp only [inRunning, List.any_eq_true, mem_allGroups, true_and]

/-! ### When a step of the engines is taken -/

theorem ScreenSet.isEmpty_eq_true (s : ScreenSet) : s.isEmpty = true ↔ ∀ n : Fin 8, s[n] = false := by
  unfold ScreenSet.isEmpty ScreenSet.members
  rw [List.isEmpty_iff, List.filter_eq_nil_iff]
  constructor
  · intro H n
    exact Bool.not_eq_true _ ▸ H n (mem_allScreens n)
  · intro H n _ e
    rw [H n] at e
    cases e

theorem ScreenSet.eq_empty (s : ScreenSet) : s = ScreenSet.empty ↔ ∀ n : Fin 8, s[n] = false := by
  constructor
  · rintro rfl n
    simp [ScreenSet.empty]
  · intro H
    refine Vector.ext fun i hi => ?_
    have := H ⟨i, hi⟩
    simpa [ScreenSet.empty] using this

/-- R71. -/
theorem mayEndGathering_iff (h : Hub) (n : Fin 8) :
    mayEndGathering h n = true ↔ h.screens[n].engine.cycle = some .gathering ∧
      ∀ e ∈ h.screens[n].entries, e.state ≠ .behind ∧ e.state ≠ .sending := by
  simp [mayEndGathering, hasEntry, forall_and, and_assoc]

/-- R78. -/
theorem mayEndCut_iff (h : Hub) (n : Fin 8) :
    mayEndCut h n = true ↔ h.screens[n].engine.cycle = some .cutting ∧
      ∀ e ∈ h.screens[n].entries, e.state ≠ .sending := by
  simp [mayEndCut, hasEntry]

/-- R67. -/
theorem mayStart_iff (h : Hub) (n : Fin 8) {x : Screen} (hx : x = h.screens[n]) :
    mayStart h n = true ↔ x.state = .joined ∧ x.engine.cycle = some .idle ∧ x.group = none ∧
      x.engine.paceCount = x.pace ∧ hasTrigger h n = true := by
  subst hx
  simp [mayStart, paceOpen, and_assoc]

/-- R84. -/
theorem mayRelease_iff (h : Hub) (g : Fin 4) {running : ScreenSet} (hr : running = h.groups[g].running) :
    mayRelease h g = true ↔ (∃ n : Fin 8, running[n] = true) ∧
      ∀ n : Fin 8, running[n] = true → h.screens[n].engine.cycle = some .ready := by
  subst hr
  unfold mayRelease
  simp only [Bool.and_eq_true, Bool.not_eq_true']
  rw [← Bool.not_eq_true, ScreenSet.isEmpty_eq_true]
  refine and_congr (by simp) ?_
  rw [List.all_eq_true]
  refine forall_congr' fun n => ?_
  rw [ScreenSet.members, List.mem_filter, beq_iff_eq]
  simp only [mem_allScreens, true_and]

/-- R83. -/
theorem mayJointStart_iff (h : Hub) (g : Fin 4) {active : List (Fin 8)} (ha : active = activeMembers h g) :
    mayJointStart h g = true ↔ h.groups[g].running = ScreenSet.empty ∧ active ≠ [] ∧
      (∀ n ∈ active, h.screens[n].engine.cycle = some .idle) ∧ h.groups[g].count = h.groups[g].pace ∧
      ∃ n ∈ active, hasTrigger h n = true := by
  subst ha
  have e : (!groupRunning h.groups[g]) = true ↔ h.groups[g].running = ScreenSet.empty := by
    rw [ScreenSet.eq_empty, ← ScreenSet.isEmpty_eq_true, groupRunning, Bool.not_not]
  unfold mayJointStart groupPaceOpen
  simp only [Bool.and_eq_true, e, and_assoc]
  simp

/-! ### Targets (R44, R50) -/

/-- R44: the covering view that stands latest in the layout. -/
theorem visibleView_last (l : Layout) (column row : Nat) {covers : View → Prop}
    (hc : ∀ v : View, v.covers column row = true ↔ covers v) :
    ((∀ v ∈ l, ¬covers v) → visibleView l column row = none) ∧
      ∀ (below above : Layout) (v : View), l = below ++ v :: above → covers v → (∀ w ∈ above, ¬covers w) →
        visibleView l column row = some v := by
  have first := find?_inOrder (l := l.reverse) hc
  refine ⟨fun H => first.2.2 fun v hv => H v (List.mem_reverse.1 hv), fun below above v e hv ha => ?_⟩
  refine (first.1 v).2 ⟨hv, above.reverse, below.reverse, by simp [e], fun w hw => ha w (List.mem_reverse.1 hw)⟩

/-- R50: the target of an entry, from the view that is visible there. -/
theorem targetOf_visible (h : Hub) {x : Screen} {z : Size} (hz : x.size = some z) (t : Nat) :
    targetOf h x t =
      match visibleView x.layout (t % z.columns) (t / z.columns) with
      | none => backgroundTarget x
      | some v =>
        match v.source with
        | .surface i => surfaceTarget h x i (v.originColumn + (t % z.columns - v.placeColumn))
            (v.originRow + (t / z.columns - v.placeRow))
        | .plate p => plateTarget h x p (v.originColumn + (t % z.columns - v.placeColumn))
            (v.originRow + (t / z.columns - v.placeRow)) := by
  unfold targetOf
  rw [hz]
  all_goals rfl

end Sys2Proof.Machine
end

