-- ==== Sys2Proof/Tests/Slice0.lean ====
section
/-! SUPPORT. Tests by the kernel's evaluation: the commands that are not well formed, one event of each kind on a small
part, and for every statement with hypotheses a part and operands that meet them, clause by clause. -/

open Sys2Proof Sys2Proof.Machine

namespace Sys2Proof.Tests

-- One kernel evaluation at a time: each waits on the one before, and a waiting one holds a thread.
set_option Elab.async false

/-! ### Small parts -/

/-- The part after Starting, with one change. -/
def part (f : Hub → Hub) : State := { hub := f { State.reset.hub with starting := false }, pending := [] }

def ready : State := part id

/-- The part after a command. -/
def after (c : Instr) (s : State) : Hub :=
  match exec c s with
  | .next t => t.hub
  | .fault _ => s.hub
  | .refused _ => s.hub

def tileSize : Size := { columns := 1, rows := 1 }

/-- Input 0 with a surface of one tile. -/
def inputPart (f : Capture → Capture) : State :=
  part fun h => h.modCapture 0 fun c => f { c with state := .waiting, size := some tileSize }

/-- Input 0 Filling slot 0, `n` lines in. -/
def fillingPart (n : Nat) : State :=
  part fun h =>
    (h.modCapture 0 fun c =>
      { c with state := .filling, size := some tileSize, filling := some 0, lines := n, running := [7] }).modSlot 0 0
      fun x => { x with state := .filling, size := some tileSize, signatures := [none] }

def portPart (f : PortState → PortState) : State := part fun h => h.modPort .a f

/-- Port A receives a frame. -/
def receivingPart (r : Reception) : State := portPart fun x => { x with receiver := .receiving r, gap := some 0 }

/-- A write-through PLATE-DATA of tile 0 of plate 0, `n` body bytes in. -/
def throughReception (p : FramePosition) (n : Nat) : Reception :=
  { Reception.start with
    position := p, got := n, length := 4803, kind := 0x21, crc := 0x1234, firstCheck := 0x12,
    through := some (.accepted 0 0 0) }

def throughPart (p : FramePosition) (n : Nat) : State :=
  portPart fun x =>
    { x with
      receiver := .receiving (throughReception p n), gap := some 0, handling := some (.plateData 9 0 0) }

def platePart (f : PlateCopy → PlateCopy) : State := part fun h => h.modCopy 0 0 f

/-- A bound screen of one tile on link 0, owned by port A. -/
def boundScreen (st : ScreenState) : Screen :=
  { Screen.reset with
    state := st, link := some 0, identity := some 7, size := some tileSize, fill := some default,
    fillSignature := some 5, owner := some .a, entries := [Entry.absent] }

def joinedScreen (c : CycleState) (e : Entry) : Screen :=
  { boundScreen .joined with engine := { Engine.reset with cycle := some c }, entries := [e] }

def linkIn (st : LinkState) : Link := { Link.reset false with enabled := true, state := st, rate := some .six }

/-- A link whose address 1 names screen 0. -/
def linkTo (st : LinkState) (f : AddressRow → AddressRow) : Link :=
  { linkIn st with
    rows := #v[f { AddressRow.reset with assignment := .screen 0, credit := some 2 }, AddressRow.reset] }

def screenPart (x : Screen) (k : Link) : State :=
  part fun h => { h with screens := h.screens.set 0 x, links := h.links.set 0 k }

def linkPart (k : Link) : State := part fun h => { h with links := h.links.set 0 k }

def grey : Colour := { red := 1, green := 2, blue := 3 }

def behindEntry : Entry := { state := .behind, held := none, target := some { source := .background, signature := 5 } }
def heldEntry : Entry := { state := .held, held := some 5, target := some { source := .background, signature := 5 } }

def lend (p : LendPhase) (voided : Bool) : Lend :=
  { phase := p, voided := voided, link := 0, row := 0, screen := 0, tile := 0, source := .background, signature := 5,
    inTransmission := false, replyTimer := some 0 }

/-- Screen 0 Gathering with its one tile lent to buffer 0. -/
def lentPart (p : LendPhase) (voided : Bool) : State :=
  part fun h =>
    { h with
      screens := h.screens.set 0 (joinedScreen .gathering { behindEntry with state := .sending })
      links := h.links.set 0 { linkTo .up id with sentOrder := [0] }
      buffers := h.buffers.set 0 (some (lend p voided)) }

def linePart (p : Packet) (dead : Bool) : State :=
  screenPart (joinedScreen .presenting heldEntry)
    { linkTo .rolling (fun r => { r with pollAwaited := true }) with line := some { packet := p, dead := dead } }

/-! ### Well-formed commands -/

theorem test_illFormed_refused :
    (Instr.frameArrival .a 0x20 0 (List.replicate 257 0)).wellFormed = false ∧
      (Instr.badKind .a 0x01 0).wellFormed = false ∧
      (Instr.layoutSet .a 0 0 0 0 (List.replicate 5 default)).wellFormed = false ∧
      (Instr.seize .b 0 0 (List.replicate 5 default)).wellFormed = false ∧
      (Instr.curveSet .a 0 0 (List.replicate 7 default)).wellFormed = false ∧
      (Instr.taken 0 16 0 0).wellFormed = false ∧ (Instr.refused 0 16 0 0).wellFormed = false ∧
      (Instr.shown 0 16 0).wellFormed = false ∧ (Instr.loss 0 16).wellFormed = false ∧
      (Instr.hello 0 16 0 0 0 0).wellFormed = false ∧ (Instr.state 0 16 0).wellFormed = false ∧
      (Instr.note 0 16 []).wellFormed = false ∧ (Instr.note 0 1 (List.replicate 17 0)).wellFormed = false ∧
      (Instr.packetOfNoListedKind 0 16 0x80).wellFormed = false ∧
      (Instr.packetOfNoListedKind 0 1 0x81).wellFormed = false := by decide +kernel

theorem test_wellFormed_accepted :
    (Instr.frameArrival .a 0x20 0 (List.replicate 256 0)).wellFormed = true ∧
      (Instr.badKind .a 0x37 0).wellFormed = true ∧
      (Instr.layoutSet .a 0 0 0 0 (List.replicate 4 default)).wellFormed = true ∧
      (Instr.curveSet .a 0 0 (List.replicate 8 default)).wellFormed = true ∧
      (Instr.taken 0 15 0 0).wellFormed = true ∧ (Instr.note 0 1 (List.replicate 16 0)).wellFormed = true ∧
      (Instr.packetOfNoListedKind 0 1 0x88).wellFormed = true := by decide +kernel

/-! ### One event of each kind -/

/-- Straps A 01 and B 10: 1 and 2 Mbit/s (R160). -/
theorem test_powerOn : (after (.powerOn false true true false) ready).portA.rate = .one ∧
    (after (.powerOn false true true false) ready).portB.rate = .two ∧
    (after (.powerOn false true true false) ready).starting = true := by decide +kernel

/-- READY with cause power-on and rate 0.5 Mbit/s is on the line at the end of Starting (R170, R186). -/
theorem test_startingEnd :
    (after .startingEnd (part fun h => { h with starting := true, ticks := 20 })).portA.line =
      some { kind := 0xE0, tag := 0, body := [0, 0, 0] } := by decide +kernel

theorem test_tick : (after .timeBaseTick ready).ticks = 1 := by decide +kernel

theorem test_frameStart : (after (.frameStart 0) (inputPart id)).captures[(0 : Fin 2)].state = .filling := by
  decide +kernel

theorem test_line :
    ((after (.line 0 (List.replicate 40 grey)) (fillingPart 1)).dram.readBytes 120 4 = [1, 2, 3, 1]) ∧
      (after (.line 0 (List.replicate 40 grey)) (fillingPart 1)).captures[(0 : Fin 2)].lines = 2 := by decide +kernel

theorem test_frameEnd :
    (after (.frameEnd 0) (fillingPart 40)).slots[(0 : Fin 2)][(0 : Fin 3)].state = .newest ∧
      (after (.frameEnd 0) (fillingPart 39)).captures[(0 : Fin 2)].torn = 1 := by decide +kernel

/-- An unknown kind 37h with tag 5 is answered B7h, BadKind (R173, R192). -/
theorem test_badKind : (after (.badKind .a 0x37 5) ready).portA.line = some { kind := 0xB7, tag := 5, body := [1] } := by
  decide +kernel

/-- LINE-SET of rate 3 as a frame: Done carries the rate (R176). -/
theorem test_frameArrival :
    (after (.frameArrival .a 0x03 6 [3]) ready).portA.line = some { kind := 0x83, tag := 6, body := [0, 3] } := by
  decide +kernel

theorem test_byteEvent :
    (after (.byteEvent .a 0xC3 false true) ready).portA.receiver = .receiving Reception.start := by decide +kernel

theorem test_hubReset_fromA :
    (after (.hubReset .a 1) ready).portA.line = some { kind := 0x82, tag := 1, body := [4] } := by decide +kernel

/-- A rate of 4 is out of range: BadValue, field 1, no item (R175). -/
theorem test_lineSet_range :
    (after (.lineSet .a 1 4) ready).portA.line = some { kind := 0x83, tag := 1, body := [3, 1, 255] } := by decide +kernel

theorem test_inputSet :
    (after (.inputSetEnable .a 1 0 64 36) ready).captures[(0 : Fin 2)].size = some { columns := 64, rows := 36 } ∧
      (after (.inputSetEnable .a 1 0 64 36) ready).portA.line =
        some { kind := 0x90, tag := 1, body := [0, 0, 1] } := by decide +kernel

theorem test_plateOpen :
    (after (.plateOpen .a 1 0 8 8) ready).plates[(0 : Fin 16)].copies[(0 : Fin 2)].state = .loading ∧
      (after (.plateOpen .b 1 0 8 8) ready).portB.line = some { kind := 0xA0, tag := 1, body := [4, 1] } := by
  decide +kernel

theorem test_claim :
    (after (.claim .b 1 0) (screenPart { boundScreen .missing with owner := none } (linkIn .off))).screens[(0 : Fin 8)].owner =
      some .b := by decide +kernel

theorem test_yield :
    (after (.yieldScreen .a 1 0) (screenPart (boundScreen .missing) (linkIn .off))).screens[(0 : Fin 8)].owner = none := by
  decide +kernel

theorem test_seize_return :
    (after (.seize .b 1 0 []) (screenPart (boundScreen .missing) (linkIn .off))).screens[(0 : Fin 8)].owner = some .b ∧
      (after (.returnScreen .b 1 0) (screenPart
        { boundScreen .missing with owner := some .b, seize := some { owner := none, layout := [], group := none, pace := 3 } }
        (linkIn .off))).screens[(0 : Fin 8)].owner = none := by decide +kernel

theorem test_linkSet :
    (after (.linkSetEnable .a 1 0 1 0 0 2) ready).links[(0 : Fin 6)].state = .training .hold ∧
      (after (.linkSetEnable .a 1 0 1 0 0 2) ready).links[(0 : Fin 6)].warmUp = .ms100 := by decide +kernel

theorem test_lock :
    (after (.lock 0 .three) (linkPart (linkIn (.training (.attempt .three))))).links[(0 : Fin 6)].line =
      some { packet := .roll 0, dead := false } := by decide +kernel

theorem test_hello :
    (after (.hello 0 1 7 16 1 1) (screenPart (boundScreen .missing)
      { linkIn .rolling with rollWait := some 1, offered := some 0 })).links[(0 : Fin 6)].rows[(0 : Fin 2)].credit =
      some 16 := by decide +kernel

theorem test_note :
    (after (.note 0 1 [4, 5]) (screenPart (joinedScreen .ready heldEntry) (linkTo .parked id))).portA.line =
      some { kind := 0xE9, tag := 0, body := [0, 0, 2, 4, 5] } := by decide +kernel

theorem test_wake :
    (after (.wakeLineChange 0 true) (linkPart { linkIn .parked with autoWake := true })).links[(0 : Fin 6)].state = .waking := by
  decide +kernel

theorem test_levelTick :
    (after .levelTick (part fun h =>
      { h with
        levelDue := true
        screens := upd h.screens 0 fun x => { x with level := { x.level with target := 130, step := 3 } } })).screens[(0 :
      Fin 8)].level.current = 130 := by decide +kernel

/-- 128 + (148 − 128) × (40 − 0) ÷ 146 = 133, truncated (R156). -/
theorem test_curve :
    curveLevel #v[⟨0, 128⟩, ⟨146, 148⟩, ⟨292, 128⟩, ⟨438, 128⟩, ⟨584, 128⟩, ⟨730, 128⟩, ⟨876, 128⟩, ⟨1023, 9⟩] 40 = 133 := by
  decide +kernel

/-- The bytes of a STATE of credit 3 from address 1 (R194), and the same with a wrong check (R195). -/
theorem test_packetCommand :
    upstreamBytes (.state 2 1 3) = some [0x01, 0x87, 0x00, 0x01, 0x03, 0x34, 0x1A] ∧
      packetCommand 2 [0x01, 0x87, 0x00, 0x01, 0x03, 0x34, 0x1A] = .state 2 1 3 ∧
      packetCommand 2 [0x01, 0x87, 0x00, 0x01, 0x03, 0x34, 0x1B] = .upstreamCheckFailure 2 := by decide +kernel

/-! ### The hypotheses of the statements are met -/

theorem test_meets_StepTakesTheFrontCommand :
    ({ State.reset with pending := [.startingEnd] } : State).pending = .startingEnd :: [] ∧ State.reset.pending = [] :=
  ⟨rfl, rfl⟩

theorem test_meets_PowerOnAndStarting :
    (part fun h => { h with starting := true, ticks := 20 }).hub.starting = true ∧
      20 ≤ (part fun h => { h with starting := true, ticks := 20 }).hub.ticks ∧ ready.hub.starting = false ∧
      (part fun h => { h with starting := true, ticks := 19 }).hub.ticks < 20 := by decide +kernel

/-- A part with nothing overdue and a buffer that is lent, the ticks before the 10th, 100th and 1000th, and a part with an
event overdue. -/
theorem test_meets_TickCounts :
    (nothingOverdue (lentPart .loading false).hub = true ∧
      (lentPart .loading false).hub.buffers[(0 : Fin 32)] = some (lend .loading false)) ∧
    (((countTick { ready.hub with ticks := 9 }).levelDue = true ∧ (countTick { ready.hub with ticks := 9 }).conversionDue = false) ∧
      (countTick { ready.hub with ticks := 99 }).conversionDue = true ∧
      (countTick { ready.hub with ticks := 999 }).windowDue = true ∧ (countTick { ready.hub with ticks := 998 }).windowDue = false) ∧
    nothingOverdue (linkPart { linkIn .down with retry := some 0 }).hub = false ∧
      (after .timeBaseTick (linkPart { linkIn .down with retry := some 0 })).links[(0 : Fin 6)].attempt = some 4 := by
  decide +kernel

def fullPart : State :=
  part fun h =>
    (h.modCapture 0 fun c => { c with state := .waiting, size := some tileSize }).modSlot 0 0
      (fun x => { x with state := .held }) |>.modSlot 0 1 (fun x => { x with state := .held }) |>.modSlot 0 2
      (fun x => { x with state := .newest })

theorem test_meets_FrameStart :
    ((inputPart id).hub.captures[(0 : Fin 2)].state = .waiting ∧
      (inputPart id).hub.captures[(0 : Fin 2)].size = some tileSize ∧ freeSlot (inputPart id).hub 0 = some 0) ∧
    (fullPart.hub.captures[(0 : Fin 2)].state = .waiting ∧ freeSlot fullPart.hub 0 = none) ∧
    (fillingPart 0).hub.captures[(0 : Fin 2)].state = .filling ∧
    (inputPart fun c => { c with state := .silent }).hub.captures[(0 : Fin 2)].state = .silent ∧
    ready.hub.captures[(0 : Fin 2)].state = .off := by decide +kernel

/-- With slot 0 filling and 40 lines in: a line of 39 pixels, and one of 40. -/
theorem test_meets_Tears :
    (fillingPart 40).hub.captures[(0 : Fin 2)].filling = some 0 ∧
      (fillingPart 40).hub.captures[(0 : Fin 2)].size = some tileSize ∧
      (List.replicate 39 grey).length ≠ 40 * tileSize.columns ∧ (List.replicate 40 grey).length = 40 * tileSize.columns ∧
      40 * tileSize.rows ≤ (fillingPart 40).hub.captures[(0 : Fin 2)].lines ∧
      ready.hub.captures[(0 : Fin 2)].filling = none := by decide +kernel

/-- The line that ends a tile row, and one that ends none. -/
theorem test_meets_LineAccepted :
    (fillingPart 39).hub.dram.wf = true ∧ (fillingPart 39).hub.captures[(0 : Fin 2)].filling = some 0 ∧
      (fillingPart 39).hub.captures[(0 : Fin 2)].size = some tileSize ∧
      (List.replicate 40 grey).length = 40 * tileSize.columns ∧
      (fillingPart 39).hub.captures[(0 : Fin 2)].lines < 40 * tileSize.rows ∧
      (0 : Nat) < (fillingPart 39).hub.slots[(0 : Fin 2)][(0 : Fin 3)].signatures.length ∧
      (fillingPart 39).hub.captures[(0 : Fin 2)].lines % 40 = 39 ∧
      (fillingPart 38).hub.captures[(0 : Fin 2)].lines % 40 ≠ 39 ∧
      (fillingPart 38).hub.captures[(0 : Fin 2)].filling = some 0 := by decide +kernel

theorem test_meets_FrameEnd :
    (fillingPart 40).hub.captures[(0 : Fin 2)].filling = some 0 ∧
      (fillingPart 40).hub.captures[(0 : Fin 2)].size = some tileSize ∧
      (fillingPart 40).hub.captures[(0 : Fin 2)].lines = 40 * tileSize.rows ∧
      (fillingPart 39).hub.captures[(0 : Fin 2)].lines ≠ 40 * tileSize.rows ∧
      ready.hub.captures[(0 : Fin 2)].filling = none := by decide +kernel

theorem test_meets_InputSilence :
    ((inputPart fun c => { c with silence := some 0 }).hub.captures[(0 : Fin 2)].silence = some 0 ∧
      (inputPart fun c => { c with silence := some 0 }).hub.captures[(0 : Fin 2)].state = .waiting) ∧
    (inputPart fun c => { c with state := .filling, silence := some 0 }).hub.captures[(0 : Fin 2)].silence = some 0 ∧
      (inputPart fun c => { c with state := .filling, silence := some 0 }).hub.captures[(0 : Fin 2)].state = .filling := by
  decide +kernel

def aView : RawView := ⟨0, 0, 0, 1, 1, 0, 0⟩

/-- A layout of screen 0 that names surface 0. -/
def namingPart : State := screenPart { boundScreen .missing with layout := layoutOf [aView] } (linkIn .off)

theorem test_meets_InputSet :
    (handlesAtOnce .a (inputPart fun c => { c with state := .off }).hub = true ∧ (0 : Byte).toNat ≤ 1 ∧
      (inputPart fun c => { c with state := .off }).hub.captures[inputOf 0].size = some (sizeOf 1 1) ∧
      (inputPart fun c => { c with state := .off }).hub.captures[inputOf 0].state = .off) ∧
    (handlesAtOnce .a (inputPart id).hub = true ∧ (inputPart id).hub.captures[inputOf 0].size = some (sizeOf 1 1) ∧
      (inputPart id).hub.captures[inputOf 0].state ≠ .off) ∧
    (handlesAtOnce .b ready.hub = true ∧ 1 ≤ (64 : Byte).toNat ∧ (64 : Byte).toNat ≤ 64 ∧ 1 ≤ (36 : Byte).toNat ∧
      (36 : Byte).toNat ≤ 36 ∧ ready.hub.captures[inputOf 1].size ≠ some (sizeOf 64 36) ∧
      referencing ready.hub (.surface (inputOf 1)) = []) ∧
    (handlesAtOnce .a namingPart.hub = true ∧ namingPart.hub.captures[inputOf 0].size ≠ some (sizeOf 1 1) ∧
      referencing namingPart.hub (.surface (inputOf 0)) ≠ []) ∧
    ready.hub.captures[(0 : Fin 2)].state ≠ .filling := by decide +kernel

theorem test_meets_BytesWhileHunting :
    State.reset.hub.starting = true ∧
    (ready.hub.starting = false ∧ (ready.hub.port .a).receiver = .hunting ∧ characterGood 0xC3 false true = true ∧
      characterGood 0xC3 true true = false) ∧
    ((receivingPart Reception.start).hub.starting = false ∧
      ((receivingPart Reception.start).hub.port .a).receiver = .receiving Reception.start ∧
      Reception.start.through = none ∧ characterGood 0x01 false true = false) := by decide +kernel

/-- A frame in reception at each of its fields, `n` bytes into it. -/
def receptionAt (p : FramePosition) (n length : Nat) (kind : Byte) : Reception :=
  { Reception.start with position := p, got := n, length := length, kind := kind }

/-- Each field of a frame, with the last value that is taken and the first that is an error: a length of 4803 and of 4804, a
body of 256 and of 257 bytes, and a header check that matches no header. -/
theorem test_meets_BytesInsideAFrame :
    (∀ r ∈ [receptionAt .length 0 0 0, receptionAt .length 1 0x1200 0, receptionAt .kind 0 256 0, receptionAt .kind 0 257 0,
        receptionAt .tag 0 0 3, receptionAt .tag 0 1 3, receptionAt .body 0 1 3, receptionAt .body 1 4803 0x21,
        receptionAt .body 2 4803 0x21, receptionAt .check 0 1 3],
      (receivingPart r).hub.starting = false ∧ ((receivingPart r).hub.port .a).receiver = .receiving r ∧ r.through = none) ∧
    ((receptionAt .length 1 0x1200 0).length + (0xC3 : Byte).toNat ≤ 4803 ∧
      4803 < (receptionAt .length 1 0x1200 0).length + (0xC4 : Byte).toNat ∧
      (receptionAt .kind 0 256 0).length ≤ 256 ∧ 256 < (receptionAt .kind 0 257 0).length ∧
      (receptionAt .body 1 4803 0x21).got < 2 ∧ (receptionAt .body 2 4803 0x21).headerCrc ≠ 0x21 ∧
      characterGood 0xC3 false true = true ∧ characterGood 0xC4 true true = true ∧ characterGood 0x21 false true = true ∧
      characterGood 0 false true = true) := by decide +kernel

/-- A write-through frame that was refused or dropped, with a CRC that matches and one that does not, and a header check that
matches. -/
theorem test_meets_BytesWhileHunting_ignored :
    let r := fun n => { throughReception .check n with through := some .ignored }
    let header := { receptionAt .body 2 4803 0x21 with headerCrc := 0x21, body := [0, 1] }
    (∀ n < 2, ((receivingPart (r n)).hub.port .a).receiver = .receiving (r n) ∧ (r n).position = .check ∧ (r n).got = n) ∧
      (r 1).through = some .ignored ∧ (r 1).through ≠ some (.accepted 0 0 0) ∧
      of16 (r 1).firstCheck 0x34 = (r 1).crc ∧ of16 (r 1).firstCheck 0x35 ≠ (r 1).crc ∧
      header.headerCrc = 0x21 ∧ header.body.getD 1 0 = 1 ∧ header.through = none ∧ (r 1).canFail .crc = true := by decide +kernel

/-- The header check byte by byte: the reception it leaves when the upload is accepted, refused and dropped. -/
theorem test_headerCheckByte :
    let s := fun (f : Hub → Hub) => part fun h => (f h).modPort .a fun x =>
      { x with receiver := .receiving { receptionAt .body 2 4803 0x21 with headerCrc := 0x21, body := [0, 0] } }
    let through := fun h => match (after (.byteEvent .a 0x21 false true) (s h)).portA.receiver with
      | .receiving r => some (r.through, r.got)
      | .hunting => none
    through (fun h => h.modCopy 0 0 fun x => { x with state := .loading, size := some tileSize }) =
        some (some (.accepted 0 0 0), 3) ∧
      through id = some (some .ignored, 3) ∧
      (after (.byteEvent .a 0x21 false true) (s id)).portA.line =
        some { kind := 0xA1, tag := 0, body := [Result.wrongState.code, 0, 0] } := by decide +kernel

/-- The first and the last pixel byte of a tile. -/
theorem test_meets_PixelByteStored :
    ((throughPart .body 3).hub.dram.wf = true ∧ (throughPart .body 3).hub.starting = false ∧
      ((throughPart .body 3).hub.port .a).receiver = .receiving (throughReception .body 3) ∧
      (throughReception .body 3).kind = 0x21 ∧ (throughReception .body 3).length = 4803 ∧
      3 ≤ (throughReception .body 3).got ∧ (throughReception .body 3).through = some (.accepted 0 0 0) ∧
      (throughReception .body 3).position = .body ∧ characterGood 0xFF false true = true) ∧
    ((throughPart .body 4802).hub.port .a).receiver = .receiving (throughReception .body 4802) ∧
      3 ≤ (throughReception .body 4802).got := by decide +kernel

/-- The last pixel byte of an accepted upload, and of an ignored one, moves the reception to the check bytes. -/
theorem test_lastPixelByte :
    let place := fun s => match (after (.byteEvent .a 0xFF false true) s).portA.receiver with
      | .receiving r => some (r.position, r.got, r.crc)
      | .hunting => none
    place (throughPart .body 4801) = some (.body, 4802, crc16Byte 0x1234 0xFF) ∧
      place (throughPart .body 4802) = some (.check, 0, crc16Byte 0x1234 0xFF) ∧
      place (receivingPart { throughReception .body 4802 with through := some .ignored }) =
        some (.check, 0, crc16Byte 0x1234 0xFF) := by decide +kernel

/-- The last byte of a LINE-SET, its CRC 1234h, and a port whose queues are as the clauses say. -/
def lastByte : Reception :=
  { Reception.start with position := .check, got := 1, length := 1, kind := 3, body := [1], crc := 0x1234, firstCheck := 0x12 }

def busyPort (inputs replies : Nat) : State :=
  portPart fun x =>
    { x with
      handling := some .hubReset, input := List.replicate inputs default, replies := List.replicate replies default }

theorem test_meets_FrameArrival :
    ((receivingPart lastByte).hub.starting = false ∧
      ((receivingPart lastByte).hub.port .a).receiver = .receiving lastByte ∧ lastByte.position = .check ∧
      lastByte.got = 1 ∧ lastByte.through = none ∧ characterGood 0x34 true true = true ∧
      of16 lastByte.firstCheck 0x34 = lastByte.crc ∧ characterGood 0x33 false true = true ∧
      of16 lastByte.firstCheck 0x33 ≠ lastByte.crc) ∧
    (takesFrames .a (busyPort 3 0).hub = true ∧ beginsAtOnce ((busyPort 3 0).hub.port .a) = false ∧
      ordinaryFrame { kind := 1, tag := 0, body := [] } = true ∧ ((busyPort 3 0).hub.port .a).input.length < 4) ∧
    (takesFrames .a (busyPort 4 7).hub = true ∧ beginsAtOnce ((busyPort 4 7).hub.port .a) = false ∧
      4 ≤ ((busyPort 4 7).hub.port .a).input.length ∧ 0 < ((busyPort 4 7).hub.port .a).freePlaces) ∧
    takesFrames .a (busyPort 4 8).hub = true ∧ beginsAtOnce ((busyPort 4 8).hub.port .a) = false ∧
      4 ≤ ((busyPort 4 8).hub.port .a).input.length ∧ ((busyPort 4 8).hub.port .a).freePlaces = 0 := by decide +kernel

theorem test_meets_FrameArrival_notTaken :
    takesFrames .a State.reset.hub = false ∧ takesFrames .a (throughPart .body 3).hub = false ∧
      ordinaryFrame { kind := 1, tag := 0, body := List.replicate 257 0 } = false ∧
      ordinaryFrame { kind := 1, tag := 0, body := List.replicate 256 0 } = true := by decide +kernel

theorem test_meets_FormAndRangeRefused :
    (handlesAtOnce .a ready.hub = true ∧ ordinaryFrame { kind := 0x37, tag := 0, body := [1] } = true ∧
      requestKind 0x37 = none ∧ requestKind 0x03 = some .lineSet ∧ parseBody .lineSet [] = none ∧
      ordinaryFrame { kind := 0x03, tag := 0, body := [3] } = true) ∧
    (Request.lineSet 4).badField = some (1, 255) ∧
      (Request.seize 0 [⟨0, 0, 0, 1, 1, 0, 0⟩, ⟨2, 0, 0, 1, 1, 0, 0⟩]).badField = some (1, 1) := by decide +kernel

def ascending : List RawPoint :=
  [⟨0, 1⟩, ⟨1, 2⟩, ⟨2, 3⟩, ⟨3, 4⟩, ⟨4, 5⟩, ⟨5, 6⟩, ⟨6, 7⟩, ⟨1023, 8⟩]

/-- A curve number of 4, a reading of 1023 and one of 1024. -/
theorem test_meets_CurvePointRefused :
    3 < (4 : Byte).toNat ∧ (∀ p ∈ ascending, p.reading.toNat ≤ 1023) ∧
      (ascending.set 7 ⟨1024, 0⟩)[7]? = some ⟨1024, 0⟩ ∧ 1023 < (1024 : Half).toNat ∧
      ∀ p ∈ ascending.take 7, p.reading.toNat ≤ 1023 := by decide +kernel

theorem test_meets_FrameParsed : parse 0x03 [3] = .ok (.lineSet 3) := rfl

theorem test_meets_LineErrorCounted :
    ((receivingPart lastByte).hub.port .a).receiver = .receiving lastByte ∧ lastByte.through = none ∧
      lastByte.canFail .crc = true ∧ lastByte.canFail .framing = true ∧
      ({ Reception.start with got := 1, length := 0x12FF } : Reception).canFail .length = true ∧
      ((receivingPart lastByte).hub.port .a).gap = some 0 ∧
      ((receivingPart lastByte).hub.port .a).mask.getLsbD NoticeKind.lineError.bit = true ∧
      ((receivingPart lastByte).hub.port .a).errorArmed = true ∧
      ((receivingPart lastByte).hub.port .a).notices.length < 32 := by decide +kernel

theorem test_meets_BrokenPlateData :
    ((throughPart .body 3).hub.port .a).receiver = .receiving (throughReception .body 3) ∧
      (throughReception .body 3).through = some (.accepted 0 0 0) ∧
      ((throughPart .body 3).hub.port .a).handling = some (.plateData 9 0 0) ∧
      ((throughPart .body 3).hub.port .a).gap = some 0 := by decide +kernel

theorem test_meets_BrokenPlateData_byte :
    (throughPart .body 3).hub.starting = false ∧ characterGood 0xFF false true = true ∧
      characterGood 0xFF true true = false ∧ characterGood 0xFF false false = false := by decide +kernel

/-- A fault named at a place where it cannot be met, a tick's events that are not due, and events whose condition does not
hold. -/
theorem test_meets_noEffect :
    (lastByte.canFail .length = false ∧ (throughReception .body 3).canFail .crc = false ∧
      (ready.hub.port .a).receiver = .hunting ∧ (ready.hub.port .a).line = none ∧ (ready.hub.port .a).gap ≠ some 0) ∧
    (ready.hub.conversionDue = false ∧ ready.hub.windowDue = false ∧ commitTag ready.hub 0 = none ∧
      (inputPart fun c => { c with silence := some 1 }).hub.captures[(0 : Fin 2)].silence ≠ some 0 ∧
      ready.hub.captures[(0 : Fin 2)].state = .off ∧ ready.hub.lights[(0 : Fin 2)].conversion ≠ some 0 ∧
      ready.hub.buffers[(0 : Fin 32)] = none ∧ ready.hub.screens[(0 : Fin 8)].engine.cycle = none ∧
      ready.hub.groups[(0 : Fin 4)].running.isEmpty = true) ∧
    (ready.hub.links[(0 : Fin 6)].state = .off ∧ ready.hub.links[(0 : Fin 6)].attempt ≠ some 0 ∧
      ready.hub.links[(0 : Fin 6)].rows[(1 : Fin 2)].silence ≠ some 0 ∧
      ready.hub.links[(0 : Fin 6)].rows[(1 : Fin 2)].pollWait ≠ some 0 ∧
      ready.hub.links[(0 : Fin 6)].rows[(1 : Fin 2)].lostPoll ≠ some 0) ∧
    requestKind 0x37 = none ∧ requestKind 0x01 ≠ none := by decide +kernel

/-- The end of the gathering and of the cut with an entry still Sending, and a release with a member still Gathering. -/
theorem test_meets_noEffect_cycles :
    let sending := { Entry.absent with state := .sending }
    let s := fun c => part fun h =>
      { h with
        screens := h.screens.set 0 { boundScreen .joined with entries := [sending], engine := { Engine.reset with cycle := c } }
        groups := upd h.groups 0 fun g => { g with running := g.running.set 0 true } }
    (s (some .gathering)).hub.screens[(0 : Fin 8)].engine.cycle = some .gathering ∧
      (s (some .cutting)).hub.screens[(0 : Fin 8)].engine.cycle ≠ some .gathering ∧
      (∃ e ∈ (s (some .cutting)).hub.screens[(0 : Fin 8)].entries, e.state = .sending) ∧
      (s (some .gathering)).hub.groups[(0 : Fin 4)].running[(0 : Fin 8)] = true ∧
      (s (some .gathering)).hub.screens[(0 : Fin 8)].engine.cycle ≠ some .ready := by decide +kernel

/-- A request named as a command while the port is busy joins its input queue. -/
theorem test_namedRequestQueued :
    (after (.hubAsk .a 7) (busyPort 3 0)).portA.input.length = 4 ∧
      (after (.badKind .a 0x37 7) (busyPort 3 0)).portA.input.length = 4 ∧
      (after (.badKind .a 0x01 7) (busyPort 3 0)).portA.input.length = 3 ∧
      (after (.hubAsk .a 7) State.reset).portA.replies = [] := by decide +kernel

def linedPart (f : Frame) : State := portPart fun x => { x with line := some f, handling := some .hubReset }

theorem test_meets_ControlFrameSent :
    ((linedPart { kind := 0x81, tag := 0, body := [0] }).hub.port .a).line = some { kind := 0x81, tag := 0, body := [0] } ∧
      ({ kind := 0x81, tag := 0, body := [0] } : Frame).isLineSetDone = false ∧
      ({ kind := 0x81, tag := 0, body := [0] } : Frame).isHubResetDone = false ∧
      ({ kind := 0x83, tag := 0, body := [0, 3] } : Frame).isLineSetDone = true ∧
      ({ kind := 0x82, tag := 0, body := [0] } : Frame).isLineSetDone = false ∧
      ({ kind := 0x82, tag := 0, body := [0] } : Frame).isHubResetDone = true ∧
      ((linedPart { kind := 0x82, tag := 0, body := [0] }).hub.port .a).handling = some .hubReset := by decide +kernel

/-- A notice queue of 31 and of 32 notices, and a kind that the mask shuts out. -/
theorem test_meets_NoticeOffered :
    (PortState.reset .half).mask.getLsbD NoticeKind.protocol.bit = true ∧
      ({ PortState.reset .half with mask := 0x1FFF } : PortState).mask.getLsbD NoticeKind.protocol.bit = false ∧
      ({ PortState.reset .half with notices := List.replicate 32 default } : PortState).notices.length = 32 ∧
      ({ PortState.reset .half with notices := List.replicate 31 default } : PortState).notices.length < 32 := by
  decide +kernel

/-- A bound and an unbound slot are among the operands. -/
theorem test_meets_HubRequests_AskRequests :
    (boundScreen .lost).bound = true ∧ (boundScreen .lost).link = some 0 ∧ (boundScreen .lost).identity = some 7 ∧
      (boundScreen .lost).size = some tileSize ∧ (boundScreen .lost).fill = some default ∧ Screen.reset.bound = false ∧
      handlesAtOnce .a ready.hub = true ∧ handlesAtOnce .b ready.hub = true ∧ (3 : Byte).toNat ≤ 3 ∧
      (0x3FFF : Half).toNat < 16384 ∧ (1 : Byte).toNat ≤ 1 ∧ (15 : Byte).toNat ≤ 15 ∧ (7 : Byte).toNat ≤ 7 ∧
      (5 : Byte).toNat ≤ 5 := by decide +kernel

def loadedPart (st : CopyState) : State :=
  platePart fun x => { x with state := st, size := some tileSize, written := x.written.set 0 true }

theorem test_meets_PlateRequests :
    (handlesAtOnce .a ready.hub = true ∧ workCopy ready.hub.plates[plateOf 0] = 0 ∧ writerPort (plateOf 7) = .a ∧
      writerPort (plateOf 8) = .b ∧ ready.hub.plates[plateOf 0].copies[(0 : Fin 2)].state = .empty ∧
      1 ≤ (8 : Byte).toNat ∧ (8 : Byte).toNat ≤ 8) ∧
    ((loadedPart .retired).hub.plates[plateOf 0].copies[(0 : Fin 2)].state = .retired ∧
      handlesAtOnce .a (loadedPart .retired).hub = true ∧ workCopy (loadedPart .retired).hub.plates[plateOf 0] = 0) ∧
    (handlesAtOnce .a (loadedPart .loading).hub = true ∧
      (loadedPart .loading).hub.plates[plateOf 0].copies[(0 : Fin 2)].state = .loading ∧
      (loadedPart .loading).hub.plates[plateOf 0].copies[(0 : Fin 2)].outstanding = 0) ∧
    ((platePart fun x => { x with state := .loading, size := some tileSize }).hub.plates[plateOf 0].copies[(0 :
      Fin 2)].outstanding ≠ 0) ∧
    plateInUse ready.hub (plateOf 0) = false ∧
      plateInUse (platePart fun x => { x with readers := x.readers.set 0 true }).hub (plateOf 0) = true := by
  decide +kernel

/-- PLATE-COMMIT and PLATE-DROP of plate 7 from port B: NotOwner, port A (R20). The work copy beside a live copy 1 is copy 0,
beside a live copy 0 copy 1 (R22). -/
theorem test_meets_PlateRequests_notWriter :
    handlesAtOnce .b ready.hub = true ∧ (7 : Byte).toNat ≤ 15 ∧ writerPort (plateOf 7) ≠ .b ∧
      (after (.plateCommit .b 5 7) ready).portB.line = some { kind := 0xA2, tag := 5, body := [4, 1] } ∧
      (after (.plateDrop .b 5 7) ready).portB.line = some { kind := 0xA3, tag := 5, body := [4, 1] } ∧
      workCopy { Plate.reset with live := some 1 } = 0 ∧ workCopy { Plate.reset with live := some 0 } = 1 ∧
      plateInUse (screenPart { boundScreen .missing with layout := [⟨.plate 3, 0, 0, 1, 1, 0, 0⟩] } (linkIn .off)).hub 3 =
        true := by decide +kernel

theorem test_meets_CommitDone :
    let s := part fun h =>
      (h.modCopy 0 0 fun x => { x with state := .committing, size := some tileSize }).modPort .a fun x =>
        { x with handling := some (.plateCommit 9 0) }
    commitTag s.hub 0 = some 9 ∧ workCopy s.hub.plates[(0 : Fin 16)] = 0 ∧
      s.hub.plates[(0 : Fin 16)].copies[(0 : Fin 2)].size = some tileSize := by decide +kernel

theorem test_meets_PlateDataHeader :
    (takesFrames .a ready.hub = true ∧ crc8 [0x12, 0xC3, 0x21, 9, 0, 0] ≠ 0 ∧
      judgeHeader .a 0 0 (loadedPart .loading).hub = .accepted 0 0 0 ∧ takesFrames .a (loadedPart .loading).hub = true ∧
      judgeHeader .a 0 1 (loadedPart .loading).hub = .refused .badValue ∧
      judgeHeader .a 16 0 ready.hub = .refused .badValue ∧ judgeHeader .a 15 0 ready.hub = .refused .notOwner ∧
      judgeHeader .a 0 0 ready.hub = .refused .wrongState) ∧
    judgeHeader .a 0 0 (busyPort 0 0).hub = .refused .busy ∧ judgeHeader .a 0 0 (busyPort 0 8).hub = .dropped ∧
      takesFrames .a (busyPort 0 8).hub = true := by decide +kernel

/-- PLATE_DATA leaves the reception of an accepted upload with its plate, copy and tile, of a refused one ignored. -/
theorem test_plateDataReception :
    let left := fun s => match (after (.plateData .a 9 0 0 (crc8 [0x12, 0xC3, 0x21, 9, 0, 0])) s).portA.receiver with
      | .receiving r => some (r.position, r.got, r.through)
      | .hunting => none
    left (loadedPart .loading) = some (.body, 3, some (.accepted 0 0 0)) ∧
      left ready = some (.body, 3, some .ignored) ∧ left (busyPort 0 8) = some (.body, 3, some .ignored) := by
  decide +kernel

/-- The Done reply of a LINE-SET waits, or is on the line: Busy; the reply of a refused one does not count (log 27). -/
theorem test_meets_PlateDataHeader_lineSet :
    let waits := portPart fun x => { x with replies := [{ kind := 0x83, tag := 4, body := [0, 3] }] }
    let sends := portPart fun x => { x with line := some { kind := 0x83, tag := 4, body := [0, 3] } }
    let refused := portPart fun x => { x with replies := [{ kind := 0x83, tag := 4, body := [3, 1, 255] }] }
    (waits.hub.port .a).lineSetUnsent = true ∧ 0 < (waits.hub.port .a).freePlaces ∧
      (waits.hub.port .a).input = [] ∧ (waits.hub.port .a).handling = none ∧
      judgeHeader .a 0 0 waits.hub = .refused .busy ∧ judgeHeader .a 0 0 sends.hub = .refused .busy ∧
      (refused.hub.port .a).lineSetUnsent = false ∧ judgeHeader .a 0 0 refused.hub = .refused .wrongState := by
  decide +kernel

theorem test_meets_PlateDataEnds :
    (throughPart .check 1).hub.starting = false ∧
      ((throughPart .check 1).hub.port .a).receiver = .receiving (throughReception .check 1) ∧
      (throughReception .check 1).position = .check ∧ (throughReception .check 1).got = 1 ∧
      (throughReception .check 1).through = some (.accepted 0 0 0) ∧
      ((throughPart .check 1).hub.port .a).handling = some (.plateData 9 0 0) ∧
      of16 (throughReception .check 1).firstCheck 0x34 = (throughReception .check 1).crc ∧
      of16 (throughReception .check 1).firstCheck 0x35 ≠ (throughReception .check 1).crc := by decide +kernel

/-- PLATE_DATA_END at the first check byte, in the pixels and while no frame is in reception. -/
theorem test_meets_PlateDataEnds_elsewhere :
    (throughReception .check 0).got ≠ 1 ∧ (throughReception .body 3).position ≠ .check ∧
      (ready.hub.port .a).receiver = .hunting ∧ characterGood 0x34 true true = true := by decide +kernel

/-- Screens 0 and 1 bound to link 0, and screen 0 alone. -/
def twoScreens : State :=
  part fun h =>
    { h with screens := (h.screens.set 0 (boundScreen .missing)).set 1 { boundScreen .missing with identity := some 8 } }

theorem test_meets_ScreenBind :
    (handlesAtOnce .a twoScreens.hub = true ∧ twoScreens.hub.screens[screenOf 0].state ≠ .unbound ∧
      twoScreens.hub.screens[screenOf 7].state = .unbound ∧ identityHolder twoScreens.hub (linkOf 0) 7 = some 0 ∧
      identityHolder twoScreens.hub (linkOf 0) 9 = none ∧ 2 ≤ (boundTo twoScreens.hub (linkOf 0)).length) ∧
    ready.hub.screens[screenOf 0].state = .unbound ∧ identityHolder ready.hub (linkOf 5) 7 = none ∧
      (boundTo ready.hub (linkOf 5)).length < 2 ∧ (64 : Byte).toNat * (36 : Byte).toNat ≤ freeEntries ready.hub := by
  decide +kernel

theorem test_meets_ScreenUnbind_ScreenRefusals :
    let s := screenPart (boundScreen .missing) (linkIn .off)
    handlesAtOnce .a s.hub = true ∧ screenOf 0 = 0 ∧ s.hub.screens[(0 : Fin 8)].bound = true ∧
      s.hub.screens[(0 : Fin 8)].owner = some .a ∧ s.hub.screens[(0 : Fin 8)].seize = none ∧
      s.hub.screens[(0 : Fin 8)].owner ≠ none ∧ s.hub.screens[(0 : Fin 8)].owner ≠ some .b ∧
      ready.hub.screens[(0 : Fin 8)].bound = false := by decide +kernel

/-- A Joined screen that may be unbound, with its address and a buffer, which stays voided. -/
theorem test_meets_ScreenUnbind_joined :
    let s := lentPart .loading false
    handlesAtOnce .a s.hub = true ∧ s.hub.screens[(0 : Fin 8)].bound = true ∧
      s.hub.screens[(0 : Fin 8)].owner = some .a ∧ s.hub.screens[(0 : Fin 8)].state = .joined ∧
      addressOf s.hub 0 = some (0, 0) ∧ s.hub.links[(0 : Fin 6)].rows[(0 : Fin 2)].assignment = .screen 0 ∧
      (after (.screenUnbind .a 1 0) s).buffers[(0 : Fin 32)] = some (lend .loading true) := by decide +kernel

/-- Screen 0 and surface 0 of one tile each: the view fits; without a surface it does not. -/
def viewPart : State :=
  part fun h =>
    ({ h with screens := h.screens.set 0 (boundScreen .missing) } : Hub).modCapture 0 fun c => { c with size := some tileSize }

theorem test_meets_LayoutAndFill :
    handlesAtOnce .a viewPart.hub = true ∧ badViews 0 [aView] = none ∧ [aView].length ≤ 4 ∧
      badView viewPart.hub 0 (layoutOf [aView]) = none ∧ badView twoScreens.hub 0 (layoutOf [aView]) = some 0 ∧
      viewPart.hub.screens[(0 : Fin 8)].stamp = 0 ∧ (1 : Half) ≠ viewPart.hub.screens[(0 : Fin 8)].stamp ∧
      viewPart.hub.screens[(0 : Fin 8)].bound = true ∧ viewPart.hub.screens[(0 : Fin 8)].owner = some .a := by
  decide +kernel

/-- A view of a plate without a size, taken as 8 × 8, with its block at the corner and one tile beyond it; the same of a
plate of one tile. -/
theorem test_meets_viewFits :
    viewPart.hub.screens[(0 : Fin 8)].size = some tileSize ∧ viewPart.hub.captures[(0 : Fin 2)].size = some tileSize ∧
      viewPart.hub.plates[(15 : Fin 16)].size = none ∧
      viewFits viewPart.hub 0 ⟨.plate 15, 7, 7, 1, 1, 0, 0⟩ = true ∧
      viewFits viewPart.hub 0 ⟨.plate 15, 8, 7, 1, 1, 0, 0⟩ = false ∧
      viewFits viewPart.hub 0 ⟨.surface 0, 0, 0, 1, 1, 0, 0⟩ = true ∧
      viewFits viewPart.hub 0 ⟨.surface 0, 0, 0, 1, 1, 1, 0⟩ = false ∧
      viewFits (viewPart.hub.modPlate 15 fun x => { x with size := some tileSize }) 0 ⟨.plate 15, 7, 7, 1, 1, 0, 0⟩ = false ∧
      badView viewPart.hub 0 [⟨.surface 0, 0, 0, 1, 1, 0, 0⟩, ⟨.surface 1, 0, 0, 1, 1, 0, 0⟩] = some 1 := by decide +kernel

theorem test_meets_PaceAndGroup :
    handlesAtOnce .a twoScreens.hub = true ∧ (1000 : Half).toNat ≤ 1000 ∧
      presentOf 1 (groupOf 3) ≠ twoScreens.hub.screens[(0 : Fin 8)].group ∧
      presentOf 0 (groupOf 3) = twoScreens.hub.screens[(0 : Fin 8)].group := by decide +kernel

/-- An owner, none, and a seize record. -/
def seizedScreen : Screen :=
  { boundScreen .missing with owner := some .b, seize := some { owner := some .a, layout := [], group := none, pace := 16 } }

theorem test_meets_ClaimRequest_Yield_Seize_Return :
    (handlesAtOnce .a (screenPart { boundScreen .missing with owner := none } (linkIn .off)).hub = true ∧
      (screenPart { boundScreen .missing with owner := none } (linkIn .off)).hub.screens[(0 : Fin 8)].owner = none) ∧
    (handlesAtOnce .b (screenPart seizedScreen (linkIn .off)).hub = true ∧ seizedScreen.seize ≠ none ∧
      seizedScreen.bound = true ∧ seizedScreen.owner = some .b ∧
      badView (screenPart seizedScreen (linkIn .off)).hub 0 (layoutOf []) = none) ∧
    (joinedScreen .idle heldEntry).engine.cycle = some .idle ∧ (joinedScreen .gathering heldEntry).bound = true ∧
      (joinedScreen .presenting heldEntry).engine.cycle = some .presenting ∧ (boundScreen .lost).engine.cycle = none := by
  decide +kernel

/-- A Joined screen that may start, ungrouped, and the same in group 3. -/
def startPart (g : Option (Fin 4)) : State := screenPart { joinedScreen .idle Entry.absent with group := g } (linkTo .rolling id)

theorem test_meets_CyclesStart :
    ((startPart none).hub.screens[(0 : Fin 8)].state = .joined ∧
      (startPart none).hub.screens[(0 : Fin 8)].engine.cycle = some .idle ∧
      (startPart none).hub.screens[(0 : Fin 8)].group = none ∧
      (startPart none).hub.screens[(0 : Fin 8)].engine.paceCount = (startPart none).hub.screens[(0 : Fin 8)].pace ∧
      hasTrigger (startPart none).hub 0 = true) ∧
    ((startPart (some 3)).hub.groups[(3 : Fin 4)].running = ScreenSet.empty ∧
      activeMembers (startPart (some 3)).hub 3 = [0] ∧
      (startPart (some 3)).hub.screens[(0 : Fin 8)].engine.cycle = some .idle ∧
      (startPart (some 3)).hub.groups[(3 : Fin 4)].count = (startPart (some 3)).hub.groups[(3 : Fin 4)].pace ∧
      hasTrigger (startPart (some 3)).hub 0 = true) ∧ mayStart ready.hub 0 = false := by decide +kernel

/-- A start that leaves the screen Gathering and one that leaves it Idle, the entry holding what its target shows. -/
theorem test_meets_CycleStartEffect :
    (startCycle 0 (startPart none).hub).screens[(0 : Fin 8)].engine.cycle = some .gathering ∧
      (startCycle 0 (screenPart (joinedScreen .idle heldEntry) (linkTo .rolling id)).hub).screens[(0 : Fin
        8)].engine.cycle = some .idle := by decide +kernel

/-- Surface 0 of one tile with a Newest slot of frame 9, plate 0 of one tile live with version 4; screen 0 shows both. -/
def shownPart (f : Screen → Screen) : State :=
  part fun h =>
    { h with
      captures := upd h.captures 0 fun c => { c with size := some tileSize }
      slots := upd h.slots 0 fun v =>
        v.set 2 { Slot.free with state := .newest, number := some 9, size := some tileSize, signatures := [some 6] }
      plates := upd h.plates 0 fun x =>
        { x with
          size := some tileSize, live := some 1, version := 4
          copies := x.copies.set 1
            { PlateCopy.empty with state := .live, size := some tileSize, signatures := [some 8] } }
      links := h.links.set 0 (linkTo .up id)
      screens := h.screens.set 0 (f { joinedScreen .idle heldEntry with
        lastFrames := #v[some 9, none], lastVersions := (Vector.replicate 16 none).set 0 (some 4) }) }

def onSurface : View := ⟨.surface 0, 0, 0, 1, 1, 0, 0⟩
def onPlate : View := ⟨.plate 0, 0, 0, 1, 1, 0, 0⟩

/-- R66: none of the four conditions, and each of them alone. -/
theorem test_meets_hasTrigger :
    newestSlot (shownPart id).hub 0 = some 2 ∧
      hasTrigger (shownPart fun x => { x with layout := [onSurface, onPlate] }).hub 0 = false ∧
      hasTrigger (shownPart fun x => { x with layout := [onSurface], lastFrames := #v[some 8, none] }).hub 0 = true ∧
      hasTrigger (shownPart fun x => { x with layout := [onSurface], lastFrames := #v[none, none] }).hub 0 = true ∧
      hasTrigger (shownPart fun x => { x with lastFrames := #v[none, none] }).hub 0 = false ∧
      hasTrigger (shownPart fun x => { x with layout := [onPlate], lastVersions := Vector.replicate 16 (some 3) }).hub 0 =
        true ∧
      hasTrigger (shownPart fun x => { x with pendingFlag := true }).hub 0 = true ∧
      hasTrigger (shownPart fun x => { x with entries := [Entry.absent] }).hub 0 = true := by decide +kernel

/-- R44, R50, R34: the view that stands latest decides; a tile beyond the plate, a surface without a Newest slot and no view
at all give background. -/
theorem test_meets_targetOf :
    let target := fun l => targetOf (shownPart id).hub { boundScreen .joined with layout := l } 0
    target [onPlate, onSurface] = { source := .surface 0 2 0, signature := 6 } ∧
      target [onSurface, onPlate] = { source := .plate 0 1 0, signature := 8 } ∧
      target [onSurface, ⟨.plate 0, 1, 0, 1, 1, 0, 0⟩] = { source := .background, signature := 5 } ∧
      target [⟨.surface 1, 0, 0, 1, 1, 0, 0⟩] = { source := .background, signature := 5 } ∧
      target [⟨.surface 0, 0, 0, 1, 1, 1, 0⟩] = { source := .background, signature := 5 } ∧
      target [] = { source := .background, signature := 5 } := by decide +kernel

/-- Two Gathering screens: screen 0 reads a Newest slot and a Live copy, screen 1 a Held slot and a Retired copy. -/
def readingPart : State :=
  part fun h =>
    { h with
      screens := (h.screens.set 0 (joinedScreen .gathering behindEntry)).set 1 (joinedScreen .gathering behindEntry)
      slots := upd h.slots 0 fun v =>
        (v.set 0 { Slot.free with state := .newest, readers := ScreenSet.empty.set 0 true }).set 1
          { Slot.free with state := .held, readers := ScreenSet.empty.set 1 true }
      plates := upd h.plates 0 fun x =>
        { x with
          live := some 0
          copies := #v[{ PlateCopy.empty with state := .live, readers := ScreenSet.empty.set 0 true },
            { PlateCopy.empty with state := .retired, readers := ScreenSet.empty.set 1 true }] } }

theorem test_meets_leaveSources :
    readingPart.hub.slots[(0 : Fin 2)][(0 : Fin 3)].readers[(0 : Fin 8)] = true ∧
      readingPart.hub.slots[(0 : Fin 2)][(1 : Fin 3)].state = .held ∧
      (leaveSources 1 readingPart.hub).slots[(0 : Fin 2)][(1 : Fin 3)] = Slot.free ∧
      (leaveSources 1 readingPart.hub).plates[(0 : Fin 16)].copies[(1 : Fin 2)] = PlateCopy.empty ∧
      (leaveSources 0 readingPart.hub).slots[(0 : Fin 2)][(0 : Fin 3)].state = .newest := by decide +kernel

def runningPart (x : Screen) : State :=
  part fun h =>
    { h with
      screens := h.screens.set 0 x, links := h.links.set 0 (linkTo .up id)
      groups := upd h.groups 1 fun g => { g with running := g.running.set 0 true } }

theorem test_meets_GatheringCutAndRelease :
    ((screenPart (joinedScreen .gathering heldEntry) (linkTo .up id)).hub.screens[(0 : Fin 8)].engine.cycle = some .gathering ∧
      (∀ e ∈ (joinedScreen .gathering heldEntry).entries, e.state ≠ .behind ∧ e.state ≠ .sending) ∧
      inRunning (screenPart (joinedScreen .gathering heldEntry) (linkTo .up id)).hub 0 = false ∧
      addressOf (screenPart (joinedScreen .gathering heldEntry) (linkTo .up id)).hub 0 = some (0, 0)) ∧
    inRunning (runningPart (joinedScreen .gathering heldEntry)).hub 0 = true ∧
    ((joinedScreen .cutting behindEntry).engine.cycle = some .cutting ∧
      ∀ e ∈ (joinedScreen .cutting behindEntry).entries, e.state ≠ .sending) ∧
    ((runningPart (joinedScreen .ready heldEntry)).hub.groups[(1 : Fin 4)].running.isEmpty = false ∧
      ∀ n : Fin 8, (runningPart (joinedScreen .ready heldEntry)).hub.groups[(1 : Fin 4)].running[n] = true →
        (runningPart (joinedScreen .ready heldEntry)).hub.screens[n].engine.cycle = some .ready) := by decide +kernel

def showingScreen (failures shows : Nat) (loss : Bool) : Screen :=
  { boundScreen .joined with
    failures := failures
    engine := { Engine.reset with cycle := some .presenting, showTimer := some 0, showCount := shows, lossWait := loss } }

theorem test_meets_ShownAndShowTimer :
    (receiverOpen (screenPart (showingScreen 6 2 false) (linkTo .up id)).hub.links[(0 : Fin 6)] = true ∧
      (screenPart (showingScreen 6 2 false) (linkTo .up id)).hub.links[(0 : Fin 6)].rows[(0 : Fin 2)].assignment =
        .screen 0 ∧ (1 : Half) = (showingScreen 6 2 false).present + 1 ∧
      (joinedScreen .ready heldEntry).engine.cycle ≠ some .presenting) ∧
    ((showingScreen 6 2 false).state = .joined ∧ (showingScreen 6 2 false).engine.cycle = some .presenting ∧
      (showingScreen 6 2 false).engine.showTimer = some 0 ∧ (showingScreen 6 2 false).failures < 7 ∧
      (showingScreen 6 2 false).engine.showCount < 3 ∧
      addressOf (screenPart (showingScreen 6 2 false) (linkTo .up id)).hub 0 = some (0, 0)) ∧
    7 ≤ (showingScreen 7 1 false).failures ∧ 3 ≤ (showingScreen 0 3 false).engine.showCount ∧
      (showingScreen 0 1 true).engine.lossWait = true := by decide +kernel

/-- A screen with buffers that are Queued, on the line and Loading becomes Lost. -/
theorem test_meets_becomeLost :
    addressOf (lentPart .queued false).hub 0 = some (0, 0) ∧
      (lentPart .queued false).hub.screens[(0 : Fin 8)].link = some 0 ∧
      (lentPart .queued false).hub.screens[(0 : Fin 8)].owner = some .a ∧
      (lentPart .queued false).hub.buffers[(0 : Fin 32)] = some (lend .queued false) ∧ (lend .queued false).screen = 0 ∧
      (lend .queued false).inTransmission = false ∧ (lend .loading false).phase ≠ .queued ∧
      (becomeLost 0 .showUnanswered (lentPart .queued false).hub).portA.notices =
        [{ kind := NoticeKind.lost.code, tag := 0, body := [0, 0, 2, 0, 1, 0, 1] }] := by decide +kernel

/-- R79, R101: what becoming Lost takes from the queues of the screen's link: its own SHOW, LEVEL and POLL and its Queued
buffer; a SHOW to both screens and a packet on the line start no timer of it. -/
theorem test_meets_becomeLost_queues :
    let s := part fun h =>
      { h with
        screens := h.screens.set 0 (joinedScreen .gathering behindEntry)
        links := h.links.set 0
          { linkTo .up id with
            control := [.showFrame 1 1 (setScreens [0]), .level 0 9, .poll 0 true, .showFrame 15 1 (setScreens [0, 1]),
              .level 1 9]
            line := some { packet := .poll 0 true, dead := false }, tiles := [0, 3] }
        buffers := (h.buffers.set 0 (some (lend .queued false))).set 3 (some { lend .queued false with screen := 1 }) }
    let h := becomeLost 0 .failures s.hub
    addressOf s.hub 0 = some (0, 0) ∧ addressOf s.hub 1 = none ∧
      h.links[(0 : Fin 6)].control = [.showFrame 15 1 (setScreens [1]), .level 1 9] ∧
      h.links[(0 : Fin 6)].line = some { packet := .poll 0 false, dead := false } ∧ h.links[(0 : Fin 6)].tiles = [3] ∧
      h.links[(0 : Fin 6)].rows[(0 : Fin 2)].lostPoll = some 100 := by decide +kernel

theorem test_meets_LossByCycleState :
    receiverOpen (screenPart (joinedScreen .idle heldEntry) (linkTo .parked id)).hub.links[(0 : Fin 6)] = true ∧
      (screenPart (joinedScreen .idle heldEntry) (linkTo .parked id)).hub.links[(0 : Fin 6)].rows[(0 : Fin
        2)].assignment = .screen 0 ∧ (joinedScreen .idle heldEntry).state = .joined ∧ (boundScreen .lost).state ≠ .joined := by
  decide +kernel

/-- R72: a Ready screen returns to Gathering, joins the Newest slot of this event and records its number. -/
theorem test_meets_LossByCycleState_ready :
    let s := shownPart fun x =>
      { x with
        layout := [onSurface], lastFrames := #v[some 8, none]
        engine := { x.engine with cycle := some .ready } }
    receiverOpen s.hub.links[(0 : Fin 6)] = true ∧
      (after (.loss 0 1) s).screens[(0 : Fin 8)].engine.cycle = some .gathering ∧
      (after (.loss 0 1) s).screens[(0 : Fin 8)].lastFrames[(0 : Fin 2)] = some 9 ∧
      (after (.loss 0 1) s).slots[(0 : Fin 2)][(2 : Fin 3)].readers[(0 : Fin 8)] = true := by decide +kernel

def grantPart : State :=
  part fun h =>
    { h with screens := h.screens.set 0 (joinedScreen .gathering behindEntry), links := h.links.set 0 (linkTo .up id) }

theorem test_meets_BufferGrant :
    (grantPart.hub.dram.wf = true ∧ lowestFreeBuffer grantPart.hub = some 0 ∧ nextAsking grantPart.hub = some 0 ∧
      (eligibleScreen grantPart.hub 0 grantPart.hub.links[(0 : Fin 6)].nextRow).isSome = true ∧
      eligibleScreen grantPart.hub 0 0 = some 0 ∧ grantPart.hub.links[(0 : Fin 6)].nextRow = 0 ∧
      grantPart.hub.screens[(0 : Fin 8)].entries[0]? = some behindEntry ∧ behindEntry.state = .behind ∧
      behindEntry.target = some { source := .background, signature := 5 }) ∧ nextAsking ready.hub = none := by
  decide +kernel

/-- Links 2 and 4 ask: after link 2 comes link 4, after link 4 link 2. Without credit left a screen is not eligible, and a
link that is not Up does not ask. -/
theorem test_meets_BufferGrant_order :
    let row := fun (n : Fin 8) => { AddressRow.reset with assignment := .screen n, credit := some 1 }
    let asking := fun (last : Fin 6) => part fun h =>
      { h with
        screens := (h.screens.set 2 { joinedScreen .gathering behindEntry with link := some 2 }).set 4
          { joinedScreen .gathering behindEntry with link := some 4 }
        links := (h.links.set 2 { linkIn .up with rows := #v[AddressRow.reset, row 2] }).set 4
          { linkIn .up with rows := #v[row 4, AddressRow.reset] }
        lastServed := last }
    nextAsking (asking 2).hub = some 4 ∧ nextAsking (asking 4).hub = some 2 ∧ nextAsking (asking 5).hub = some 2 ∧
      eligibleScreen (asking 2).hub 2 1 = some 2 ∧ eligibleScreen (asking 2).hub 2 0 = none ∧
      eligibleScreen ((asking 2).hub.modRow 2 1 fun r => { r with credit := some 0 }) 2 1 = none ∧
      asks ((asking 2).hub.modLink 4 fun k => { k with state := .rolling }) 4 = false := by decide +kernel

theorem test_meets_Transmissions :
    ((lentPart .loading false).hub.buffers[(0 : Fin 32)] = some (lend .loading false) ∧
      (lend .loading false).phase = .loading ∧ (lend .loading true).voided = true) ∧
    ((linePart (.roll 1) false).hub.links[(0 : Fin 6)].line = some { packet := .roll 1, dead := false } ∧
      (linePart (.tile 0 0 0 0 []) true).hub.links[(0 : Fin 6)].line =
        some { packet := .tile 0 0 0 0 [], dead := true } ∧
      (linePart (.poll 0 true) false).hub.links[(0 : Fin 6)].rows[(0 : Fin 2)].pollAwaited = true ∧
      (linePart (.showFrame 1 1 (setScreens [0])) false).hub.screens[(0 : Fin 8)].engine.cycle = some .presenting) := by
  decide +kernel

/-- No packet on the line, a packet of another kind, and a PARK that a disable has made dead. -/
theorem test_meets_Transmissions_noEffect :
    (linkPart (linkIn .up)).hub.links[(0 : Fin 6)].line = none ∧
      ((linePart (.roll 1) false).hub.links[(0 : Fin 6)].line.map (·.packet)) = some (.roll 1) ∧
      (linePart .park true).hub.links[(0 : Fin 6)].line = some { packet := .park, dead := true } ∧
      (after (.parkTransmitted 0) (linePart .park true)).links[(0 : Fin 6)].state ≠ .parked ∧
      (after (.tileTransmitted 0) (linePart (.roll 1) false)).links[(0 : Fin 6)].line =
        some { packet := .roll 1, dead := false } := by decide +kernel

theorem test_meets_RepliesAndReplyTimer :
    (receiverOpen (lentPart .sent false).hub.links[(0 : Fin 6)] = true ∧
      (lentPart .sent false).hub.links[(0 : Fin 6)].rows[(0 : Fin 2)].assignment = .screen 0 ∧
      matchSent (lentPart .sent false).hub 0 0 0 = some 0 ∧ matchSent (lentPart .sent false).hub 0 0 1 = none ∧
      (lentPart .sent false).hub.buffers[(0 : Fin 32)] = some (lend .sent false) ∧ (lend .sent false).voided = false ∧
      (lend .sent true).voided = true ∧ 3 ≤ (3 : Byte).toNat) ∧
    ((lend .sent false).phase = .sent ∧ (lend .sent false).replyTimer = some 0) ∧
    (showingScreen 6 1 false).failures < 7 ∧ 7 ≤ (showingScreen 7 1 false).failures ∧ (boundScreen .lost).state ≠ .joined := by
  decide +kernel

/-- R96: of two Sent buffers of one tile the one transmitted first is matched. -/
theorem test_meets_matchSent :
    let s := part fun h =>
      { h with
        links := h.links.set 0 { linkTo .up id with sentOrder := [7, 5, 1] }
        buffers := ((h.buffers.set 1 (some (lend .sent false))).set 5 (some (lend .sent true))).set 7
          (some { lend .sent false with tile := 1 }) }
    matchSent s.hub 0 0 0 = some 5 ∧ matchSent s.hub 0 0 1 = some 7 ∧ matchSent s.hub 0 1 0 = none := by decide +kernel

/-- Address 1 names a stranger, whose buffer from before is voided. -/
def strangerPart : State :=
  part fun h =>
    { h with
      links := h.links.set 0 { linkTo .up (fun r => { r with assignment := .stranger 9 }) with sentOrder := [0] }
      buffers := h.buffers.set 0 (some (lend .sent true)) }

theorem test_meets_StrangerReply :
    receiverOpen strangerPart.hub.links[(0 : Fin 6)] = true ∧
      strangerPart.hub.links[(0 : Fin 6)].rows[(0 : Fin 2)].assignment = .stranger 9 ∧
      matchSent strangerPart.hub 0 0 0 = some 0 ∧ matchSent strangerPart.hub 0 0 1 = none ∧
      strangerPart.hub.buffers[(0 : Fin 32)] = some (lend .sent true) ∧ (lend .sent true).voided = true := by decide +kernel

/-- A REFUSED with reason 3 from the stranger is dropped and counted, and its buffer stays Sent (log 30). -/
theorem test_strangerRefused :
    (after (.refused 0 1 0 3) strangerPart).links[(0 : Fin 6)].strangerPackets = 1 ∧
      (after (.refused 0 1 0 3) strangerPart).links[(0 : Fin 6)].protocolFaults = 0 ∧
      (after (.refused 0 1 0 3) strangerPart).buffers[(0 : Fin 32)] = some (lend .sent true) ∧
      (after (.refused 0 1 0 2) strangerPart).buffers[(0 : Fin 32)] = none := by decide +kernel

theorem test_meets_LinkSet_LinkRequests :
    (handlesAtOnce .a ready.hub = true ∧ linkOf 5 = 5 ∧ ready.hub.links[(5 : Fin 6)].state = .off ∧ (2 : Byte).toNat ≤ 2) ∧
    (handlesAtOnce .a (linkPart { linkIn .parked with wakeLine := true }).hub = true ∧
      (linkPart { linkIn .parked with wakeLine := true }).hub.links[(0 : Fin 6)].state = .parked ∧
      (linkPart { linkIn .parked with wakeLine := true }).hub.links[(0 : Fin 6)].wakeMode = .edge ∧
      (linkPart { linkIn .parked with wakeLine := true }).hub.links[(0 : Fin 6)].wakeLine = true) ∧
    ((linkPart (linkIn .waking)).hub.links[(0 : Fin 6)].state = .waking ∧
      (linkPart (linkIn .down)).hub.links[(0 : Fin 6)].state = .down) ∧
    ((linkPart (linkIn .up)).hub.links[(0 : Fin 6)].parkPending = false ∧
      foreignJoined .b (screenPart (joinedScreen .idle heldEntry) (linkTo .up id)).hub 0 = some 0 ∧
      foreignJoined .a (screenPart (joinedScreen .idle heldEntry) (linkTo .up id)).hub 0 = none) := by decide +kernel

theorem test_meets_LevelsAndCurves :
    (handlesAtOnce .a (screenPart (boundScreen .missing) (linkIn .off)).hub = true ∧
      ready.hub.lights[inputOf 1].reading = none ∧
      (part fun h => h.modLight 1 fun x => { x with reading := some 1023 }).hub.lights[inputOf 1].reading = some 1023) ∧
    (ascending.length = 8 ∧ badPoint ascending = none ∧ firstNotAscending (ascending.map RawPoint.point) = none ∧
      firstNotAscending ((⟨0, 0⟩ :: ascending).map RawPoint.point) = some 1) ∧
    ((∀ i j : Fin 8, i < j → Curve.reset[i].reading.toNat < Curve.reset[j].reading.toNat) ∧
      (0 : Reading).toNat ≤ Curve.reset[(0 : Fin 8)].reading.toNat ∧
      Curve.reset[(7 : Fin 8)].reading.toNat ≤ (1023 : Reading).toNat ∧
      Curve.reset[(6 : Fin 8)].reading.toNat ≤ (1022 : Reading).toNat ∧
      (1022 : Reading).toNat < Curve.reset[(7 : Fin 8)].reading.toNat) := by decide +kernel

theorem test_meets_LevelAndLight :
    (part fun h => { h with levelDue := true }).hub.levelDue = true ∧
      (part fun h => { h with conversionDue := true }).hub.conversionDue = true ∧
      (part fun h => h.modLight 1 fun x => { x with conversion := some 0 }).hub.lights[(1 : Fin 2)].conversion = some 0 := by
  decide +kernel

/-- A level tick not due, a step of 0, and a target above and one below the current level. -/
theorem test_meets_LevelAndLight_ramp :
    ready.hub.levelDue = false ∧ Level.reset.step = 0 ∧
      ({ Level.reset with step := 1, target := 255 } : Level).current.toNat < (255 : Byte).toNat ∧
      (0 : Byte).toNat < ({ Level.reset with step := 1, target := 0 } : Level).current.toNat := by decide +kernel

/-- A part with screen 0 in a state, bound to link 0, whose buffer 0 is lent to link 1. -/
def clearedPart (st : ScreenState) (k : Link) : State :=
  part fun h =>
    { h with
      screens := h.screens.set 0 (boundScreen st), links := h.links.set 0 k
      buffers := h.buffers.set 0 (some { lend .sent true with link := 1 }) }

theorem test_meets_TrainingAndReset :
    (({ linkIn (.training .hold) with hold := some 0 } : Link).state = .training .hold ∧
      (linkPart { linkIn (.training .hold) with hold := some 0 }).hub.links[(0 : Fin 6)].hold = some 0 ∧
      (linkPart { linkIn .down with retry := some 0 }).hub.links[(0 : Fin 6)].retry = some 0 ∧
      (linkPart { linkIn .waking with warm := some 0 }).hub.links[(0 : Fin 6)].warm = some 0 ∧
      (linkPart { linkIn (.training (.attempt .oneHalf)) with attempt := some 0 }).hub.links[(0 : Fin 6)].attempt = some 0 ∧
      (linkPart (linkIn .rolling)).hub.links[(0 : Fin 6)].rate = some .six) ∧
    (({ linkIn (.training .hold) with cutRate := some .six } : Link).cutRate = some .six ∧
      (linkIn (.training .hold)).cutRate = none ∧ (linkIn .parked).state ≠ .rolling ∧ (linkIn .parked).state ≠ .up ∧
      (linkIn .parked).state ≠ .training .hold) ∧
    ((disableLink 0 (clearedPart .lost (linkTo .up id)).hub).buffers[(0 : Fin 32)] =
        some { lend .sent true with link := 1 } ∧
      (disableLink 0 (clearedPart .lost (linkTo .up id)).hub).screens[(0 : Fin 8)].link = some 0 ∧
      (disableLink 0 (clearedPart .lost (linkTo .up id)).hub).screens[(0 : Fin 8)].bound = true ∧
      (resetLink 0 .three (clearedPart .parked (linkIn .down)).hub).screens[(0 : Fin 8)].link = some 0 ∧
      (resetLink 0 .three (clearedPart .parked (linkIn .down)).hub).screens[(0 : Fin 8)].bound = true) ∧
    ((clearedPart .lost (linkTo .up id)).hub.links[(0 : Fin 6)].state = .up ∧
      (clearedPart .lost (linkTo .up id)).hub.screens[(0 : Fin 8)].state = .lost ∧
      boundTo (clearedPart .lost (linkTo .up id)).hub 0 = [0] ∧ boundTo (clearedPart .joined (linkTo .up id)).hub 0 = [0] ∧
      (clearedPart .joined (linkTo .up id)).hub.screens[(0 : Fin 8)].state = .joined) := by decide +kernel

/-- R62, R107: a reset of an Up link with a Lost screen keeps the screen's binding and the link's counters. -/
theorem test_resetLink_kept :
    let x := { boundScreen .lost with stamp := 5, present := 4, pace := 3 }
    let h := resetLink 0 .three (screenPart x { linkTo .up id with strays := 2, protocolFaults := 1 }).hub
    h.screens[(0 : Fin 8)].state = .missing ∧ h.screens[(0 : Fin 8)].owner = x.owner ∧
      h.screens[(0 : Fin 8)].stamp = 5 ∧ h.screens[(0 : Fin 8)].present = 4 ∧ h.links[(0 : Fin 6)].strays = 2 ∧
      h.links[(0 : Fin 6)].protocolFaults = 1 ∧ h.links[(0 : Fin 6)].currentCap = .three := by decide +kernel

/-- R122: a loss of lock and a LINK-RESET at one moment. Taken first, the loss of lock resets the link; taken second, it finds the
link in the hold, starts the hold again, and is reported with the rate at which the line was locked. -/
theorem test_lossOfLock_takenSecond :
    let first := after (.linkReset .a 1 0) (linkPart { linkIn .up with rate := some .three })
    let h := { first with links := upd first.links 0 fun k => { k with hold := some 0 } }
    h.links[(0 : Fin 6)].state = .training .hold ∧ h.links[(0 : Fin 6)].cutRate = some .three ∧
      (after (.lossOfLock 0) { hub := h, pending := [] }).links[(0 : Fin 6)].hold = some 1 ∧
      (after (.lossOfLock 0) { hub := h, pending := [] }).links[(0 : Fin 6)].cutRate = none ∧
      (after (.lossOfLock 0) { hub := h, pending := [] }).portB.line =
        some { kind := NoticeKind.linkFault.code, tag := 0, body := [0, 0, 2, 1] } := by decide +kernel

def offeringPart : State :=
  screenPart (boundScreen .parked) { linkIn .rolling with rollWait := some 0, offered := some 0 }

theorem test_meets_Rolling :
    (receiverOpen offeringPart.hub.links[(0 : Fin 6)] = true ∧
      offeringPart.hub.links[(0 : Fin 6)].rows[(0 : Fin 2)].assignment = .unassigned ∧
      offeringPart.hub.links[(0 : Fin 6)].state = .rolling ∧ offeringPart.hub.links[(0 : Fin 6)].rollWait ≠ none ∧
      offeringPart.hub.links[(0 : Fin 6)].offered = some 0 ∧ awaitedScreen offeringPart.hub 0 7 = some 0 ∧
      awaitedScreen offeringPart.hub 0 8 = none ∧
      offeringPart.hub.screens[(0 : Fin 8)].size = some { columns := (1 : Byte).toNat, rows := (1 : Byte).toNat } ∧
      offeringPart.hub.screens[(0 : Fin 8)].size ≠ some { columns := (1 : Byte).toNat, rows := (2 : Byte).toNat } ∧
      (16 : Byte).toNat ≤ 16 ∧ 16 < (17 : Byte).toNat ∧ offeringPart.hub.links[(0 : Fin 6)].offered ≠ some 1) ∧
    (offeringPart.hub.links[(0 : Fin 6)].rollWait = some 0 ∧ offeringPart.hub.screens[(0 : Fin 8)].link = some 0 ∧
      offeringPart.hub.screens[(0 : Fin 8)].state = .parked) ∧
      (after (.rollWaitExpiry 0) offeringPart).portA.line =
        some { kind := NoticeKind.lost.code, tag := 0, body := [0, 0, 0, 0, 0, 0, 0] } := by decide +kernel

/-- R114: after the HELLO for address 1 the ROLL for address 2 goes out, after that for address 2 rolling ends. -/
theorem test_meets_afterHello :
    let second := screenPart (boundScreen .missing) { linkIn .rolling with rollWait := some 1, offered := some 1 }
    (after (.hello 0 1 9 4 1 1) offeringPart).links[(0 : Fin 6)].control = [.roll 1] ∧
      (after (.hello 0 2 7 4 1 1) second).links[(0 : Fin 6)].state = .up ∧
      awaitedScreen twoScreens.hub 0 8 = some 1 ∧ awaitedScreen (lentPart .sent false).hub 0 7 = none := by decide +kernel

/-- R118: a packet from a Joined screen of an Up link starts the silence timer again, and from others it does not. -/
theorem test_meets_touchSilence :
    (touchSilence 0 1 (screenPart (joinedScreen .idle heldEntry) (linkTo .up id)).hub).links[(0 : Fin 6)].rows[(0 : Fin
        2)].silence = some 20 ∧
      (touchSilence 0 1 (screenPart (boundScreen .lost) (linkTo .up id)).hub).links[(0 : Fin 6)].rows[(0 : Fin
        2)].silence = none := by decide +kernel

theorem test_meets_KeepAlive :
    (linkPart (linkTo .up fun r => { r with silence := some 0 })).hub.links[(0 : Fin 6)].rows[(0 : Fin 2)].silence = some 0 ∧
      (linkTo .up fun r => { r with pollWait := some 0 }).rows[(0 : Fin 2)].pollWait = some 0 ∧
      (linkTo .up fun r => { r with lostPoll := some 0 }).rows[(0 : Fin 2)].lostPoll = some 0 ∧
      (linkTo .up id).rows[(0 : Fin 2)].assignment = .screen 0 ∧ receiverOpen (linkTo .up id) = true ∧
      (boundScreen .lost).state = .lost ∧ (boundScreen .parked).state = .parked ∧ 16 < (17 : Byte).toNat := by
  decide +kernel

theorem test_meets_ParkAndWake :
    (linePart .park false).hub.links[(0 : Fin 6)].line = some { packet := .park, dead := false } ∧
      (linkPart (linkIn .parked)).hub.links[(0 : Fin 6)].state = .parked ∧
      (linkPart (linkIn .parked)).hub.links[(0 : Fin 6)].wakeLine = false ∧
      (linkPart (linkIn .parked)).hub.links[(0 : Fin 6)].autoWake = false := by decide +kernel

/-- R124: the park of a Joined screen with a Queued and a Sent buffer, in a running set. -/
theorem test_meets_ParkAndWake_buffers :
    let s := part fun h =>
      { h with
        screens := h.screens.set 0 (joinedScreen .gathering { behindEntry with state := .sending })
        links := h.links.set 0
          { linkTo .up id with line := some { packet := .park, dead := false }, tiles := [0], sentOrder := [1] }
        groups := upd h.groups 1 fun g => { g with running := g.running.set 0 true }
        buffers := (h.buffers.set 0 (some (lend .queued false))).set 1 (some (lend .sent false)) }
    let h := after (.parkTransmitted 0) s
    h.screens[(0 : Fin 8)].state = .parked ∧ h.buffers[(0 : Fin 32)] = none ∧
      h.buffers[(1 : Fin 32)] = some (lend .sent true) ∧ h.links[(0 : Fin 6)].tiles = [] ∧
      h.groups[(1 : Fin 4)].running[(0 : Fin 8)] = false := by decide +kernel

/-- A link with 14, one with 15 check failures, payloads of 16 and 17 bytes, and the addresses 0, 3, 15 and 16. -/
theorem test_meets_CheckFailuresStrangersAndNotes :
    (receiverOpen (linkIn .up) = true ∧ receiverOpen (linkIn .down) = false ∧
      (part fun h => { h with windowDue := true }).hub.windowDue = true) ∧
    (({ linkIn .up with checkFailures := 14 } : Link).checkFailures < 15 ∧
      (linkPart { linkIn .up with checkFailures := 15 }).hub.links[(0 : Fin 6)].checkFailures = 15 ∧
      (after (.upstreamCheckFailure 0) (linkPart { linkIn .up with checkFailures := 15 })).links[(0 : Fin 6)].currentCap =
        .three) ∧
    (listedUpstream 0x80 = false ∧ listedUpstream 0x88 = false ∧ (List.replicate 16 (0 : Byte)).length ≤ 16 ∧
      16 < (List.replicate 17 (0 : Byte)).length) ∧
    ((linkTo .up fun r => { r with assignment := .stranger 9 }).rows[(0 : Fin 2)].assignment = .stranger 9 ∧
      (linkTo .up fun r => { r with assignment := .unassigned }).rows[(0 : Fin 2)].assignment = .unassigned ∧
      matchSent (linkPart (linkTo .up fun r => { r with assignment := .stranger 9 })).hub 0 0 0 = none ∧
      (linkTo .up id).rows[(0 : Fin 2)].assignment = .screen 0 ∧ (boundScreen .lost).state ≠ .joined ∧
      (boundScreen .joined).state = .joined) ∧
    15 < (16 : Byte).toNat ∧ 3 ≤ (3 : Byte).toNat ∧ (15 : Byte).toNat ≤ 15 := by decide +kernel

/-- SHOWN from address 15, and one from a Lost screen, are protocol faults of kinds 5 and 1 (R131). -/
theorem test_protocolFaults :
    (after (.shown 0 15 1) (linkPart (linkIn .up))).portA.line =
        some { kind := NoticeKind.protocol.code, tag := 0, body := [0, 0, 15, 5] } ∧
      (after (.shown 0 1 1) (screenPart (boundScreen .lost) (linkTo .up id))).portA.line =
        some { kind := NoticeKind.protocol.code, tag := 0, body := [0, 0, 1, 1] } := by decide +kernel

/-! ### What follows at an event -/

/-- R166: an idle transmitter takes the reply before the notice. -/
theorem test_settle_reply :
    let x := ((settle (portPart fun x =>
      { x with replies := [{ kind := 0x81, tag := 1, body := [0] }], notices := [{ kind := 0xE0, tag := 0, body := [0] }] }).hub).port
      .a)
    x.line = some { kind := 0x81, tag := 1, body := [0] } ∧ x.replies = [] ∧ x.notices.length = 1 := by decide +kernel

/-- R95: a free line takes the oldest control packet before a TILE, and a TILE only while the link is Up. -/
theorem test_settle_packets :
    let s := fun st control => part fun h =>
      { h with
        links := h.links.set 0 { linkTo st id with control := control, tiles := [0] }
        buffers := h.buffers.set 0 (some (lend .queued true)) }
    ((settle (s .up [.level 0 3, .level 0 4]).hub).links[(0 : Fin 6)].line.map (·.packet)) = some (.level 0 3) ∧
      (settle (s .up [.level 0 3, .level 0 4]).hub).links[(0 : Fin 6)].control = [.level 0 4] ∧
      (settle (s .up []).hub).links[(0 : Fin 6)].tiles = [] ∧
      ((settle (s .up []).hub).buffers[(0 : Fin 32)].map (·.inTransmission)) = some true ∧
      (settle (s .rolling []).hub).links[(0 : Fin 6)].line = none ∧
      (settle (s .parked [.level 0 3]).hub).links[(0 : Fin 6)].line = none := by decide +kernel

/-- R164: two frames that wait are both handled, the older first; a port that handles one leaves them waiting. -/
theorem test_settle_frames :
    let claim : Frame := (Request.claim 0).frame 5
    let yields : Frame := (Request.yieldScreen 0).frame 6
    let s := fun handling => part fun h =>
      ({ h with screens := h.screens.set 0 { boundScreen .missing with owner := none } } : Hub).modPort .a fun x =>
        { x with input := [claim, yields], handling := handling }
    (settle (s none).hub).portA.input = [] ∧ (settle (s none).hub).screens[(0 : Fin 8)].owner = none ∧
      ((settle (s none).hub).portA.line.map (·.tag)) = some 5 ∧
      ((settle (s none).hub).portA.replies.map (·.tag)) = [6] ∧
      (settle (s (some .hubReset)).hub).portA.input = [claim, yields] ∧
      (consequences (s none).hub).starting = false ∧ (consequences (s none).hub).portA.handling = none ∧
      (consequences (s none).hub).portA.input = [claim, yields] ∧ 0 < (consequences (s none).hub).portA.freePlaces := by
  decide +kernel

/-- R71, R73: gathering ends, and the screen outside a running set is shown, at one event. -/
theorem test_settle_cycle :
    (settle (screenPart (joinedScreen .gathering heldEntry) (linkTo .up id)).hub).screens[(0 : Fin 8)].engine.cycle =
        some .presenting ∧
      (settle (runningPart (joinedScreen .gathering heldEntry)).hub).screens[(0 : Fin 8)].engine.cycle =
        some .presenting ∧
      ((settle grantPart.hub).buffers[(0 : Fin 32)].map (·.phase)) = some .loading := by decide +kernel

/-- Lists at the ends of their ranges. -/
theorem test_meets_ReadBack :
    (List.replicate 4 aView).length ≤ 4 ∧ ascending.length = 8 ∧ (Instr.note 3 15 (List.replicate 16 1)).wellFormed = true ∧
      upstreamBytes (.note 3 15 []) ≠ none ∧ upstreamBytes (.loss 3 0) ≠ none := by decide +kernel

/-- The laws that a step is to keep hold in a state that steps to a next one. -/
theorem test_meets_laws :
    State.reset.hub.dram.wf = true ∧ noFrameWaits ready.hub ∧ seizedOwnedByB (screenPart seizedScreen (linkIn .off)).hub ∧
      poolLaw twoScreens.hub ∧ (∃ t, step State.reset = .next t) := by
  refine ⟨rfl, ⟨rfl, rfl⟩, ?_, ⟨?_, ?_⟩, ⟨_, rfl⟩⟩
  · unfold seizedOwnedByB
    decide +kernel
  · decide +kernel
  · decide +kernel

theorem test_meets_slot_laws : newestLaw fullPart.hub ∧ (fillingLaw (fillingPart 39).hub) := by
  refine ⟨?_, ?_⟩
  · unfold newestLaw
    decide +kernel
  · unfold fillingLaw
    decide +kernel

/-- The laws of reader sets in a part with readers of both kinds. -/
theorem test_meets_ReaderLawsKept : readerLaws readingPart.hub ∧ ∃ t, step readingPart = .next t := by
  refine ⟨⟨fun p c x hx => ?_, ?_, ?_⟩, _, rfl⟩
  · subst hx
    revert p c
    decide +kernel
  · unfold cycleLaw
    decide +kernel
  · unfold readerLaw
    decide +kernel

theorem lentPart_buffers : ∀ b : Fin 32, (lentPart .sent false).hub.buffers[b] = if b = 0 then some (lend .sent false) else none := by
  decide +kernel

theorem carries_lentPart (b : Fin 32) (n : Fin 8) (t : Nat) :
    carries (lentPart .sent false).hub b n t ↔ b = 0 ∧ n = 0 ∧ t = 0 := by
  unfold carries
  rw [lentPart_buffers]
  constructor
  · rintro ⟨x, hx, -, rfl, rfl⟩
    split at hx
    · next e => exact ⟨e, by rw [← Option.some.inj hx]; exact ⟨rfl, rfl⟩⟩
    · cases hx
  · rintro ⟨rfl, rfl, rfl⟩
    exact ⟨_, if_pos rfl, rfl, rfl, rfl⟩

/-- The laws of delivery in a part with an entry Sending, its buffer Sent. -/
theorem test_meets_DeliveryLawsKept :
    deliveryLaws (lentPart .sent false).hub ∧ ∃ t, step (lentPart .sent false) = .next t := by
  refine ⟨⟨?_, ?_, ⟨fun n t => ?_, fun b c n t hb hc => ?_, fun b x hb hx => ?_⟩, fun n l a => ?_, ⟨?_, ?_⟩, fun l k hk => ?_⟩,
    _, rfl⟩
  · unfold cycleLaw
    decide +kernel
  · unfold showLaw
    decide +kernel
  · simp only [carries_lentPart]
    have e : ∀ n : Fin 8, ((lentPart .sent false).hub.screens[n].entries.map (·.state)) =
        if n = 0 then [.sending] else [] := by decide +kernel
    rw [← List.getElem?_map, e]
    by_cases hn : n = 0
    · rcases t with _ | t <;> simp [hn]
    · simp [hn]
  · exact ((carries_lentPart b n t).1 hb).1.trans ((carries_lentPart c n t).1 hc).1.symm
  · have h0 := (carries_lentPart b x.screen x.tile).1 ⟨x, hb, hx, rfl, rfl⟩
    rw [lentPart_buffers, if_pos h0.1] at hb
    have e : x = lend .sent false := (Option.some.inj hb).symm
    subst e
    decide +kernel
  · intro hs hr
    refine ⟨2, ?_, ?_⟩ <;> revert hs hr <;> revert n l a <;> decide +kernel
  · decide +kernel
  · decide +kernel
  · subst hk
    revert l
    decide +kernel

end Sys2Proof.Tests
end

/-! O39: a LOSS by cycle state (R56, R72, R76). What the joining of sources leaves alone, then what each step of the
return to Gathering makes of the part, then the statement. -/

namespace Sys2Proof.Machine

/-! ### What the joining of sources leaves alone (R15, R31) -/

/-- `k` differs from `h` in slots, plates and screens at most. -/
def Hub.CycleFrame (h k : Hub) : Prop := k = { h with screens := k.screens, slots := k.slots, plates := k.plates }

theorem Hub.CycleFrame.trans {h k m : Hub} (a : Hub.CycleFrame h k) (b : Hub.CycleFrame k m) : Hub.CycleFrame h m := by
  refine Eq.trans b ?_
  rw [a]

theorem Hub.CycleFrame.modScreen (h : Hub) (n : Fin 8) (f : Screen → Screen) : Hub.CycleFrame h (h.modScreen n f) := rfl

/-- `k` differs from `h` in slots, plates and screens at most, and the engine of screen `n` in its joined sources. -/
structure JoinFrame (n : Fin 8) (h k : Hub) : Prop where
  rest : Hub.CycleFrame h k
  engine : k.screens[n].engine =
    { h.screens[n].engine with
      joinedSurfaces := k.screens[n].engine.joinedSurfaces, joinedPlates := k.screens[n].engine.joinedPlates }

namespace JoinFrame

theorem refl (n : Fin 8) (h : Hub) : JoinFrame n h h := ⟨rfl, rfl⟩

theorem trans {n : Fin 8} {h k m : Hub} (a : JoinFrame n h k) (b : JoinFrame n k m) : JoinFrame n h m := by
  refine ⟨a.rest.trans b.rest, b.engine.trans ?_⟩
  rw [a.engine]

theorem foldl {α : Type} {n : Fin 8} {f : Hub → α → Hub} (hf : ∀ h a, JoinFrame n h (f h a)) (l : List α) (h : Hub) :
    JoinFrame n h (l.foldl f h) := by
  induction l generalizing h with
  | nil => exact refl n h
  | cons a l ih => exact (hf h a).trans (ih _)

/-- An update of the joined sources of the engine. -/
theorem modEngine (n : Fin 8) (h : Hub) {f : Engine → Engine}
    (hf : ∀ e, f e = { e with joinedSurfaces := (f e).joinedSurfaces, joinedPlates := (f e).joinedPlates }) :
    JoinFrame n h (h.modEngine n f) := by
  refine ⟨rfl, ?_⟩
  rw [Hub.modEngine_screens, upd_get_same]
  exact hf _

theorem modSlot (n : Fin 8) (h : Hub) (i : Fin 2) (j : Fin 3) (f : Slot → Slot) : JoinFrame n h (h.modSlot i j f) :=
  ⟨rfl, rfl⟩

theorem modCopy (n : Fin 8) (h : Hub) (p : Fin 16) (c : Fin 2) (f : PlateCopy → PlateCopy) :
    JoinFrame n h (h.modCopy p c f) := ⟨rfl, rfl⟩

end JoinFrame

theorem joinSurface_frame (n : Fin 8) (h : Hub) (i : Fin 2) : JoinFrame n h (joinSurface n h i) := by
  unfold joinSurface
  split
  · exact JoinFrame.refl n h
  · exact (JoinFrame.modSlot n h i _ _).trans (JoinFrame.modEngine n _ fun _ => rfl)

theorem joinPlate_frame (n : Fin 8) (h : Hub) (p : Fin 16) : JoinFrame n h (joinPlate n h p) := by
  unfold joinPlate
  split
  · exact JoinFrame.refl n h
  · exact (JoinFrame.modCopy n h p _ _).trans (JoinFrame.modEngine n _ fun _ => rfl)

/-- R68 step 2: what the join of the layout's sources leaves alone. -/
theorem joinSources_frame (n : Fin 8) (h : Hub) : JoinFrame n h (joinSources n h) :=
  (JoinFrame.modEngine n h fun _ => rfl).trans
    ((JoinFrame.foldl (joinSurface_frame n) _ _).trans (JoinFrame.foldl (joinPlate_frame n) _ _))

/-- The screen itself keeps all but its joined sources. -/
theorem joinSources_screen (n : Fin 8) (h : Hub) :
    (joinSources n h).screens[n] =
      { h.screens[n] with
        engine :=
          { h.screens[n].engine with
            joinedSurfaces := (joinSources n h).screens[n].engine.joinedSurfaces
            joinedPlates := (joinSources n h).screens[n].engine.joinedPlates } } := by
  obtain ⟨e, he, -⟩ := (joinSources_joined n h).screen
  have frame := (joinSources_frame n h).engine
  rw [← frame, he]

/-! ### What a gathering reads of the part (R50, R72) -/

/-- R72: the numbers that a screen with the layout records of the surfaces, as they stand. -/
def framesOf (h : Hub) (v : Layout) : Vector (Option (BitVec 32)) 2 :=
  Vector.ofFn fun i => if v.names (.surface i) then (newestSlot h i).bind fun k => h.slots[i][k].number else none

/-- R72: the versions that a screen with the layout records of the plates, as they stand. -/
def versionsOf (h : Hub) (v : Layout) : Vector (Option Half) 16 :=
  Vector.ofFn fun p => if v.names (.plate p) && h.plates[p].live.isSome then some h.plates[p].version else none

/-- R15: a join changes no number of a slot. -/
theorem Joined.framesOf_eq {n : Fin 8} {h k : Hub} (a : Joined n h k) (v : Layout) : framesOf k v = framesOf h v := by
  unfold framesOf
  congr 1
  funext i
  have number : ∀ j : Fin 3, k.slots[i][j].number = h.slots[i][j].number := fun j => by
    obtain ⟨r, hr⟩ := a.slots i j
    rw [hr]
  simp only [a.newestSlot_eq, number]

/-- R31: a join changes no version of a plate. -/
theorem Joined.versionsOf_eq {n : Fin 8} {h k : Hub} (a : Joined n h k) (v : Layout) :
    versionsOf k v = versionsOf h v := by
  unfold versionsOf
  congr 1
  funext p
  obtain ⟨-, live, version, -⟩ := a.plates p
  rw [live, version]

/-- The two parts have the same slots, plates and captures. -/
structure SameSources (h k : Hub) : Prop where
  slots : k.slots = h.slots
  plates : k.plates = h.plates
  captures : k.captures = h.captures

namespace SameSources
variable {h k : Hub}

theorem trans {m : Hub} (a : SameSources h k) (b : SameSources k m) : SameSources h m :=
  ⟨b.slots.trans a.slots, b.plates.trans a.plates, b.captures.trans a.captures⟩

theorem modScreen (h : Hub) (n : Fin 8) (f : Screen → Screen) : SameSources h (h.modScreen n f) := ⟨rfl, rfl, rfl⟩

theorem newestSlot_eq (a : SameSources h k) (i : Fin 2) : newestSlot k i = newestSlot h i := newestSlot_of_slots a.slots i

/-- R50: a target is a matter of the sources, and of a screen's layout, size and fill. -/
theorem targetOf_eq (a : SameSources h k) (x : Screen) (entries : List Entry) (t : Nat) :
    targetOf k { x with entries := entries } t = targetOf h x t := by
  have background : backgroundTarget { x with entries := entries } = backgroundTarget x := rfl
  have surface : ∀ i c r, surfaceTarget k { x with entries := entries } i c r = surfaceTarget h x i c r := fun i c r => by
    simp only [surfaceTarget, a.newestSlot_eq, a.slots, a.captures, background]
  have plate : ∀ p c r, plateTarget k { x with entries := entries } p c r = plateTarget h x p c r := fun p c r => by
    simp only [plateTarget, a.plates, background]
  simp only [targetOf, surface, plate, background]

theorem framesOf_eq (a : SameSources h k) (v : Layout) : framesOf k v = framesOf h v := by
  simp only [framesOf, a.newestSlot_eq, a.slots]

theorem versionsOf_eq (a : SameSources h k) (v : Layout) : versionsOf k v = versionsOf h v := by
  simp only [versionsOf, a.plates]

end SameSources

/-- R118: the silence timer is no source. -/
theorem touchSilence_sources (l : Fin 6) (address : Byte) (h : Hub) : SameSources h (touchSilence l address h) := by
  obtain ⟨k, hk, -⟩ := touchSilence_touched l address h
  rw [hk]
  exact ⟨rfl, rfl, rfl⟩

/-! ### The return to Gathering (R72) -/

/-- R51: the walk marks Behind an entry whose held signature was removed. -/
theorem walkEntry_behindUnknown (g : Target) (e : Entry) :
    walkEntry g e.behindUnknown = { state := .behind, held := none, target := some g } := by
  simp [walkEntry, Entry.behindUnknown]

theorem modEntries_same (n : Fin 8) (f : Entry → Entry) (h : Hub) :
    (modEntries n f h).screens[n] = { h.screens[n] with entries := h.screens[n].entries.map f } := upd_get_same _ _ _

theorem modEntries_other {n m : Fin 8} (hm : m ≠ n) (f : Entry → Entry) (h : Hub) :
    (modEntries n f h).screens[m] = h.screens[m] := upd_get_other _ _ (Ne.symm hm)

theorem returnToGathering_others (n : Fin 8) (h : Hub) {m : Fin 8} (hm : m ≠ n) :
    (returnToGathering n h).screens[m] = h.screens[m] := by
  simp only [returnToGathering, setCycle, recordSources, setTargets, Hub.modEngine_screens, Hub.modScreen_screens,
    upd_get_other _ _ (Ne.symm hm), (joinSources_joined n h).others m hm]

theorem returnToGathering_slots (n : Fin 8) (h : Hub) : (returnToGathering n h).slots = (joinSources n h).slots := by
  simp only [returnToGathering, setCycle, recordSources, setTargets, Hub.modEngine_slots, Hub.modScreen_slots]

theorem returnToGathering_plates (n : Fin 8) (h : Hub) : (returnToGathering n h).plates = (joinSources n h).plates := by
  simp only [returnToGathering, setCycle, recordSources, setTargets, Hub.modEngine_plates, Hub.modScreen_plates]

theorem returnToGathering_rest (n : Fin 8) (h : Hub) : Hub.CycleFrame h (returnToGathering n h) :=
  (joinSources_frame n h).rest.trans ((Hub.CycleFrame.modScreen _ n _).trans
    ((Hub.CycleFrame.modScreen _ n _).trans (Hub.CycleFrame.modScreen _ n _)))

theorem returnToGathering_screen (n : Fin 8) (h : Hub) :
    (returnToGathering n h).screens[n] =
      { h.screens[n] with
        entries := h.screens[n].entries.mapIdx fun t e => walkEntry (targetOf h h.screens[n] t) e
        lastFrames := framesOf h h.screens[n].layout
        lastVersions := versionsOf h h.screens[n].layout
        engine :=
          { h.screens[n].engine with
            cycle := some .gathering
            joinedSurfaces := (joinSources n h).screens[n].engine.joinedSurfaces
            joinedPlates := (joinSources n h).screens[n].engine.joinedPlates } } := by
  have joined := joinSources_joined n h
  have steps : (returnToGathering n h).screens[n] =
      { (joinSources n h).screens[n] with
        entries := (joinSources n h).screens[n].entries.mapIdx fun t e =>
          walkEntry (targetOf (joinSources n h) (joinSources n h).screens[n] t) e
        lastFrames := framesOf (joinSources n h) (joinSources n h).screens[n].layout
        lastVersions := versionsOf (joinSources n h) (joinSources n h).screens[n].layout
        engine := { (joinSources n h).screens[n].engine with cycle := some .gathering } } := by
    simp only [returnToGathering, setCycle, recordSources, setTargets, Hub.modEngine_screens, Hub.modScreen_screens,
      upd_get_same]
    rfl
  rw [steps, joinSources_screen n h]
  simp only [joined.targetOf_eq, joined.framesOf_eq, joined.versionsOf_eq]

/-! ### A LOSS taken (R56) -/

theorem modScreen_modScreen (h : Hub) (n : Fin 8) (f g : Screen → Screen) :
    (h.modScreen n f).modScreen n g = h.modScreen n fun x => g (f x) := by
  simp only [Hub.modScreen, upd_upd]

/-- R56, R131: a LOSS from a screen's address is judged by the state of the screen. -/
theorem loss_completes {s : State} {l : Fin 6} {a : Fin 2} {n : Fin 8} (receiver : receiverOpen s.hub.links[l] = true)
    (assigned : s.hub.links[l].rows[a].assignment = .screen n) :
    Completes (.loss l (rowByte a)) s
      (if s.hub.screens[n].state = .joined then lossJoined n (touchSilence l (rowByte a) s.hub)
      else protocolFault l (rowByte a) .loss (touchSilence l (rowByte a) s.hub)) := by
  refine complete_completes (f := takePacket l (rowByte a) (lossTaken l (rowByte a))) rfl ?_
  rw [takePacket_taken receiver, lossTaken, bySender, senderOf_screen assigned]
  dsimp only
  rw [touchSilence_screens]

section
variable {h : Hub} {n : Fin 8}

theorem lossJoined_idle (hc : h.screens[n].engine.cycle = some .idle) :
    lossJoined n h = h.modScreen n fun y => { y with entries := y.entries.map fun _ => Entry.absent } := by
  rw [lossJoined, hc]
  rfl

theorem lossJoined_gathering (hc : h.screens[n].engine.cycle = some .gathering) :
    lossJoined n h = h.modScreen n fun y =>
      { y with
        entries := y.entries.map fun e =>
          if e.state = .sending then e else { e with state := .behind, held := none } } := by
  rw [lossJoined, hc]
  rfl

theorem lossJoined_cutting (hc : h.screens[n].engine.cycle = some .cutting) :
    lossJoined n h = h.modScreen n fun y =>
      { y with
        entries := y.entries.map fun e =>
          if e.state = .sending then e else { e with state := .absent, held := none } } := by
  rw [lossJoined, hc]
  rfl

theorem lossJoined_ready (hc : h.screens[n].engine.cycle = some .ready) :
    lossJoined n h = returnToGathering n (modEntries n Entry.behindUnknown h) := by
  rw [lossJoined, hc]

theorem lossJoined_presenting (hc : h.screens[n].engine.cycle = some .presenting) :
    lossJoined n h = h.modScreen n fun y =>
      { y with entries := y.entries.map fun _ => Entry.absent, engine := { y.engine with lossWait := true } } := by
  rw [lossJoined, hc]
  exact modScreen_modScreen h n _ _

end

/-- R56, R72: the screen that a LOSS returns from Ready to Gathering, in a part `g` that has the sources of `h` and in
which the screen's entries are marked. -/
theorem returnToGathering_marked {n : Fin 8} {h g : Hub} (sources : SameSources h g) {x : Screen}
    (marked : g.screens[n] = { x with entries := x.entries.map Entry.behindUnknown }) :
    (returnToGathering n g).screens[n] =
      { x with
        entries := x.entries.mapIdx fun t _ => { state := .behind, held := none, target := some (targetOf h x t) }
        lastFrames := framesOf h x.layout
        lastVersions := versionsOf h x.layout
        engine :=
          { x.engine with
            cycle := some .gathering
            joinedSurfaces := (joinSources n g).screens[n].engine.joinedSurfaces
            joinedPlates := (joinSources n g).screens[n].engine.joinedPlates } } := by
  have walked : ((x.entries.map Entry.behindUnknown).mapIdx fun t e => walkEntry (targetOf h x t) e) =
      x.entries.mapIdx fun t _ => { state := .behind, held := none, target := some (targetOf h x t) } := by
    refine List.ext_getElem? fun t => ?_
    simp [walkEntry_behindUnknown, Function.comp_def]
  rw [returnToGathering_screen, marked]
  simp only [sources.targetOf_eq, sources.framesOf_eq, sources.versionsOf_eq, walked]

/-- Settles O39, by the state of the screen and of its cycle; the clauses of a Ready screen are those of the return to
Gathering of the part `g` with its entries marked, read in the part before the LOSS. -/
theorem lossByCycleState : Obligations.LossByCycleState := by
  intro s n x l a h hx receiver assigned hh
  have loss := loss_completes receiver assigned
  have screens : h.screens = s.hub.screens := by rw [hh, touchSilence_screens]
  have touched : SameSources s.hub h := by
    rw [hh]
    exact touchSilence_sources l (rowByte a) s.hub
  rw [← hx, ← hh] at loss
  refine ⟨fun joined => ?_, fun away => ?_⟩
  case refine_2 => rwa [if_neg away] at loss
  rw [if_pos joined] at loss
  have cycle : h.screens[n].engine.cycle = x.engine.cycle := by rw [screens, hx]
  refine ⟨fun idle => ?_, fun gathering => ?_, fun cutting => ?_, fun ready => ?_, fun presenting => ?_⟩
  · rwa [lossJoined_idle (cycle.trans idle)] at loss
  · rwa [lossJoined_gathering (cycle.trans gathering)] at loss
  · rwa [lossJoined_cutting (cycle.trans cutting)] at loss
  · rw [lossJoined_ready (cycle.trans ready)] at loss
    have marked := modEntries_same n Entry.behindUnknown h
    have others : ∀ m : Fin 8, m ≠ n → (modEntries n Entry.behindUnknown h).screens[m] = h.screens[m] :=
      fun m hm => modEntries_other hm _ h
    have sources : SameSources s.hub (modEntries n Entry.behindUnknown h) :=
      touched.trans (SameSources.modScreen h n _)
    have frame : Hub.CycleFrame h (modEntries n Entry.behindUnknown h) := Hub.CycleFrame.modScreen h n _
    generalize modEntries n Entry.behindUnknown h = g at *
    rw [screens, ← hx] at marked
    have screen := returnToGathering_marked sources marked
    obtain ⟨slot, plate, copy, surfaces, plates⟩ := joinSources_readers n g x.layout (by rw [marked])
    refine ⟨_, loss, ?_, ?_, fun t ht => ?_, frame.trans (returnToGathering_rest n g), fun m hm => ?_, ?_,
      fun i => ⟨?_, ?_⟩, fun p => ⟨?_, ?_⟩, fun i j => ?_, fun p => ?_, fun p c => ?_⟩
    · rw [screen]
    · rw [screen, List.length_mapIdx]
    · rw [screen]
      simp [ht]
    · rw [returnToGathering_others n g hm, others m hm, screens]
    · rw [screen]
    · rw [screen]
      simp [framesOf]
    · rw [screen]
      exact (surfaces i).trans (by rw [sources.newestSlot_eq])
    · rw [screen]
      simp [versionsOf, Option.isSome_iff_ne_none]
    · rw [screen]
      exact (plates p).trans (by rw [sources.plates])
    · rw [returnToGathering_slots, slot, sources.newestSlot_eq, sources.slots]
    · rw [returnToGathering_plates, plate, sources.plates]
    · rw [returnToGathering_plates, copy, sources.plates]
  · rwa [lossJoined_presenting (cycle.trans presenting)] at loss

end Sys2Proof.Machine

/-! O30, O31: the ownership of a screen (R138, R139). How a request of good form completes, what the checks of bound and
owner leave of it, what a CLAIM and a YIELD answer, then the statements. -/

namespace Sys2Proof.Machine

/-! ### A request of good form (R164, R173) -/

@[simp] theorem hunting_screens (p : Port) (h : Hub) : (h.hunting p).screens = h.screens := Hub.modPort_screens h p _

/-- R173 steps 3 to 5: a request in range that a port can handle at once completes with its answer. -/
theorem request_completes {c : Instr} {s : State} {p : Port} {tag : Byte} {r : Request}
    (meaning : exec c s = complete (requestArrives p tag r) s) (atOnce : handlesAtOnce p s.hub = true)
    (lists : r.listsFit) (inRange : r.badField = none) :
    Completes c s (queueAnswer p r.kind.code tag (perform p tag r (s.hub.hunting p))) :=
  complete_completes meaning (by rw [requestArrives_handled atOnce tag lists, handleRequest_inRange inRange])

/-- R173 step 3: the only field of a request, in range. -/
theorem plainBad_within {lo hi : Nat} {b : Byte} (low : lo ≤ b.toNat) (high : b.toNat ≤ hi) :
    plainBad [within lo hi b] = none := by
  simp [plainBad, firstBad, within, low, high]

/-! ### The checks of bound and owner (R39, R136) -/

theorem onBound_bound {n : Fin 8} {h : Hub} (bound : h.screens[n].bound = true) (f : Hub → Answer) :
    onBound n f h = f h := if_pos bound

theorem asOwner_owner {p : Port} {n : Fin 8} {h : Hub} (bound : h.screens[n].bound = true)
    (owner : h.screens[n].owner = some p) (f : Hub → Answer) : asOwner p n f h = f h :=
  (onBound_bound bound _).trans (if_pos owner)

/-! ### What a CLAIM and a YIELD answer (R138, R139) -/

section
variable {h : Hub} {n : Fin 8}

theorem claimScreen_unowned (p : Port) (unowned : h.screens[n].owner = none) :
    claimScreen p n h =
      (h.modScreen n fun x => { x with owner := some p }).done
        ([byteOfFin n, portCode (some p)] ++ be16 h.screens[n].stamp) := if_pos unowned

theorem claimScreen_owned (p : Port) (owned : h.screens[n].owner ≠ none) :
    claimScreen p n h = h.refuse .notOwner (notOwnerData h.screens[n]) := if_neg owned

theorem yieldOwner_unseized (unseized : h.screens[n].seize = none) :
    yieldOwner n h =
      (h.modScreen n fun x => { x with owner := none }).done (byteOfFin n :: be16 h.screens[n].stamp) := by
  rw [yieldOwner, if_neg (by simpa using unseized)]

theorem yieldOwner_seized (seized : h.screens[n].seize ≠ none) :
    yieldOwner n h = h.refuse .wrongState [byteOfFin n, h.screens[n].state.code] :=
  if_pos (Option.isSome_iff_ne_none.mpr seized)

end

/-! ### The commands -/

section
variable {s : State} {p : Port} {screen : Byte}

/-- R138: a CLAIM of a bound screen completes with the claim's answer. -/
theorem claim_completes (tag : Byte) (atOnce : handlesAtOnce p s.hub = true) (inRange : screen.toNat ≤ 7)
    (bound : s.hub.screens[screenOf screen].bound = true) :
    Completes (.claim p tag screen) s
      (queueAnswer p 0x38 tag (claimScreen p (screenOf screen) (s.hub.hunting p))) := by
  have performed : perform p tag (.claim screen) (s.hub.hunting p) =
      claimScreen p (screenOf screen) (s.hub.hunting p) := onBound_bound (by rwa [hunting_screens]) _
  rw [← performed]
  exact request_completes (r := .claim screen) rfl atOnce trivial (plainBad_within (Nat.zero_le _) inRange)

/-- R139: a YIELD of a bound screen by its owner completes with the yield's answer. -/
theorem yield_completes (tag : Byte) (atOnce : handlesAtOnce p s.hub = true) (inRange : screen.toNat ≤ 7)
    (bound : s.hub.screens[screenOf screen].bound = true) (owner : s.hub.screens[screenOf screen].owner = some p) :
    Completes (.yieldScreen p tag screen) s
      (queueAnswer p 0x39 tag (yieldOwner (screenOf screen) (s.hub.hunting p))) := by
  have performed : perform p tag (.yieldScreen screen) (s.hub.hunting p) =
      yieldOwner (screenOf screen) (s.hub.hunting p) :=
    asOwner_owner (by rwa [hunting_screens]) (by rwa [hunting_screens]) _
  rw [← performed]
  exact request_completes (r := .yieldScreen screen) rfl atOnce trivial (plainBad_within (Nat.zero_le _) inRange)

end

/-- Settles O30, by whether the screen has an owner. -/
theorem claimRequest : Obligations.ClaimRequest := by
  intro s p tag screen n atOnce inRange hn bound
  subst hn
  have claim := claim_completes tag atOnce inRange bound
  refine ⟨fun unowned => ?_, fun owned => ?_⟩
  · rwa [claimScreen_unowned p (by rwa [hunting_screens]), queueAnswer_done, hunting_screens] at claim
  · rwa [claimScreen_owned p (by rwa [hunting_screens]), queueAnswer_refuse, hunting_screens] at claim

/-- Settles O31, by whether the screen has a seize record. -/
theorem yield : Obligations.Yield := by
  intro s p tag screen n atOnce inRange hn bound owner
  subst hn
  have yields := yield_completes tag atOnce inRange bound owner
  refine ⟨fun unseized => ?_, fun seized => ?_⟩
  · rwa [yieldOwner_unseized (by rwa [hunting_screens]), queueAnswer_done, hunting_screens] at yields
  · rwa [yieldOwner_seized (by rwa [hunting_screens]), queueAnswer_refuse, hunting_screens] at yields

end Sys2Proof.Machine

/-! O55 to O59, part 1: what most operations of the part do to its laws. `Calm h k` says that the part `k` keeps every
law of `h` with nothing said of what else it does: an address names the same screen, an entry is in the same state, a
buffer is lent for the same entry, a reader set has no new member, and the laws of one block (a slot, a copy, a link, a
port, the DRAM) are kept there. -/

namespace Sys2Proof.Machine

/-! ### The law of offers, link by link (R114, R123) -/

/-- R109: the states of a link that has Joined or Lost screens. -/
def Link.running (k : Link) : Prop := k.state = .rolling ∨ k.state = .up

/-- R114, R123: the law of offers and of PARK, at one link. -/
def Link.rolls (k : Link) : Prop :=
  k.offers.length ≤ 1 ∧ (k.offers ≠ [] → k.state = .rolling) ∧
    (∀ a ∈ k.offers, ∀ b : Fin 2, a ≤ b → k.rows[b].assignment = .unassigned) ∧
    (k.rollWait.isSome ↔ k.offered.isSome) ∧ (.park ∈ k.packets → k.state = .up)

theorem rollLaw_iff (h : Hub) : rollLaw h ↔ ∀ l : Fin 6, h.links[l].rolls :=
  ⟨fun law l => law l _ rfl, fun law l _ hk => hk ▸ law l⟩

/-- The part of a link that the laws of delivery look at, kept. -/
structure Link.Calm (x y : Link) : Prop where
  assignment : ∀ a : Fin 2, y.rows[a].assignment = x.rows[a].assignment
  credit : ∀ a : Fin 2, y.rows[a].credit = x.rows[a].credit
  running : y.running ↔ x.running
  rolls : x.rolls → y.rolls

namespace Link.Calm

theorem refl (x : Link) : Link.Calm x x := ⟨fun _ => rfl, fun _ => rfl, Iff.rfl, id⟩

theorem trans {x y z : Link} (a : Link.Calm x y) (b : Link.Calm y z) : Link.Calm x z where
  assignment i := (b.assignment i).trans (a.assignment i)
  credit i := (b.credit i).trans (a.credit i)
  running := b.running.trans a.running
  rolls r := b.rolls (a.rolls r)

/-- A change of a link that leaves its state, its offers and its table of screens alone. -/
theorem of_same {x y : Link} (assignment : ∀ a : Fin 2, y.rows[a].assignment = x.rows[a].assignment)
    (credit : ∀ a : Fin 2, y.rows[a].credit = x.rows[a].credit) (state : y.state = x.state)
    (offers : y.offers = x.offers) (wait : y.rollWait = x.rollWait) (offered : y.offered = x.offered)
    (park : Packet.park ∈ y.packets → Packet.park ∈ x.packets) : Link.Calm x y where
  assignment := assignment
  credit := credit
  running := by simp only [Link.running, state]
  rolls := by
    rintro ⟨one, rolling, free, waits, parks⟩
    simp only [Link.rolls, offers, state, wait, offered, assignment]
    exact ⟨one, rolling, free, waits, fun p => parks (park p)⟩

/-- A change of a link in its settings, counters, timers and tile queue alone. -/
theorem of_settings {x y : Link} (rows : y.rows = x.rows) (state : y.state = x.state) (control : y.control = x.control)
    (line : y.line = x.line) (wait : y.rollWait = x.rollWait) (offered : y.offered = x.offered) : Link.Calm x y := by
  have packets : y.packets = x.packets := by simp only [Link.packets, livePacket, control, line]
  exact of_same (fun a => by rw [rows]) (fun a => by rw [rows]) state (by rw [Link.offers, Link.offers, packets, offered])
    wait offered (packets ▸ id)

/-- A change of the rows of a link that leaves their assignment and credit alone. -/
theorem of_rows {x y : Link} (rest : y = { x with rows := y.rows })
    (assignment : ∀ a : Fin 2, y.rows[a].assignment = x.rows[a].assignment)
    (credit : ∀ a : Fin 2, y.rows[a].credit = x.rows[a].credit) : Link.Calm x y := by
  rw [rest]
  exact of_same assignment credit rfl rfl rfl rfl id

/-- A change of one row that leaves its assignment and credit alone. -/
theorem row (x : Link) (a : Fin 2) {f : AddressRow → AddressRow} (assignment : ∀ r, (f r).assignment = r.assignment)
    (credit : ∀ r, (f r).credit = r.credit) : Link.Calm x { x with rows := upd x.rows a f } := by
  have kept : ∀ b : Fin 2, (upd x.rows a f)[b].assignment = x.rows[b].assignment ∧
      (upd x.rows a f)[b].credit = x.rows[b].credit :=
    upd_all (fun b (r : AddressRow) => r.assignment = x.rows[b].assignment ∧ r.credit = x.rows[b].credit)
      (fun _ => ⟨rfl, rfl⟩) fun same => ⟨(assignment _).trans same.1, (credit _).trans same.2⟩
  exact .of_rows rfl (fun b => (kept b).1) fun b => (kept b).2

/-- R95: a packet that offers no address and is no PARK joins the control queue. -/
theorem append (x : Link) {k : Packet} (roll : k.rollRow = none) (park : k ≠ .park) :
    Link.Calm x { x with control := x.control ++ [k] } := by
  refine of_same (fun _ => rfl) (fun _ => rfl) rfl ?_ rfl rfl ?_
  · simp [Link.offers, Link.packets, livePacket, roll]
  · intro h
    simpa [Link.packets, livePacket, park.symm] using h

end Link.Calm

/-! ### Screens and buffers -/

/-- R140, at one screen. -/
def Screen.seizedByB (x : Screen) : Prop := x.seize.isSome → x.owner = some .b

/-- The part of a screen that the laws look at, kept. -/
structure Screen.Calm (x y : Screen) : Prop where
  state : y.state = x.state
  link : y.link = x.link
  cycle : y.engine.cycle = x.engine.cycle
  entries : y.entries.map (·.state) = x.entries.map (·.state)
  seized : x.seizedByB → y.seizedByB

namespace Screen.Calm

theorem refl (x : Screen) : Screen.Calm x x := ⟨rfl, rfl, rfl, rfl, id⟩

theorem trans {x y z : Screen} (a : Screen.Calm x y) (b : Screen.Calm y z) : Screen.Calm x z where
  state := b.state.trans a.state
  link := b.link.trans a.link
  cycle := b.cycle.trans a.cycle
  entries := b.entries.trans a.entries
  seized s := b.seized (a.seized s)

theorem length {x y : Screen} (a : Screen.Calm x y) : y.entries.length = x.entries.length := by
  simpa using congrArg List.length a.entries

end Screen.Calm

/-- R92, R94: what a lent buffer carries and where. -/
def Lend.load (x : Lend) : Bool × Fin 6 × Fin 2 × Fin 8 × Nat := (x.voided, x.link, x.row, x.screen, x.tile)

/-! ### The whole part -/

/-- The laws of the slots of a surface (R14). -/
def slotLaws (h : Hub) : Prop := fillingLaw h ∧ newestLaw h

/-- An operation that keeps every law, block by block. -/
structure Calm (h k : Hub) : Prop where
  dram : h.dram.wf = true → k.dram.wf = true
  slots : slotLaws h → slotLaws k
  slotReaders : ∀ (i : Fin 2) (j : Fin 3) (n : Fin 8), k.slots[i][j].readers[n] = true → h.slots[i][j].readers[n] = true
  plates : plateLaw h → plateLaw k
  copyReaders : ∀ (p : Fin 16) (c : Fin 2) (n : Fin 8),
    k.plates[p].copies[c].readers[n] = true → h.plates[p].copies[c].readers[n] = true
  screens : ∀ n : Fin 8, Screen.Calm h.screens[n] k.screens[n]
  buffers : ∀ b : Fin 32, k.buffers[b].map Lend.load = h.buffers[b].map Lend.load
  links : ∀ l : Fin 6, Link.Calm h.links[l] k.links[l]
  portA : h.portA.bounded → k.portA.bounded
  portB : h.portB.bounded → k.portB.bounded

namespace Calm

theorem trans {h k m : Hub} (a : Calm h k) (b : Calm k m) : Calm h m where
  dram d := b.dram (a.dram d)
  slots s := b.slots (a.slots s)
  slotReaders i j n r := a.slotReaders i j n (b.slotReaders i j n r)
  plates p := b.plates (a.plates p)
  copyReaders p c n r := a.copyReaders p c n (b.copyReaders p c n r)
  screens n := (a.screens n).trans (b.screens n)
  buffers x := (b.buffers x).trans (a.buffers x)
  links l := (a.links l).trans (b.links l)
  portA p := b.portA (a.portA p)
  portB p := b.portB (a.portB p)

/-- Only fields that no law looks at change: the time base, the running sets, the light converter and the curves. -/
theorem of_unwatched {h k : Hub} (captures : k.captures = h.captures) (slots : k.slots = h.slots)
    (plates : k.plates = h.plates) (screens : k.screens = h.screens) (buffers : k.buffers = h.buffers)
    (links : k.links = h.links) (portA : k.portA = h.portA) (portB : k.portB = h.portB) (dram : k.dram = h.dram) :
    Calm h k where
  dram := dram ▸ id
  slots := by simp only [slotLaws, fillingLaw, newestLaw, captures, slots, imp_self]
  slotReaders i j n := slots ▸ id
  plates := by simp only [plateLaw, plates, imp_self]
  copyReaders p c n := plates ▸ id
  screens n := screens ▸ .refl _
  buffers b := by rw [buffers]
  links l := links ▸ .refl _
  portA := portA ▸ id
  portB := portB ▸ id

theorem refl (h : Hub) : Calm h h := of_unwatched rfl rfl rfl rfl rfl rfl rfl rfl rfl

theorem of_eq {h k : Hub} (e : k = h) : Calm h k := e ▸ refl h

theorem ite {c : Prop} [Decidable c] {h a b : Hub} (ha : c → Calm h a) (hb : ¬c → Calm h b) :
    Calm h (if c then a else b) := by
  split
  · next yes => exact ha yes
  · next no => exact hb no

theorem foldl {α : Type} {f : Hub → α → Hub} (hf : ∀ h a, Calm h (f h a)) (l : List α) (h : Hub) :
    Calm h (l.foldl f h) := by
  induction l generalizing h with
  | nil => exact refl h
  | cons a l ih => exact (hf h a).trans (ih _)

/-! ### Updates of one element -/

/-- The screens change, each in what no law looks at. -/
theorem of_screens {h : Hub} {screens : Vector Screen 8} (calm : ∀ n : Fin 8, Screen.Calm h.screens[n] screens[n]) :
    Calm h { h with screens := screens } :=
  { refl h with screens := calm }

theorem modScreen (h : Hub) (n : Fin 8) {f : Screen → Screen} (hf : Screen.Calm h.screens[n] (f h.screens[n])) :
    Calm h (h.modScreen n f) :=
  of_screens (upd_all (fun m => Screen.Calm h.screens[m]) (fun _ => .refl _) fun _ => hf)

theorem modEngine (h : Hub) (n : Fin 8) {f : Engine → Engine}
    (hf : (f h.screens[n].engine).cycle = h.screens[n].engine.cycle) : Calm h (h.modEngine n f) :=
  modScreen h n ⟨rfl, rfl, hf, rfl, id⟩

theorem modLevel (h : Hub) (n : Fin 8) (f : Level → Level) : Calm h (h.modLevel n f) :=
  modScreen h n ⟨rfl, rfl, rfl, rfl, id⟩

/-- The links change, each keeping its own laws. -/
theorem of_links {h : Hub} {links : Vector Link 6} (calm : ∀ l : Fin 6, Link.Calm h.links[l] links[l]) :
    Calm h { h with links := links } :=
  { refl h with links := calm }

theorem modLink (h : Hub) (l : Fin 6) {f : Link → Link} (hf : Link.Calm h.links[l] (f h.links[l])) :
    Calm h (h.modLink l f) :=
  of_links (upd_all (fun m => Link.Calm h.links[m]) (fun _ => .refl _) fun _ => hf)

theorem modRow (h : Hub) (l : Fin 6) (a : Fin 2) {f : AddressRow → AddressRow}
    (assignment : ∀ r, (f r).assignment = r.assignment) (credit : ∀ r, (f r).credit = r.credit) :
    Calm h (h.modRow l a f) :=
  modLink h l (.row _ a assignment credit)

theorem modBuffer (h : Hub) (b : Fin 32) {f : Lend → Lend} (hf : ∀ x, (f x).load = x.load) : Calm h (h.modBuffer b f) :=
  { refl h with
    buffers := upd_all (fun c (x : Option Lend) => x.map Lend.load = h.buffers[c].map Lend.load) (fun _ => rfl) fun _ => by
      cases h.buffers[b] <;> simp [hf] }

/-- The ports change, each keeping its own bounds. -/
theorem modPort (h : Hub) (p : Port) {f : PortState → PortState} (hf : (h.port p).bounded → (f (h.port p)).bounded) :
    Calm h (h.modPort p f) :=
  match p with
  | .a => { refl h with portA := hf }
  | .b => { refl h with portB := hf }

theorem of_dram {h : Hub} {m : Memory} (wf : h.dram.wf = true → m.wf = true) : Calm h { h with dram := m } :=
  { refl h with dram := wf }

theorem handPacket (l : Fin 6) {k : Packet} (h : Hub) (roll : k.rollRow = none) (park : k ≠ .park) :
    Calm h (handPacket l k h) := modLink h l (.append _ roll park)

end Calm

end Sys2Proof.Machine

/-! O55 to O59, part 2: what an operation keeps of the laws. `Light` is for the laws of the memory, the slots, the
plates, the seize records, the pool and the queues, which every operation keeps piece by piece; `LawsKept` is for all
laws. -/

namespace Sys2Proof.Machine

/-! ### The laws that hold piece by piece -/

/-- An operation that keeps the laws of the memory, the slots, the plates, the seize records, the pool and the queues. -/
structure Light (h k : Hub) : Prop where
  dram : h.dram.wf = true → k.dram.wf = true
  slots : slotLaws h → slotLaws k
  plates : plateLaw h → plateLaw k
  seized : seizedOwnedByB h → seizedOwnedByB k
  pool : poolLaw h → poolLaw k
  portA : h.portA.bounded → k.portA.bounded
  portB : h.portB.bounded → k.portB.bounded

/-- R40: the pool law looks at the number of entries of each screen and at which slots are Unbound. -/
theorem poolLaw_of {h k : Hub} (length : ∀ n : Fin 8, k.screens[n].entries.length = h.screens[n].entries.length)
    (unbound : ∀ n : Fin 8, k.screens[n].state = .unbound → h.screens[n].state = .unbound) (law : poolLaw h) :
    poolLaw k := by
  obtain ⟨total, empty⟩ := law
  refine ⟨by simpa only [length] using total, fun n hn => ?_⟩
  rw [← List.length_eq_zero_iff, length, empty n (unbound n hn), List.length_nil]

namespace Light

theorem refl (h : Hub) : Light h h := ⟨id, id, id, id, id, id, id⟩

theorem trans {h k m : Hub} (a : Light h k) (b : Light k m) : Light h m where
  dram d := b.dram (a.dram d)
  slots s := b.slots (a.slots s)
  plates p := b.plates (a.plates p)
  seized s := b.seized (a.seized s)
  pool p := b.pool (a.pool p)
  portA p := b.portA (a.portA p)
  portB p := b.portB (a.portB p)

theorem foldl {α : Type} {f : Hub → α → Hub} (hf : ∀ h a, Light h (f h a)) (l : List α) (h : Hub) :
    Light h (l.foldl f h) := by
  induction l generalizing h with
  | nil => exact refl h
  | cons a l ih => exact (hf h a).trans (ih _)

/-- Only links, buffers, groups and what no law looks at change. -/
theorem of_rest {h k : Hub} (captures : k.captures = h.captures) (slots : k.slots = h.slots)
    (plates : k.plates = h.plates) (screens : k.screens = h.screens) (portA : k.portA = h.portA)
    (portB : k.portB = h.portB) (dram : k.dram = h.dram) : Light h k where
  dram := dram ▸ id
  slots := by simp only [slotLaws, fillingLaw, newestLaw, captures, slots, imp_self]
  plates := by simp only [plateLaw, plates, imp_self]
  seized := by simp only [seizedOwnedByB, screens, imp_self]
  pool := poolLaw_of (fun _ => by rw [screens]) fun _ => by rw [screens]; exact id
  portA := portA ▸ id
  portB := portB ▸ id

theorem of_eq {h k : Hub} (e : k = h) : Light h k := e ▸ refl h

/-- The screens change: no seize record appears with another owner, no entry appears, no slot becomes Unbound. -/
theorem of_screens {h : Hub} {screens : Vector Screen 8}
    (seized : ∀ n : Fin 8, h.screens[n].seizedByB → screens[n].seizedByB)
    (length : ∀ n : Fin 8, screens[n].entries.length = h.screens[n].entries.length)
    (unbound : ∀ n : Fin 8, screens[n].state = .unbound → h.screens[n].state = .unbound) :
    Light h { h with screens := screens } :=
  { refl h with
    seized := fun law n => seized n (law n)
    pool := poolLaw_of length unbound }

theorem modScreen (h : Hub) (n : Fin 8) {f : Screen → Screen} (seized : ∀ x, x.seizedByB → (f x).seizedByB)
    (length : ∀ x, (f x).entries.length = x.entries.length)
    (unbound : ∀ x, (f x).state = .unbound → x.state = .unbound) : Light h (h.modScreen n f) :=
  of_screens (upd_all (fun m (x : Screen) => h.screens[m].seizedByB → x.seizedByB) (fun _ => id) fun _ => seized _)
    (upd_all (fun m (x : Screen) => x.entries.length = h.screens[m].entries.length) (fun _ => rfl) fun _ => length _)
    (upd_all (fun m (x : Screen) => x.state = .unbound → h.screens[m].state = .unbound) (fun _ => id) fun _ => unbound _)

theorem modEngine (h : Hub) (n : Fin 8) (f : Engine → Engine) : Light h (h.modEngine n f) :=
  modScreen h n (fun _ => id) (fun _ => rfl) fun _ => id

theorem modEntries (n : Fin 8) (f : Entry → Entry) (h : Hub) : Light h (modEntries n f h) :=
  modScreen h n (fun _ => id) (fun _ => List.length_map _) fun _ => id

theorem modLink (h : Hub) (l : Fin 6) (f : Link → Link) : Light h (h.modLink l f) :=
  of_rest rfl rfl rfl rfl rfl rfl rfl

end Light

theorem Calm.light {h k : Hub} (c : Calm h k) : Light h k where
  dram := c.dram
  slots := c.slots
  plates := c.plates
  seized law n := (c.screens n).seized (law n)
  pool := poolLaw_of (fun n => (c.screens n).length) fun n => (c.screens n).state ▸ id
  portA := c.portA
  portB := c.portB

/-! ### Joining and leaving the sources -/

theorem Slot.leave_state (n : Fin 8) (s : Slot) :
    (s.leave n).state = s.state ∨ s.state = .held ∧ s.leave n = Slot.free := by
  unfold Slot.leave
  split
  · dsimp only
    split
    · next held => exact .inr ⟨held.1, rfl⟩
    · exact .inl rfl
  · exact .inl rfl

theorem PlateCopy.leave_state (n : Fin 8) (c : PlateCopy) :
    (c.leave n).state = c.state ∨ c.state = .retired ∧ c.leave n = PlateCopy.empty := by
  unfold PlateCopy.leave
  split
  · dsimp only
    split
    · next retired => exact .inr ⟨retired.1, rfl⟩
    · exact .inl rfl
  · exact .inl rfl

theorem ScreenSet.empty_get (n : Fin 8) : ScreenSet.empty[n] = false := by simp [ScreenSet.empty]

/-- R24: a screen that leaves a slot reads it no more, and no other screen begins to. -/
theorem Slot.leave_readers (n m : Fin 8) (s : Slot) :
    (s.leave n).readers[m] = true → m ≠ n ∧ s.readers[m] = true := by
  unfold Slot.leave
  split
  · dsimp only
    split
    · simp [Slot.free, ScreenSet.empty]
    · rcases eq_or_ne n m with rfl | ne
      · simp
      · intro r
        have other : (s.readers.set n false)[m] = s.readers[m] :=
          Vector.getElem_set_ne _ _ (fun e => ne (Fin.ext e))
        exact ⟨ne.symm, other ▸ r⟩
  · next out =>
    intro r
    exact ⟨fun e => out (e ▸ r), r⟩

theorem PlateCopy.leave_readers (n m : Fin 8) (c : PlateCopy) :
    (c.leave n).readers[m] = true → m ≠ n ∧ c.readers[m] = true := by
  unfold PlateCopy.leave
  split
  · dsimp only
    split
    · simp [PlateCopy.empty, ScreenSet.empty]
    · rcases eq_or_ne n m with rfl | ne
      · simp
      · intro r
        have other : (c.readers.set n false)[m] = c.readers[m] :=
          Vector.getElem_set_ne _ _ (fun e => ne (Fin.ext e))
        exact ⟨ne.symm, other ▸ r⟩
  · next out =>
    intro r
    exact ⟨fun e => out (e ▸ r), r⟩

theorem leaveSources_slot (n : Fin 8) (h : Hub) (i : Fin 2) (j : Fin 3) :
    (leaveSources n h).slots[i][j] = (h.slots[i][j]).leave n := by
  simp [leaveSources]

theorem leaveSources_plate (n : Fin 8) (h : Hub) (p : Fin 16) :
    (leaveSources n h).plates[p] = { h.plates[p] with copies := h.plates[p].copies.map (PlateCopy.leave n) } := by
  simp [leaveSources]

theorem leaveSources_copy (n : Fin 8) (h : Hub) (p : Fin 16) (c : Fin 2) :
    (leaveSources n h).plates[p].copies[c] = (h.plates[p].copies[c]).leave n := by
  simp [leaveSources]

/-- A screen reads no slot and no copy. -/
def Unread (h : Hub) (n : Fin 8) : Prop :=
  (∀ (i : Fin 2) (j : Fin 3), h.slots[i][j].readers[n] = false) ∧
    ∀ (p : Fin 16) (c : Fin 2), h.plates[p].copies[c].readers[n] = false

/-- No screen begins to read a slot or a copy. -/
structure FewerReaders (h k : Hub) : Prop where
  slot : ∀ (i : Fin 2) (j : Fin 3) (n : Fin 8), k.slots[i][j].readers[n] = true → h.slots[i][j].readers[n] = true
  copy : ∀ (p : Fin 16) (c : Fin 2) (n : Fin 8),
    k.plates[p].copies[c].readers[n] = true → h.plates[p].copies[c].readers[n] = true

namespace FewerReaders

theorem refl (h : Hub) : FewerReaders h h := ⟨fun _ _ _ => id, fun _ _ _ => id⟩

theorem trans {h k m : Hub} (a : FewerReaders h k) (b : FewerReaders k m) : FewerReaders h m :=
  ⟨fun i j n r => a.slot i j n (b.slot i j n r), fun p c n r => a.copy p c n (b.copy p c n r)⟩

theorem of_eq {h k : Hub} (slots : k.slots = h.slots) (plates : k.plates = h.plates) : FewerReaders h k :=
  ⟨fun _ _ _ => slots ▸ id, fun _ _ _ => plates ▸ id⟩

theorem foldl {α : Type} {f : Hub → α → Hub} (hf : ∀ h a, FewerReaders h (f h a)) (l : List α) (h : Hub) :
    FewerReaders h (l.foldl f h) := by
  induction l generalizing h with
  | nil => exact refl h
  | cons a l ih => exact (hf h a).trans (ih _)

theorem leaveSources (n : Fin 8) (h : Hub) : FewerReaders h (leaveSources n h) where
  slot i j m r := ((h.slots[i][j]).leave_readers n m (leaveSources_slot n h i j ▸ r)).2
  copy p c m r := ((h.plates[p].copies[c]).leave_readers n m (leaveSources_copy n h p c ▸ r)).2

theorem unread {h k : Hub} (a : FewerReaders h k) {n : Fin 8} (u : Unread h n) : Unread k n := by
  obtain ⟨slots, copies⟩ := u
  exact ⟨fun i j => Bool.eq_false_iff.2 fun r => Bool.eq_false_iff.1 (slots i j) (a.slot i j n r),
    fun p c => Bool.eq_false_iff.2 fun r => Bool.eq_false_iff.1 (copies p c) (a.copy p c n r)⟩

end FewerReaders

theorem leaveSources_unread (n : Fin 8) (h : Hub) : Unread (leaveSources n h) n :=
  ⟨fun i j => Bool.eq_false_iff.2 fun r => ((h.slots[i][j]).leave_readers n n (leaveSources_slot n h i j ▸ r)).1 rfl,
    fun p c => Bool.eq_false_iff.2 fun r =>
      ((h.plates[p].copies[c]).leave_readers n n (leaveSources_copy n h p c ▸ r)).1 rfl⟩

theorem foldl_leaveSources_unread (ns : List (Fin 8)) (h : Hub) {n : Fin 8} (hn : n ∈ ns) :
    Unread (ns.foldl (fun h n => leaveSources n h) h) n := by
  induction ns generalizing h with
  | nil => cases hn
  | cons m ns ih =>
    rcases List.mem_cons.1 hn with rfl | rest
    · exact (FewerReaders.foldl (fun h m => .leaveSources m h) ns _).unread (leaveSources_unread n h)
    · exact ih _ rest

/-- A slot that is being filled has no reader, so leaving does not change it. -/
theorem Slot.leave_filling (n : Fin 8) {s : Slot} (empty : s.readers = ScreenSet.empty) : s.leave n = s := by
  simp [Slot.leave, empty, ScreenSet.empty]

theorem PlateCopy.leave_unread (n : Fin 8) {c : PlateCopy} (empty : c.readers = ScreenSet.empty) : c.leave n = c := by
  simp [PlateCopy.leave, empty, ScreenSet.empty]

theorem Slot.leave_state_iff (n : Fin 8) (s : Slot) {st : SlotState} (held : st ≠ .held) (free : st ≠ .free) :
    (s.leave n).state = st ↔ s.state = st := by
  rcases s.leave_state n with same | ⟨was, now⟩
  · rw [same]
  · rw [now, was]
    exact ⟨fun e => absurd e.symm free, fun e => absurd e.symm held⟩

theorem leaveSources_light (n : Fin 8) (h : Hub) : Light h (leaveSources n h) := by
  have screens := Light.modEngine h n fun e =>
    { e with joinedSurfaces := Vector.replicate 2 false, joinedPlates := Vector.replicate 16 false }
  refine ⟨id, fun ⟨filling, newest⟩ => ⟨fun i => ?_, fun i j k hj hk => ?_⟩, fun law p c x hx => ?_, screens.seized,
    screens.pool, id, id⟩
  · obtain ⟨slot, readers, capture⟩ := filling i
    have state (k : Fin 3) : (leaveSources n h).slots[i][k].state = .filling ↔ h.slots[i][k].state = .filling := by
      rw [leaveSources_slot, Slot.leave_state_iff n _ (st := .filling) nofun nofun]
    refine ⟨fun k => (state k).trans (slot k), fun k hk => ?_, capture⟩
    have empty := readers k ((state k).1 hk)
    rw [leaveSources_slot, Slot.leave_filling n empty, empty]
  · rw [leaveSources_slot, Slot.leave_state_iff n _ (st := .newest) nofun nofun] at hj hk
    exact newest i j k hj hk
  · obtain ⟨loading, readers, live⟩ := law p c _ rfl
    have liveKept : (leaveSources n h).plates[p].live = h.plates[p].live := by rw [leaveSources_plate]
    rw [leaveSources_copy] at hx
    rw [liveKept, hx]
    rcases (h.plates[p].copies[c]).leave_state n with same | ⟨was, now⟩
    · rw [same]
      refine ⟨loading, fun st => ?_, live⟩
      have empty := readers st
      rw [PlateCopy.leave_unread n empty, empty]
    · rw [now]
      refine ⟨fun st => ?_, fun _ => rfl, fun st => ?_⟩
      · simp [PlateCopy.empty] at st
      · rw [live st] at was
        cases was

theorem joinSources_light (n : Fin 8) (h : Hub) : Light h (joinSources n h) := by
  have kept := joinSources_joined n h
  obtain ⟨e, screen, -⟩ := kept.screen
  obtain ⟨slotAt, plateAt, copyAt, -⟩ := joinSources_readers n h _ rfl
  have captures : (joinSources n h).captures = h.captures := kept.captures
  have state (i : Fin 2) (j : Fin 3) : (joinSources n h).slots[i][j].state = h.slots[i][j].state := by
    rw [slotAt]
    split <;> rfl
  have screenAt (m : Fin 8) : ∃ e, (joinSources n h).screens[m] = { h.screens[m] with engine := e } := by
    rcases eq_or_ne m n with rfl | ne
    · exact ⟨e, screen⟩
    · exact ⟨h.screens[m].engine, kept.others m ne⟩
  refine ⟨kept.dram ▸ id, fun ⟨filling, newest⟩ => ⟨fun i => ?_, fun i j k hj hk => ?_⟩, fun law p c x hx => ?_,
    fun law m => ?_, poolLaw_of (fun m => ?_) fun m => ?_, kept.portA ▸ id, kept.portB ▸ id⟩
  · obtain ⟨slot, readers, capture⟩ := filling i
    simp only [state, captures]
    refine ⟨slot, fun k hk => ?_, capture⟩
    rw [slotAt, if_neg]
    · exact readers k hk
    · rintro ⟨-, new⟩
      rw [((newestSlot_first h i).1 k).1 new |>.1] at hk
      cases hk
  · rw [state] at hj hk
    exact newest i j k hj hk
  · obtain ⟨loading, readers, live⟩ := law p c _ rfl
    have liveKept : (joinSources n h).plates[p].live = h.plates[p].live := by rw [plateAt]
    rw [copyAt] at hx
    rw [liveKept, hx]
    split
    · next joins =>
      refine ⟨loading, fun st => ?_, live⟩
      have isLive : (h.plates[p].copies[c]).state = .live := live joins.2
      rcases st with st | st | st <;> cases isLive.symm.trans st
    · exact ⟨loading, readers, live⟩
  · obtain ⟨e, eq⟩ := screenAt m
    rw [eq]
    exact law m
  · obtain ⟨e, eq⟩ := screenAt m
    rw [eq]
  · obtain ⟨e, eq⟩ := screenAt m
    rw [eq]
    exact id

end Sys2Proof.Machine

/-! O55 to O59, part 3: the laws of readers and of delivery, and the operations that take screens out of service. -/

namespace Sys2Proof.Machine

/-- An operation that keeps every law. -/
structure LawsKept (h k : Hub) : Prop extends Light h k where
  readers : readerLaws h → readerLaws k
  delivery : deliveryLaws h → deliveryLaws k

namespace LawsKept

theorem refl (h : Hub) : LawsKept h h := ⟨.refl h, id, id⟩

theorem trans {h k m : Hub} (a : LawsKept h k) (b : LawsKept k m) : LawsKept h m :=
  ⟨a.toLight.trans b.toLight, fun r => b.readers (a.readers r), fun d => b.delivery (a.delivery d)⟩

theorem of_eq {h k : Hub} (e : k = h) : LawsKept h k := e ▸ refl h

theorem ite {c : Prop} [Decidable c] {h a b : Hub} (ha : c → LawsKept h a) (hb : ¬c → LawsKept h b) :
    LawsKept h (if c then a else b) := by
  split
  · next yes => exact ha yes
  · next no => exact hb no

theorem foldl {α : Type} {f : Hub → α → Hub} (hf : ∀ h a, LawsKept h (f h a)) (l : List α) (h : Hub) :
    LawsKept h (l.foldl f h) := by
  induction l generalizing h with
  | nil => exact refl h
  | cons a l ih => exact (hf h a).trans (ih _)

end LawsKept

/-! ### The laws of readers -/

/-- R71: the law of readers, at one screen. -/
def Reads (h : Hub) (n : Fin 8) : Prop :=
  (∀ (i : Fin 2) (j k : Fin 3), h.slots[i][j].readers[n] = true → h.slots[i][k].readers[n] = true → j = k) ∧
  (∀ (p : Fin 16) (c d : Fin 2), h.plates[p].copies[c].readers[n] = true → h.plates[p].copies[d].readers[n] = true →
    c = d) ∧
  (∀ (i : Fin 2) (j : Fin 3), h.slots[i][j].readers[n] = true → h.screens[n].engine.cycle = some .gathering) ∧
  ∀ (p : Fin 16) (c : Fin 2), h.plates[p].copies[c].readers[n] = true → h.screens[n].engine.cycle = some .gathering

theorem Reads.of_unread {h : Hub} {n : Fin 8} (u : Unread h n) : Reads h n := by
  obtain ⟨slots, copies⟩ := u
  refine ⟨fun i j k r => ?_, fun p c d r => ?_, fun i j r => ?_, fun p c r => ?_⟩
  · exact absurd (slots i j) (Bool.not_eq_false _ ▸ r)
  · exact absurd (copies p c) (Bool.not_eq_false _ ▸ r)
  · exact absurd (slots i j) (Bool.not_eq_false _ ▸ r)
  · exact absurd (copies p c) (Bool.not_eq_false _ ▸ r)

/-- A screen outside Gathering reads nothing. -/
theorem Reads.unread {h : Hub} {n : Fin 8} (r : Reads h n) (cycle : h.screens[n].engine.cycle ≠ some .gathering) :
    Unread h n := by
  obtain ⟨-, -, slots, copies⟩ := r
  exact ⟨fun i j => Bool.eq_false_iff.2 fun r => cycle (slots i j r),
    fun p c => Bool.eq_false_iff.2 fun r => cycle (copies p c r)⟩

/-- A screen that is not Joined reads nothing. -/
theorem unread_of_out {h : Hub} (cycles : cycleLaw h) (law : readerLaw h) {n : Fin 8}
    (out : h.screens[n].state ≠ .joined) : Unread h n :=
  Reads.unread (law n) fun c => out ((cycles n).1 (by rw [c]; rfl))

theorem Reads.fewer {h k : Hub} {n : Fin 8} (r : Reads h n)
    (cycle : k.screens[n].engine.cycle = h.screens[n].engine.cycle)
    (slot : ∀ (i : Fin 2) (j : Fin 3), k.slots[i][j].readers[n] = true → h.slots[i][j].readers[n] = true)
    (copy : ∀ (p : Fin 16) (c : Fin 2),
      k.plates[p].copies[c].readers[n] = true → h.plates[p].copies[c].readers[n] = true) : Reads k n := by
  obtain ⟨slots, copies, gathersSlot, gathersCopy⟩ := r
  exact ⟨fun i j m a b => slots i j m (slot i j a) (slot i m b),
    fun p c d a b => copies p c d (copy p c a) (copy p d b),
    fun i j a => cycle.trans (gathersSlot i j (slot i j a)),
    fun p c a => cycle.trans (gathersCopy p c (copy p c a))⟩

/-! ### The laws of delivery -/

theorem carries_of_load {h k : Hub} {b : Fin 32} (e : k.buffers[b].map Lend.load = h.buffers[b].map Lend.load)
    {n : Fin 8} {t : Nat} (c : carries h b n t) : carries k b n t := by
  obtain ⟨x, hx, voided, screen, tile⟩ := c
  rw [hx, Option.map_some, Option.map_eq_some_iff] at e
  obtain ⟨y, hy, load⟩ := e
  simp only [Lend.load, Prod.mk.injEq] at load
  obtain ⟨voidedEq, -, -, screenEq, tileEq⟩ := load
  exact ⟨y, hy, voidedEq.trans voided, screenEq.trans screen, tileEq.trans tile⟩

theorem carries_iff_of_load {h k : Hub} (e : ∀ b : Fin 32, k.buffers[b].map Lend.load = h.buffers[b].map Lend.load)
    (b : Fin 32) (n : Fin 8) (t : Nat) : carries k b n t ↔ carries h b n t :=
  ⟨carries_of_load (e b).symm, carries_of_load (e b)⟩

/-- An entry that is Sending belongs to a Joined screen. -/
theorem joined_of_sending {h : Hub} (cycles : cycleLaw h) (shows : showLaw h) {n : Fin 8} {t : Nat}
    (sending : (h.screens[n].entries[t]?).map (·.state) = some .sending) : h.screens[n].state = .joined := by
  rw [Option.map_eq_some_iff] at sending
  obtain ⟨e, he, st⟩ := sending
  have running := shows n e (List.mem_of_getElem? he) (.inr st)
  refine (cycles n).1 ?_
  rcases running with c | c <;> rw [c] <;> rfl

theorem not_sending_of_quiet {x : Screen} (quiet : ∀ e ∈ x.entries, ¬(e.state = .behind ∨ e.state = .sending)) (t : Nat) :
    (x.entries[t]?).map (·.state) ≠ some .sending := by
  rw [ne_eq, Option.map_eq_some_iff]
  rintro ⟨e, he, st⟩
  exact quiet e (List.mem_of_getElem? he) (.inr st)

/-- Equal lists of entry states give equal states entry by entry. -/
theorem stateAt_of_map {x y : Screen} (e : y.entries.map (·.state) = x.entries.map (·.state)) (t : Nat) :
    (y.entries[t]?).map (·.state) = (x.entries[t]?).map (·.state) := by
  rw [← List.getElem?_map, e, List.getElem?_map]

theorem running_entries_of_map {x y : Screen} (e : y.entries.map (·.state) = x.entries.map (·.state)) {q : EntryState → Prop}
    (law : ∀ e ∈ x.entries, q e.state) : ∀ e ∈ y.entries, q e.state := by
  intro v hv
  have mem : v.state ∈ x.entries.map (·.state) := e ▸ List.mem_map_of_mem hv
  obtain ⟨w, hw, same⟩ := List.mem_map.1 mem
  exact same ▸ law w hw

theorem filter_length_le {α : Type} {p q : α → Bool} (l : List α) (sub : ∀ a ∈ l, p a = true → q a = true) :
    (l.filter p).length ≤ (l.filter q).length := by
  rw [← List.countP_eq_length_filter, ← List.countP_eq_length_filter]
  exact List.countP_mono_left sub

/-- The unvoided buffers of a screen, counted, do not rise when no buffer begins to carry one of its entries. -/
theorem unvoided_le {h k : Hub} {n : Fin 8} (sub : ∀ b t, carries k b n t → carries h b n t) :
    unvoided k n ≤ unvoided h n := by
  refine filter_length_le _ fun b _ hb => ?_
  rcases hk : k.buffers[b] with _ | x
  · simp [hk] at hb
  · simp only [hk, Bool.and_eq_true, Bool.not_eq_true', beq_iff_eq] at hb
    obtain ⟨y, hy, voided, screen, -⟩ := sub b x.tile ⟨x, hk, hb.1, hb.2, rfl⟩
    simp [hy, voided, screen]

theorem unvoided_eq_zero {h : Hub} {n : Fin 8} (none : ∀ b t, ¬carries h b n t) : unvoided h n = 0 := by
  rw [unvoided, List.length_eq_zero_iff, List.filter_eq_nil_iff]
  intro b _ hb
  rcases hk : h.buffers[b] with _ | x
  · simp [hk] at hb
  · simp only [hk, Bool.and_eq_true, Bool.not_eq_true', beq_iff_eq] at hb
    exact none b x.tile ⟨x, hk, hb.1, hb.2, rfl⟩

/-- R108: a screen that is Joined or Lost holds an address. -/
def Screen.homed (x : Screen) : Prop := x.state = .joined ∨ x.state = .lost

/-- R108: the law of addresses is kept when no address is given and the screens that lose theirs are at home no more. -/
theorem addressLaw_of {h k : Hub} (law : addressLaw h)
    (homes : ∀ n : Fin 8, k.screens[n].homed → h.screens[n].homed ∧ ∀ (l : Fin 6) (a : Fin 2),
      h.screens[n].link = some l → h.links[l].rows[a].assignment = .screen n → h.links[l].running →
        k.screens[n].link = some l ∧ k.links[l].rows[a].assignment = .screen n ∧ k.links[l].running)
    (rows : ∀ (l : Fin 6) (a : Fin 2) (n : Fin 8), k.links[l].rows[a].assignment = .screen n →
      h.links[l].rows[a].assignment = .screen n ∧ (h.screens[n].link = some l → k.screens[n].link = some l) ∧
        (h.screens[n].state ≠ .unbound → k.screens[n].state ≠ .unbound) ∧
        (k.links[l].running → h.links[l].running ∧ (h.screens[n].homed → k.screens[n].homed))) : addressLaw k := by
  obtain ⟨homed, assigned⟩ := law
  refine ⟨fun n hn => ?_, fun l a n hk => ?_⟩
  · obtain ⟨was, at'⟩ := homes n hn
    obtain ⟨l, a, link, row, running⟩ := homed n was
    exact ⟨l, a, at' l a link row running⟩
  · obtain ⟨row, link, bound, home⟩ := rows l a n hk
    obtain ⟨wasLinked, wasBound, single, wasHomed⟩ := assigned l a n row
    refine ⟨link wasLinked, bound wasBound, fun twice => single (rows l (other a) n twice).1, fun running => ?_⟩
    obtain ⟨wasRunning, stays⟩ := home running
    exact stays (wasHomed wasRunning)

/-! ### Screens taken out of service -/

/-- An operation after which the screens `ns` are not Joined, and which leaves the other screens in service: a screen
goes Lost, Missing or Unbound, a link falls, an address is given to a stranger. -/
structure Left (ns : List (Fin 8)) (h k : Hub) : Prop where
  light : Light h k
  others : ∀ m : Fin 8, m ∉ ns → Screen.Calm h.screens[m] k.screens[m]
  out : ∀ n ∈ ns, k.screens[n].state ≠ .joined
  stopped : cycleLaw h → ∀ n ∈ ns, k.screens[n].engine.cycle = none
  quiet : cycleLaw h → showLaw h → ∀ n ∈ ns, ∀ e ∈ k.screens[n].entries, ¬(e.state = .behind ∨ e.state = .sending)
  fewer : FewerReaders h k
  unread : cycleLaw h → readerLaw h → ∀ n ∈ ns, Unread k n
  lent : deliveryLaws h → ∀ (b : Fin 32) (x : Lend), k.buffers[b] = some x → x.voided = false →
    x.screen ∉ ns ∧ h.buffers[b].map Lend.load = some x.load
  kept : ∀ (b : Fin 32) (x : Lend), h.buffers[b] = some x → x.voided = false → x.screen ∉ ns →
    h.screens[x.screen].state = .joined → h.screens[x.screen].link = some x.link →
      k.buffers[b].map Lend.load = some x.load
  rows : deliveryLaws h → ∀ (l : Fin 6) (a : Fin 2) (n : Fin 8), h.links[l].rows[a].assignment = .screen n →
    h.screens[n].state = .joined → n ∉ ns → k.links[l].rows[a].assignment = .screen n
  credit : ∀ (l : Fin 6) (a : Fin 2) (n : Fin 8), k.links[l].rows[a].assignment = .screen n →
    h.links[l].rows[a].assignment = .screen n ∧ k.links[l].rows[a].credit = h.links[l].rows[a].credit
  address : deliveryLaws h → addressLaw k
  rolls : deliveryLaws h → ∀ l : Fin 6, k.links[l].rolls

namespace Left

variable {ns : List (Fin 8)} {h k : Hub}

theorem cycleLaw (a : Left ns h k) (law : cycleLaw h) : cycleLaw k := by
  intro n
  by_cases hn : n ∈ ns
  · rw [a.stopped law n hn]
    exact ⟨nofun, fun st => absurd st (a.out n hn)⟩
  · rw [(a.others n hn).cycle, (a.others n hn).state]
    exact law n

theorem readerLaws (a : Left ns h k) : readerLaws h → readerLaws k := by
  rintro ⟨plates, cycles, reads⟩
  refine ⟨a.light.plates plates, a.cycleLaw cycles, fun n => ?_⟩
  by_cases hn : n ∈ ns
  · exact Reads.of_unread (a.unread cycles reads n hn)
  · exact Reads.fewer (reads n) (a.others n hn).cycle (fun i j => a.fewer.slot i j n) fun p c => a.fewer.copy p c n

theorem showLaw (a : Left ns h k) (cycles : Machine.cycleLaw h) (law : showLaw h) : showLaw k := by
  intro n e he st
  by_cases hn : n ∈ ns
  · exact absurd st (a.quiet cycles law n hn e he)
  · have same := a.others n hn
    rw [same.cycle]
    exact running_entries_of_map same.entries
      (q := fun st => st = .behind ∨ st = .sending →
        h.screens[n].engine.cycle = some .gathering ∨ h.screens[n].engine.cycle = some .cutting)
      (law n) e he st

/-- What a buffer carries after the operation, it carried before. -/
theorem carried (a : Left ns h k) (law : deliveryLaws h) {b : Fin 32} {n : Fin 8} {t : Nat} (c : carries k b n t) :
    n ∉ ns ∧ carries h b n t := by
  obtain ⟨x, hx, voided, rfl, tile⟩ := c
  obtain ⟨stays, load⟩ := a.lent law b x hx voided
  refine ⟨stays, carries_of_load (h := k) ?_ ⟨x, hx, voided, rfl, tile⟩⟩
  rw [load, hx, Option.map_some]

/-- What a buffer carries for a screen that stays, it goes on carrying. -/
theorem carries (a : Left ns h k) (law : deliveryLaws h) {b : Fin 32} {n : Fin 8} {t : Nat} (stays : n ∉ ns)
    (c : carries h b n t) : carries k b n t := by
  obtain ⟨cycles, shows, ⟨sends, -, assigned⟩, -, ⟨-, linked⟩, -⟩ := law
  have joined := joined_of_sending cycles shows ((sends n t).2 ⟨b, c⟩)
  obtain ⟨x, hx, voided, rfl, tile⟩ := c
  obtain ⟨link, -⟩ := linked x.link x.row x.screen (assigned b x hx voided)
  refine carries_of_load ?_ ⟨x, hx, voided, rfl, tile⟩
  rw [a.kept b x hx voided stays joined link, hx, Option.map_some]

theorem sendingLaw (a : Left ns h k) (law : deliveryLaws h) : sendingLaw k := by
  obtain ⟨cycles, shows, ⟨sends, single, assigned⟩, -⟩ := id law
  refine ⟨fun n t => ?_, fun b c n t hb hc => single b c n t (a.carried law hb).2 (a.carried law hc).2,
    fun b x hx voided => ?_⟩
  · by_cases hn : n ∈ ns
    · refine ⟨fun st => absurd st (not_sending_of_quiet (a.quiet cycles shows n hn) t), ?_⟩
      rintro ⟨b, c⟩
      exact absurd hn (a.carried law c).1
    · rw [stateAt_of_map (a.others n hn).entries t, sends]
      exact ⟨fun ⟨b, c⟩ => ⟨b, a.carries law hn c⟩, fun ⟨b, c⟩ => ⟨b, (a.carried law c).2⟩⟩
  · obtain ⟨stays, was⟩ := a.carried law ⟨x, hx, voided, rfl, rfl⟩
    have joined := joined_of_sending cycles shows ((sends x.screen x.tile).2 ⟨b, was⟩)
    have load := (a.lent law b x hx voided).2
    rw [Option.map_eq_some_iff] at load
    obtain ⟨y, hy, same⟩ := load
    simp only [Lend.load, Prod.mk.injEq] at same
    obtain ⟨voidedEq, link, row, screen, -⟩ := same
    have before := assigned b y hy (voidedEq.trans voided)
    rw [screen] at before
    have after := a.rows law y.link y.row x.screen before joined stays
    simpa only [link, row] using after

theorem creditLaw (a : Left ns h k) (law : deliveryLaws h) : creditLaw k := by
  intro n l r joined row
  have stays : n ∉ ns := fun hn => a.out n hn joined
  obtain ⟨was, same⟩ := a.credit l r n row
  obtain ⟨-, -, -, credit, -⟩ := id law
  obtain ⟨c, hc, enough⟩ := credit n l r ((a.others n stays).state ▸ joined) was
  exact ⟨c, same.trans hc, (unvoided_le fun b t carried => (a.carried law carried).2).trans enough⟩

theorem lawsKept (a : Left ns h k) : LawsKept h k :=
  { a.light with
    readers := a.readerLaws
    delivery := fun law =>
      ⟨a.cycleLaw law.1, a.showLaw law.1 law.2.1, a.sendingLaw law, a.creditLaw law, a.address law,
        (rollLaw_iff k).2 (a.rolls law)⟩ }

end Left

theorem deliveryLaws.cycles {h : Hub} (law : deliveryLaws h) : cycleLaw h := law.1

theorem deliveryLaws.addresses {h : Hub} (law : deliveryLaws h) : addressLaw h := by
  obtain ⟨-, -, -, -, address, -⟩ := law
  exact address

theorem deliveryLaws.rolls {h : Hub} (law : deliveryLaws h) (l : Fin 6) : h.links[l].rolls := by
  obtain ⟨-, -, -, -, -, rolls⟩ := law
  exact (rollLaw_iff h).1 rolls l

/-- Nothing leaves service in an operation that keeps every law block by block. -/
theorem Calm.left {h k : Hub} (c : Calm h k) : Left [] h k where
  light := c.light
  others m _ := c.screens m
  out := nofun
  stopped _ := nofun
  quiet _ _ := nofun
  fewer := ⟨c.slotReaders, c.copyReaders⟩
  unread _ _ := nofun
  lent _ b x hx _ := ⟨List.not_mem_nil, by rw [← c.buffers b, hx, Option.map_some]⟩
  kept b x hx _ _ _ _ := by rw [c.buffers b, hx, Option.map_some]
  rows _ l a n row _ _ := ((c.links l).assignment a).trans row
  credit l a n row := ⟨((c.links l).assignment a).symm.trans row, (c.links l).credit a⟩
  address law := by
    refine addressLaw_of law.addresses (fun n hn => ?_) fun l a n row => ?_
    · have same := c.screens n
      refine ⟨?_, fun l a link row running => ?_⟩
      · rwa [Screen.homed, same.state] at hn
      · exact ⟨same.link.trans link, ((c.links l).assignment a).trans row, (c.links l).running.2 running⟩
    · have same := c.screens n
      rw [same.link, same.state, Screen.homed, Screen.homed, same.state]
      exact ⟨((c.links l).assignment a).symm.trans row, id, id, fun r => ⟨(c.links l).running.1 r, id⟩⟩
  rolls law l := (c.links l).rolls (law.rolls l)

theorem Calm.lawsKept {h k : Hub} (c : Calm h k) : LawsKept h k := c.left.lawsKept

end Sys2Proof.Machine

/-! O55 to O59, part 4: the operations on the cycle and the entries of one screen. -/

namespace Sys2Proof.Machine

/-- An operation on the cycle and the entries of screen `n`, which stays in service: no entry begins or ceases to be
Sending. -/
structure Turned (n : Fin 8) (h k : Hub) : Prop where
  light : Light h k
  others : ∀ m : Fin 8, m ≠ n → Screen.Calm h.screens[m] k.screens[m]
  state : k.screens[n].state = h.screens[n].state
  link : k.screens[n].link = h.screens[n].link
  running : k.screens[n].engine.cycle.isSome ↔ h.screens[n].engine.cycle.isSome
  shows : showLaw h → ∀ e ∈ k.screens[n].entries, e.state = .behind ∨ e.state = .sending →
    k.screens[n].engine.cycle = some .gathering ∨ k.screens[n].engine.cycle = some .cutting
  sends : showLaw h → ∀ t : Nat, (k.screens[n].entries[t]?).map (·.state) = some .sending ↔
    (h.screens[n].entries[t]?).map (·.state) = some .sending
  slotReaders : ∀ (i : Fin 2) (j : Fin 3) (m : Fin 8), m ≠ n →
    k.slots[i][j].readers[m] = true → h.slots[i][j].readers[m] = true
  copyReaders : ∀ (p : Fin 16) (c : Fin 2) (m : Fin 8), m ≠ n →
    k.plates[p].copies[c].readers[m] = true → h.plates[p].copies[c].readers[m] = true
  reads : readerLaw h → Reads k n
  buffers : ∀ b : Fin 32, k.buffers[b].map Lend.load = h.buffers[b].map Lend.load
  links : ∀ l : Fin 6, Link.Calm h.links[l] k.links[l]

namespace Turned

variable {n : Fin 8} {h k : Hub}

theorem stateAt (a : Turned n h k) (m : Fin 8) :
    k.screens[m].state = h.screens[m].state ∧ k.screens[m].link = h.screens[m].link ∧
      (k.screens[m].engine.cycle.isSome ↔ h.screens[m].engine.cycle.isSome) := by
  rcases eq_or_ne m n with rfl | ne
  · exact ⟨a.state, a.link, a.running⟩
  · have same := a.others m ne
    exact ⟨same.state, same.link, by rw [same.cycle]⟩

theorem cycleLaw (a : Turned n h k) (law : cycleLaw h) : cycleLaw k := fun m => by
  obtain ⟨state, -, cycle⟩ := a.stateAt m
  rw [cycle, state]
  exact law m

theorem readerLaws (a : Turned n h k) : readerLaws h → readerLaws k := by
  rintro ⟨plates, cycles, reads⟩
  refine ⟨a.light.plates plates, a.cycleLaw cycles, fun m => ?_⟩
  rcases eq_or_ne m n with rfl | ne
  · exact a.reads reads
  · exact Reads.fewer (reads m) (a.others m ne).cycle (fun i j => a.slotReaders i j m ne) fun p c => a.copyReaders p c m ne

theorem showLaw (a : Turned n h k) (law : showLaw h) : showLaw k := by
  intro m
  rcases eq_or_ne m n with rfl | ne
  · exact a.shows law
  · have same := a.others m ne
    rw [same.cycle]
    exact running_entries_of_map same.entries
      (q := fun st => st = .behind ∨ st = .sending →
        h.screens[m].engine.cycle = some .gathering ∨ h.screens[m].engine.cycle = some .cutting) (law m)

theorem sends_iff (a : Turned n h k) (law : Machine.showLaw h) (m : Fin 8) (t : Nat) :
    (k.screens[m].entries[t]?).map (·.state) = some .sending ↔
      (h.screens[m].entries[t]?).map (·.state) = some .sending := by
  rcases eq_or_ne m n with rfl | ne
  · exact a.sends law t
  · rw [stateAt_of_map (a.others m ne).entries t]

theorem sendingLaw (a : Turned n h k) (shows : Machine.showLaw h) (law : sendingLaw h) : sendingLaw k := by
  obtain ⟨sends, single, assigned⟩ := law
  have carried := carries_iff_of_load a.buffers
  refine ⟨fun m t => ?_, fun b c m t hb hc => single b c m t ((carried b m t).1 hb) ((carried c m t).1 hc),
    fun b x hx voided => ?_⟩
  · rw [a.sends_iff shows m t, sends]
    exact exists_congr fun b => (carried b m t).symm
  · have load := a.buffers b
    rw [hx, Option.map_some, eq_comm, Option.map_eq_some_iff] at load
    obtain ⟨y, hy, same⟩ := load
    simp only [Lend.load, Prod.mk.injEq] at same
    obtain ⟨voidedEq, link, row, screen, -⟩ := same
    have after := ((a.links y.link).assignment y.row).trans (assigned b y hy (voidedEq.trans voided))
    simpa only [link, row, screen] using after

theorem creditLaw (a : Turned n h k) (law : creditLaw h) : creditLaw k := by
  intro m l r joined row
  rw [(a.links l).assignment r] at row
  obtain ⟨c, hc, enough⟩ := law m l r ((a.stateAt m).1 ▸ joined) row
  refine ⟨c, ((a.links l).credit r).trans hc, (unvoided_le fun b t => ?_).trans enough⟩
  exact (carries_iff_of_load a.buffers b m t).1

theorem addressLaw (a : Turned n h k) (law : addressLaw h) : addressLaw k := by
  refine addressLaw_of law (fun m hm => ?_) fun l r m row => ?_
  · obtain ⟨state, link, -⟩ := a.stateAt m
    rw [Screen.homed, state] at hm
    refine ⟨hm, fun l r linked row running => ?_⟩
    exact ⟨link.trans linked, ((a.links l).assignment r).trans row, (a.links l).running.2 running⟩
  · obtain ⟨state, link, -⟩ := a.stateAt m
    rw [(a.links l).assignment r] at row
    rw [link, Screen.homed, Screen.homed, state]
    exact ⟨row, id, id, fun r => ⟨(a.links l).running.1 r, id⟩⟩

theorem lawsKept (a : Turned n h k) : LawsKept h k :=
  { a.light with
    readers := a.readerLaws
    delivery := by
      rintro ⟨cycles, shows, sends, credit, address, rolls⟩
      exact ⟨a.cycleLaw cycles, a.showLaw shows, a.sendingLaw shows sends, a.creditLaw credit, a.addressLaw address,
        (rollLaw_iff k).2 fun l => (a.links l).rolls ((rollLaw_iff h).1 rolls l)⟩ }

end Turned

/-! ### The walk over the sources -/

theorem walkEntry_state (g : Target) (e : Entry) : (walkEntry g e).state = .held ∨ (walkEntry g e).state = .behind := by
  unfold walkEntry
  split
  · exact .inl rfl
  · exact .inr rfl

/-- R58, R67: the walk of screen `n` from `h` to `k`: it reads the Newest slots and the live copies it names, every
entry is Held or Behind, and its cycle is as it was. -/
structure Walked (n : Fin 8) (h k : Hub) : Prop where
  light : Light h k
  others : ∀ m : Fin 8, m ≠ n → k.screens[m] = h.screens[m]
  state : k.screens[n].state = h.screens[n].state
  link : k.screens[n].link = h.screens[n].link
  cycle : k.screens[n].engine.cycle = h.screens[n].engine.cycle
  entries : ∀ e ∈ k.screens[n].entries, e.state = .held ∨ e.state = .behind
  slotReaders : ∀ (i : Fin 2) (j : Fin 3) (m : Fin 8), k.slots[i][j].readers[m] = true →
    h.slots[i][j].readers[m] = true ∨ m = n ∧ newestSlot h i = some j
  copyReaders : ∀ (p : Fin 16) (c : Fin 2) (m : Fin 8), k.plates[p].copies[c].readers[m] = true →
    h.plates[p].copies[c].readers[m] = true ∨ m = n ∧ h.plates[p].live = some c
  buffers : k.buffers = h.buffers
  links : k.links = h.links
  portA : k.portA = h.portA
  portB : k.portB = h.portB

theorem set_true_get {s : ScreenSet} {n m : Fin 8} (r : (s.set n true)[m] = true) : s[m] = true ∨ m = n := by
  rcases eq_or_ne n m with rfl | ne
  · exact .inr rfl
  · have other : (s.set n true)[m] = s[m] := Vector.getElem_set_ne _ _ (fun e => ne (Fin.ext e))
    exact .inl (other ▸ r)

theorem joinSources_slotReaders (n : Fin 8) (h : Hub) (i : Fin 2) (j : Fin 3) (m : Fin 8)
    (r : (joinSources n h).slots[i][j].readers[m] = true) :
    h.slots[i][j].readers[m] = true ∨ m = n ∧ newestSlot h i = some j := by
  rw [(joinSources_readers n h _ rfl).1 i j] at r
  split at r
  · next joins => exact (set_true_get r).imp_right fun e => ⟨e, joins.2⟩
  · exact .inl r

theorem joinSources_copyReaders (n : Fin 8) (h : Hub) (p : Fin 16) (c : Fin 2) (m : Fin 8)
    (r : (joinSources n h).plates[p].copies[c].readers[m] = true) :
    h.plates[p].copies[c].readers[m] = true ∨ m = n ∧ h.plates[p].live = some c := by
  obtain ⟨-, -, copyAt, -⟩ := joinSources_readers n h _ rfl
  rw [copyAt p c] at r
  split at r
  · next joins => exact (set_true_get r).imp_right fun e => ⟨e, joins.2⟩
  · exact .inl r

theorem setTargets_light (n : Fin 8) (h : Hub) : Light h (setTargets n h) :=
  Light.modScreen h n (fun _ => id) (fun _ => List.length_mapIdx) fun _ => id

theorem recordSources_light (n : Fin 8) (h : Hub) : Light h (recordSources n h) :=
  Light.modScreen h n (fun _ => id) (fun _ => rfl) fun _ => id

/-- R67: the joins, the targets and the record of the sources, together, are a walk. -/
theorem walk_walked (n : Fin 8) (h : Hub) : Walked n h (recordSources n (setTargets n (joinSources n h))) := by
  have kept := joinSources_joined n h
  obtain ⟨e, screen, cycle, -⟩ := kept.screen
  refine ⟨((joinSources_light n h).trans (setTargets_light n _)).trans (recordSources_light n _), fun m ne => ?_, ?_, ?_,
    ?_, fun e he => ?_, joinSources_slotReaders n h, joinSources_copyReaders n h, kept.buffers, kept.links,
    kept.portA, kept.portB⟩
  · simp only [recordSources, setTargets, Hub.modScreen_screens, upd_get_other _ _ ne.symm, kept.others m ne]
  · simp only [recordSources, setTargets, Hub.modScreen_screens, upd_get_same, screen]
  · simp only [recordSources, setTargets, Hub.modScreen_screens, upd_get_same, screen]
  · simp only [recordSources, setTargets, Hub.modScreen_screens, upd_get_same, screen, cycle]
  · simp only [recordSources, setTargets, Hub.modScreen_screens, upd_get_same, List.mem_mapIdx] at he
    obtain ⟨t, ht, rfl⟩ := he
    exact walkEntry_state _ _

namespace Walked

variable {n : Fin 8} {h k : Hub}

/-- What is not of the sources, the cycle and the entries may be set before the walk. -/
theorem after (w : Walked n h k) {g : Hub} {f : Screen → Screen} (hg : h = g.modScreen n f)
    (seized : ∀ x, x.seizedByB → (f x).seizedByB) (length : ∀ x, (f x).entries.length = x.entries.length)
    (state : ∀ x, (f x).state = x.state) (link : ∀ x, (f x).link = x.link)
    (cycle : ∀ x, (f x).engine.cycle = x.engine.cycle) : Walked n g k := by
  subst hg
  refine { w with
    light := (Light.modScreen g n seized length fun x => state x ▸ id).trans w.light
    others := fun m ne => (w.others m ne).trans (by rw [Hub.modScreen_screens, upd_get_other _ _ ne.symm])
    state := w.state.trans (by rw [Hub.modScreen_screens, upd_get_same, state])
    link := w.link.trans (by rw [Hub.modScreen_screens, upd_get_same, link])
    cycle := w.cycle.trans (by rw [Hub.modScreen_screens, upd_get_same, cycle]) }

/-- The engine may be set after the walk. -/
theorem modEngine (w : Walked n h k) {f : Engine → Engine} (cycle : ∀ e, (f e).cycle = e.cycle) :
    Walked n h (k.modEngine n f) where
  light := w.light.trans (Light.modEngine k n f)
  others m ne := by rw [Hub.modEngine_screens, upd_get_other _ _ ne.symm, w.others m ne]
  state := by rw [Hub.modEngine_screens, upd_get_same, w.state]
  link := by rw [Hub.modEngine_screens, upd_get_same, w.link]
  cycle := by rw [Hub.modEngine_screens, upd_get_same, cycle, w.cycle]
  entries := by
    rw [Hub.modEngine_screens, upd_get_same]
    exact w.entries
  slotReaders := w.slotReaders
  copyReaders := w.copyReaders
  buffers := w.buffers
  links := w.links
  portA := w.portA
  portB := w.portB

/-- Nothing is Sending before a walk that does not cut short a delivery. -/
theorem nothing_sending (idle : h.screens[n].engine.cycle ≠ some .gathering)
    (cutting : h.screens[n].engine.cycle = some .cutting → ∀ e ∈ h.screens[n].entries, e.state ≠ .sending)
    (law : showLaw h) (t : Nat) : (h.screens[n].entries[t]?).map (·.state) ≠ some .sending := by
  rw [ne_eq, Option.map_eq_some_iff]
  rintro ⟨e, he, st⟩
  have mem := List.mem_of_getElem? he
  rcases law n e mem (.inr st) with c | c
  · exact idle c
  · exact cutting c e mem st

theorem not_sending (w : Walked n h k) (t : Nat) : (k.screens[n].entries[t]?).map (·.state) ≠ some .sending := by
  rw [ne_eq, Option.map_eq_some_iff]
  rintro ⟨e, he, st⟩
  rcases w.entries e (List.mem_of_getElem? he) with held | behind
  · cases held.symm.trans st
  · cases behind.symm.trans st

/-- R67: after the walk the screen gathers. -/
theorem gathers (w : Walked n h k) (running : h.screens[n].engine.cycle.isSome)
    (idle : h.screens[n].engine.cycle ≠ some .gathering)
    (cutting : h.screens[n].engine.cycle = some .cutting → ∀ e ∈ h.screens[n].entries, e.state ≠ .sending) :
    Turned n h (setCycle n .gathering k) where
  light := w.light.trans (Light.modEngine k n _)
  others m ne := by
    rw [setCycle, Hub.modEngine_screens, upd_get_other _ _ ne.symm, w.others m ne]
    exact .refl _
  state := by rw [setCycle, Hub.modEngine_screens, upd_get_same, w.state]
  link := by rw [setCycle, Hub.modEngine_screens, upd_get_same, w.link]
  running := by
    rw [setCycle, Hub.modEngine_screens, upd_get_same]
    exact ⟨fun _ => running, fun _ => rfl⟩
  shows _ e _ _ := by
    rw [setCycle, Hub.modEngine_screens, upd_get_same]
    exact .inl rfl
  sends law t := by
    rw [setCycle, Hub.modEngine_screens, upd_get_same]
    exact iff_of_false (w.not_sending t) (nothing_sending idle cutting law t)
  slotReaders i j m ne r := (w.slotReaders i j m r).resolve_right fun joined => ne joined.1
  copyReaders p c m ne r := (w.copyReaders p c m r).resolve_right fun joined => ne joined.1
  reads law := by
    obtain ⟨slots, copies⟩ := Reads.unread (law n) idle
    have newest (i : Fin 2) (j : Fin 3) (r : k.slots[i][j].readers[n] = true) : newestSlot h i = some j := by
      have fresh := (w.slotReaders i j n r).resolve_left fun old => absurd (slots i j) (Bool.not_eq_false _ ▸ old)
      exact fresh.2
    have live (p : Fin 16) (c : Fin 2) (r : k.plates[p].copies[c].readers[n] = true) : h.plates[p].live = some c := by
      have fresh := (w.copyReaders p c n r).resolve_left fun old => absurd (copies p c) (Bool.not_eq_false _ ▸ old)
      exact fresh.2
    refine ⟨fun i j m a b => ?_, fun p c d a b => ?_, fun _ _ _ => ?_, fun _ _ _ => ?_⟩
    · exact Option.some_injective _ ((newest i j a).symm.trans (newest i m b))
    · exact Option.some_injective _ ((live p c a).symm.trans (live p d b))
    · rw [setCycle, Hub.modEngine_screens, upd_get_same]
    · rw [setCycle, Hub.modEngine_screens, upd_get_same]
  buffers b := by rw [setCycle, Hub.modEngine_buffers, w.buffers]
  links l := by
    rw [setCycle, Hub.modEngine_links, w.links]
    exact .refl _

end Walked

end Sys2Proof.Machine

/-! O55 to O59, part 5: the starts, the ends and the turns of a presentation cycle. -/

namespace Sys2Proof.Machine

/-- R24: the engine of a screen that has left its sources. -/
def Engine.left (e : Engine) : Engine :=
  { e with joinedSurfaces := Vector.replicate 2 false, joinedPlates := Vector.replicate 16 false }

theorem leaveSources_screens (n : Fin 8) (h : Hub) :
    (leaveSources n h).screens = upd h.screens n fun x => { x with engine := x.engine.left } := rfl

theorem hasEntry_eq_false {x : Screen} {st : EntryState} :
    hasEntry x st = false ↔ ∀ e ∈ x.entries, e.state ≠ st := by
  simp [hasEntry]

/-- An operation on screen `n` alone that leaves the sources: the cycle goes from one state to another, the entries stay
as they are. -/
theorem turned_of_leave {n : Fin 8} {h k : Hub} (light : Light h k) (others : ∀ m : Fin 8, m ≠ n → k.screens[m] = h.screens[m])
    (state : k.screens[n].state = h.screens[n].state) (link : k.screens[n].link = h.screens[n].link)
    (running : h.screens[n].engine.cycle.isSome) (runs : k.screens[n].engine.cycle.isSome)
    (entries : k.screens[n].entries.map (·.state) = h.screens[n].entries.map (·.state))
    (shows : showLaw h → ∀ e ∈ h.screens[n].entries, e.state = .behind ∨ e.state = .sending →
      k.screens[n].engine.cycle = some .gathering ∨ k.screens[n].engine.cycle = some .cutting)
    (fewer : FewerReaders h k) (unread : readerLaw h → Unread k n) (buffers : k.buffers = h.buffers)
    (links : ∀ l : Fin 6, Link.Calm h.links[l] k.links[l]) : Turned n h k where
  light := light
  others m ne := others m ne ▸ .refl _
  state := state
  link := link
  running := ⟨fun _ => running, fun _ => runs⟩
  shows law := running_entries_of_map (x := h.screens[n]) entries
    (q := fun st => st = .behind ∨ st = .sending →
      k.screens[n].engine.cycle = some .gathering ∨ k.screens[n].engine.cycle = some .cutting) (shows law)
  sends _ t := by rw [stateAt_of_map entries t]
  slotReaders i j m _ := fewer.slot i j m
  copyReaders p c m _ := fewer.copy p c m
  reads law := Reads.of_unread (unread law)
  buffers b := by rw [buffers]
  links := links

/-- R67, R69: a walk that leaves nothing Behind ends the cycle at once. -/
theorem Walked.rests {n : Fin 8} {h k : Hub} (w : Walked n h k) (running : h.screens[n].engine.cycle.isSome)
    (idle : h.screens[n].engine.cycle ≠ some .gathering)
    (cutting : h.screens[n].engine.cycle = some .cutting → ∀ e ∈ h.screens[n].entries, e.state ≠ .sending)
    (complete : hasEntry k.screens[n] .behind = false) :
    Turned n h (setCycle n .idle (dropTargets n (leaveSources n k))) := by
  have screen : (setCycle n .idle (dropTargets n (leaveSources n k))).screens[n].entries =
      k.screens[n].entries.map fun e => { e with target := none } := by
    simp [setCycle, dropTargets, modEntries, leaveSources_screens]
  have fewer : FewerReaders k (setCycle n .idle (dropTargets n (leaveSources n k))) :=
    (FewerReaders.leaveSources n k).trans (.of_eq rfl rfl)
  have held (e : Entry) (he : e ∈ (setCycle n .idle (dropTargets n (leaveSources n k))).screens[n].entries) :
      e.state = .held := by
    rw [screen, List.mem_map] at he
    obtain ⟨v, hv, rfl⟩ := he
    exact (w.entries v hv).resolve_right (hasEntry_eq_false.1 complete v hv)
  refine
    { light := (w.light.trans (leaveSources_light n k)).trans ((Light.modEntries n _ _).trans (Light.modEngine _ n _))
      others := fun m ne => ?_
      state := ?_
      link := ?_
      running := ⟨fun _ => running, fun _ => ?_⟩
      shows := fun _ e he st => ?_
      sends := fun law t => iff_of_false ?_ (Walked.nothing_sending idle cutting law t)
      slotReaders := fun i j m ne r => (w.slotReaders i j m (fewer.slot i j m r)).resolve_right fun joined => ne joined.1
      copyReaders := fun p c m ne r => (w.copyReaders p c m (fewer.copy p c m r)).resolve_right fun joined => ne joined.1
      reads := fun _ => Reads.of_unread ((FewerReaders.of_eq rfl rfl).unread (leaveSources_unread n k))
      buffers := fun b => by rw [← w.buffers]; rfl
      links := fun l => by rw [← w.links]; exact .refl _ }
  · rw [← w.others m ne]
    simp only [setCycle, dropTargets, modEntries, leaveSources_screens, Hub.modEngine_screens, Hub.modScreen_screens,
      upd_get_other _ _ ne.symm]
    exact .refl _
  · rw [← w.state]
    simp [setCycle, dropTargets, modEntries, leaveSources_screens]
  · rw [← w.link]
    simp [setCycle, dropTargets, modEntries, leaveSources_screens]
  · simp [setCycle]
  · rcases st with st | st <;> cases (held e he).symm.trans st
  · rw [Option.map_eq_some_iff]
    rintro ⟨e, he, st⟩
    cases (held e (List.mem_of_getElem? he)).symm.trans st

/-- R67: what starts, and may be cut short without a loss. -/
structure MayStart (x : Screen) : Prop where
  running : x.engine.cycle.isSome
  idle : x.engine.cycle ≠ some .gathering
  cutting : x.engine.cycle = some .cutting → ∀ e ∈ x.entries, e.state ≠ .sending

theorem startCycle_walked (n : Fin 8) (h : Hub) : ∃ k, Walked n h k ∧
    startCycle n h =
      if hasEntry k.screens[n] .behind then setCycle n .gathering k
      else setCycle n .idle (dropTargets n (leaveSources n k)) := by
  refine ⟨(recordSources n (setTargets n (joinSources n (h.modScreen n Screen.handOver)))).modEngine n Engine.started,
    ?_, rfl⟩
  exact ((walk_walked n (h.modScreen n Screen.handOver)).after rfl (fun _ => id) (fun _ => rfl) (fun _ => rfl)
    (fun _ => rfl) fun _ => rfl).modEngine fun _ => rfl

theorem startCycle_turned {n : Fin 8} {h : Hub} (may : MayStart h.screens[n]) : Turned n h (startCycle n h) := by
  obtain ⟨k, walked, eq⟩ := startCycle_walked n h
  rw [eq]
  split
  · exact walked.gathers may.running may.idle may.cutting
  · next complete =>
    exact walked.rests may.running may.idle may.cutting (Bool.not_eq_true _ ▸ complete)

theorem startCycle_lawsKept {n : Fin 8} {h : Hub} (may : MayStart h.screens[n]) : LawsKept h (startCycle n h) :=
  (startCycle_turned may).lawsKept

/-- R72: a screen starts where no cycle runs, and where one waits for its SHOW or its SHOWN. -/
theorem MayStart.of_cycle {x : Screen} {c : CycleState} (cycle : x.engine.cycle = some c) (gathering : c ≠ .gathering)
    (cutting : c ≠ .cutting) : MayStart x where
  running := by rw [cycle]; rfl
  idle := by
    rw [cycle]
    exact fun e => gathering (Option.some_injective _ e)
  cutting e := absurd (Option.some_injective _ (cycle.symm.trans e)) cutting

theorem endGathering_lawsKept (h : Hub) (n : Fin 8) : LawsKept h (endGathering h n) := by
  refine LawsKept.ite (fun may => Turned.lawsKept (n := n) ?_) fun _ => .refl h
  obtain ⟨cycle, quiet⟩ := (mayEndGathering_iff h n).1 may
  have screens : (setCycle n .ready (leaveSources n h)).screens =
      upd h.screens n fun x => { x with engine := { x.engine.left with cycle := some .ready } } := by
    rw [setCycle, Hub.modEngine_screens, leaveSources_screens, upd_upd]
  refine turned_of_leave ((leaveSources_light n h).trans (Light.modEngine _ n _))
    (fun m ne => by rw [screens, upd_get_other _ _ ne.symm]) (by rw [screens, upd_get_same])
    (by rw [screens, upd_get_same]) (by rw [cycle]; rfl) (by rw [screens, upd_get_same]; rfl)
    (by rw [screens, upd_get_same]) (fun _ e he st => ?_) ((FewerReaders.leaveSources n h).trans (.of_eq rfl rfl))
    (fun _ => (FewerReaders.of_eq rfl rfl).unread (leaveSources_unread n h)) rfl fun l => .refl _
  obtain ⟨behind, sending⟩ := quiet e he
  exact absurd st (not_or.2 ⟨behind, sending⟩)

theorem cut_lawsKept {n : Fin 8} {h : Hub} (cycle : h.screens[n].engine.cycle = some .gathering) :
    LawsKept h (cut n h) := by
  have screens : (cut n h).screens = upd h.screens n fun x =>
      { x with
        entries := x.entries.map fun e => { e with target := none }
        engine := { x.engine.left with cycle := some .cutting } } := by
    rw [cut, setCycle, Hub.modEngine_screens, dropTargets, modEntries, Hub.modScreen_screens, leaveSources_screens,
      upd_upd, upd_upd]
  refine Turned.lawsKept (n := n) (turned_of_leave
    ((leaveSources_light n h).trans ((Light.modEntries n (fun e => { e with target := none }) _).trans
      (Light.modEngine _ n fun e => { e with cycle := some .cutting })))
    (fun m ne => by rw [screens, upd_get_other _ _ ne.symm]) (by rw [screens, upd_get_same])
    (by rw [screens, upd_get_same]) (by rw [cycle]; rfl) (by rw [screens, upd_get_same]; rfl)
    (by rw [screens, upd_get_same]; simp) (fun _ e he st => ?_)
    ((FewerReaders.leaveSources n h).trans (.of_eq rfl rfl))
    (fun _ => (FewerReaders.of_eq rfl rfl).unread (leaveSources_unread n h)) rfl fun l => .refl _)
  rw [screens, upd_get_same]
  exact .inr rfl

/-- R73, R78: a screen whose cycle is neither Gathering nor Cutting turns to another such state. -/
theorem turn_lawsKept {n : Fin 8} {h : Hub} {c d : CycleState} {f : Engine → Engine}
    (cycle : h.screens[n].engine.cycle = some c) (gathering : c ≠ .gathering) (cutting : c ≠ .cutting)
    (turns : ∀ e, (f e).cycle = some d) : LawsKept h (h.modEngine n f) := by
  refine Turned.lawsKept (n := n) (turned_of_leave (Light.modEngine h n f)
    (fun m ne => by rw [Hub.modEngine_screens, upd_get_other _ _ ne.symm])
    (by rw [Hub.modEngine_screens, upd_get_same]) (by rw [Hub.modEngine_screens, upd_get_same])
    (by rw [cycle]; rfl) (by rw [Hub.modEngine_screens, upd_get_same, turns]; rfl)
    (by rw [Hub.modEngine_screens, upd_get_same]) (fun law e he st => ?_) (.of_eq rfl rfl) (fun law => ?_) rfl fun l => .refl _)
  · rcases law n e he st with was | was
    · exact absurd (Option.some_injective _ (cycle.symm.trans was)) gathering
    · exact absurd (Option.some_injective _ (cycle.symm.trans was)) cutting
  · refine (FewerReaders.of_eq rfl rfl).unread (Reads.unread (h := h) (law n) fun was => ?_)
    exact gathering (Option.some_injective _ (cycle.symm.trans was))

/-- R65: the entries of screen `n` change; none begins or ceases to be Sending, and none goes Behind outside Gathering
and Cutting. -/
theorem modEntries_lawsKept {n : Fin 8} {h : Hub} {f : Entry → Entry}
    (sends : showLaw h → ∀ e ∈ h.screens[n].entries, (f e).state = .sending ↔ e.state = .sending)
    (shows : showLaw h → ∀ e ∈ h.screens[n].entries, (f e).state = .behind ∨ (f e).state = .sending →
      h.screens[n].engine.cycle = some .gathering ∨ h.screens[n].engine.cycle = some .cutting) :
    LawsKept h (modEntries n f h) := by
  have screen : (modEntries n f h).screens[n] = { h.screens[n] with entries := h.screens[n].entries.map f } := by
    rw [modEntries, Hub.modScreen_screens, upd_get_same]
  refine Turned.lawsKept (n := n)
    { light := Light.modEntries n f h
      others := fun m ne => by rw [modEntries, Hub.modScreen_screens, upd_get_other _ _ ne.symm]; exact .refl _
      state := by rw [screen]
      link := by rw [screen]
      running := by rw [screen]
      shows := fun law e he st => ?_
      sends := fun law t => ?_
      slotReaders := fun _ _ _ _ => id
      copyReaders := fun _ _ _ _ => id
      reads := fun law => Reads.fewer (law n) (by rw [screen]) (fun _ _ => id) fun _ _ => id
      buffers := fun _ => rfl
      links := fun l => .refl _ }
  · rw [screen] at he ⊢
    obtain ⟨v, hv, rfl⟩ := List.mem_map.1 he
    exact shows law v hv st
  · simp only [screen, List.getElem?_map, Option.map_map]
    rcases ht : h.screens[n].entries[t]? with _ | e
    · simp
    · simpa using sends law e (List.mem_of_getElem? ht)

/-- R110: LOSS sends a Ready screen back to Gathering. -/
theorem regather_lawsKept {n : Fin 8} {h : Hub} {c : CycleState} (f : Entry → Entry)
    (cycle : h.screens[n].engine.cycle = some c) (gathering : c ≠ .gathering) (cutting : c ≠ .cutting) :
    LawsKept h (returnToGathering n (modEntries n f h)) := by
  have may := MayStart.of_cycle cycle gathering cutting
  exact (((walk_walked n (modEntries n f h)).after rfl (fun _ => id) (fun _ => List.length_map _) (fun _ => rfl)
    (fun _ => rfl) fun _ => rfl).gathers may.running may.idle may.cutting).lawsKept

theorem lossJoined_lawsKept (n : Fin 8) (h : Hub) : LawsKept h (lossJoined n h) := by
  have absent (c : CycleState) (cycle : h.screens[n].engine.cycle = some c) (gathering : c ≠ .gathering)
      (cutting : c ≠ .cutting) : LawsKept h (allAbsent n h) := by
    refine modEntries_lawsKept (fun law e he => iff_of_false nofun fun st => ?_) fun _ _ _ st => by
      rcases st with st | st <;> cases st
    rcases law n e he (.inr st) with was | was
    · exact gathering (Option.some_injective _ (cycle.symm.trans was))
    · exact cutting (Option.some_injective _ (cycle.symm.trans was))
  unfold lossJoined
  split
  · next cycle => exact absent _ cycle nofun nofun
  · next cycle =>
    refine modEntries_lawsKept (fun _ e _ => ?_) fun _ _ _ _ => .inl cycle
    unfold Entry.lossGathering
    split
    · rfl
    · next other => exact iff_of_false nofun other
  · next cycle =>
    refine modEntries_lawsKept (fun _ e _ => ?_) fun _ _ _ _ => .inr cycle
    unfold Entry.lossCutting
    split
    · rfl
    · next other => exact iff_of_false nofun other
  · next cycle => exact regather_lawsKept _ cycle nofun nofun
  · next cycle =>
    exact (absent _ cycle nofun nofun).trans (Calm.modEngine _ n rfl).lawsKept
  · exact .refl h

end Sys2Proof.Machine

/-! O55 to O59, part 6: notices, the abort of a screen, and the buffers. -/

namespace Sys2Proof.Machine

/-! ### Ports -/

/-- R165: a notice is offered within the capacity of the queue. -/
theorem PortState.offer_bounded (x : PortState) (k : NoticeKind) (body : List Byte) (b : x.bounded) :
    (x.offer k body).bounded := by
  obtain ⟨input, replies, notices, through⟩ := b
  unfold PortState.offer
  split
  · exact ⟨input, replies, notices, through⟩
  · split
    · exact ⟨input, replies, notices, through⟩
    · next room =>
      refine ⟨input, replies, ?_, through⟩
      rw [List.length_append, List.length_singleton]
      omega

theorem offer_calm (k : NoticeKind) (body : List Byte) (h : Hub) (p : Port) : Calm h (offer k body h p) :=
  Calm.modPort h p (PortState.offer_bounded _ k body)

theorem notify_calm (ports : List Port) (k : NoticeKind) (body : List Byte) (h : Hub) : Calm h (notify ports k body h) :=
  Calm.foldl (offer_calm k body) ports h

/-! ### The abort, at the link of the screen -/

theorem Packet.rollRow_disarm (n : Fin 8) (a : Fin 2) (k : Packet) : (k.disarm n a).rollRow = k.rollRow := by
  cases k <;> rfl

theorem Packet.disarm_eq_park {n : Fin 8} {a : Fin 2} {k : Packet} (e : k.disarm n a = .park) : k = .park := by
  cases k <;> simp_all [Packet.disarm]

theorem Packet.rollRow_of_removed {a : Fin 2} {k : Packet} (removed : k.removedAtAbort a = true) : k.rollRow = none := by
  cases k <;> simp_all [Packet.removedAtAbort, Packet.rollRow]

/-- R74: the packets of a screen that are removed offer no address. -/
theorem filterMap_rollRow_abort (n : Fin 8) (a : Fin 2) (control : List Packet) :
    ((control.filter fun p => !p.removedAtAbort a).map (Packet.disarm n a)).filterMap Packet.rollRow =
      control.filterMap Packet.rollRow := by
  rw [List.filterMap_map, List.filterMap_filter]
  refine List.filterMap_congr fun k _ => ?_
  rcases removed : k.removedAtAbort a with _ | _
  · simp [Packet.rollRow_disarm]
  · simp [Packet.rollRow_of_removed removed]

theorem livePacket_disarm (n : Fin 8) (a : Fin 2) {x y : Link}
    (line : y.line = x.line.map fun o => { o with packet := o.packet.disarm n a }) :
    livePacket y = (livePacket x).map (Packet.disarm n a) := by
  unfold livePacket
  rw [line]
  rcases x.line with _ | ⟨packet, _ | _⟩ <;> rfl

/-- R74: the abort of a screen keeps what its link offers, and no PARK appears. -/
theorem Link.Calm.abort (n : Fin 8) (a : Fin 2) (x : Link) :
    Link.Calm x
      { x with
        control := (x.control.filter fun p => !p.removedAtAbort a).map (Packet.disarm n a)
        line := x.line.map fun o => { o with packet := o.packet.disarm n a }
        rows := upd x.rows a fun r => { r with silence := none, pollWait := none, pollAwaited := false } } := by
  have kept := upd_all (v := x.rows) (i := a)
    (f := fun r => { r with silence := none, pollWait := none, pollAwaited := false })
    (fun b (r : AddressRow) => r.assignment = x.rows[b].assignment ∧ r.credit = x.rows[b].credit)
    (fun _ => ⟨rfl, rfl⟩) id
  refine .of_same (fun b => (kept b).1) (fun b => (kept b).2) rfl ?_ rfl rfl ?_
  · rw [Link.offers, Link.offers, Link.packets, Link.packets, List.filterMap_append, List.filterMap_append,
      filterMap_rollRow_abort, livePacket_disarm n a rfl]
    rcases livePacket x with _ | k
    · rfl
    · simp [List.filterMap_cons, Packet.rollRow_disarm]
  · rw [Link.packets, Link.packets, List.mem_append, List.mem_append, livePacket_disarm n a rfl]
    rintro (live | waiting)
    · rw [Option.mem_toList, Option.map_eq_some_iff] at live
      obtain ⟨k, hk, park⟩ := live
      exact .inl (Option.mem_toList.2 (Packet.disarm_eq_park park ▸ hk))
    · obtain ⟨k, hk, park⟩ := List.mem_map.1 waiting
      exact .inr (Packet.disarm_eq_park park ▸ (List.mem_filter.1 hk).1)

theorem abortAtLink_calm (n : Fin 8) (h : Hub) (l : Fin 6) : Link.Calm h.links[l] (abortAtLink n h).links[l] := by
  rcases he : addressOf h n with _ | ⟨m, a⟩
  · rw [abortAtLink_other fun a => by rw [he]; nofun]
    exact .refl _
  · rcases eq_or_ne m l with rfl | ne
    · rw [abortAtLink_link he]
      exact .abort n a _
    · rw [abortAtLink_other fun b e => ne (by rw [he] at e; exact (Prod.mk.inj (Option.some.inj e)).1)]
      exact .refl _

theorem abort_link_calm (n : Fin 8) (h : Hub) (l : Fin 6) : Link.Calm h.links[l] (abort n h).links[l] := by
  rw [abort_link]
  exact (abortAtLink_calm n h l).trans (.of_settings rfl rfl rfl rfl rfl rfl)

theorem abortAtLink_light (n : Fin 8) (h : Hub) : Light h (abortAtLink n h) := by
  unfold abortAtLink
  split
  · exact .refl h
  · exact .modLink h _ _

theorem freeBuffer_light (b : Fin 32) (h : Hub) : Light h (freeBuffer b h) := .of_rest rfl rfl rfl rfl rfl rfl rfl

theorem voidBuffer_light (n : Fin 8) (h : Hub) (b : Fin 32) : Light h (voidBuffer n h b) := by
  unfold voidBuffer
  split
  · exact .refl h
  · split
    · split
      · exact freeBuffer_light b h
      · exact .of_rest rfl rfl rfl rfl rfl rfl rfl
    · exact .refl h

theorem leaveRunning_light (n : Fin 8) (h : Hub) : Light h (leaveRunning n h) := .of_rest rfl rfl rfl rfl rfl rfl rfl

theorem abort_light (n : Fin 8) (h : Hub) : Light h (abort n h) := by
  unfold abort
  exact (abortAtLink_light n h).trans ((leaveSources_light n _).trans ((Light.foldl (voidBuffer_light n) _ _).trans
    ((Light.modEntries n _ _).trans ((Light.modEngine _ n _).trans (leaveRunning_light n _)))))

/-- A buffer that carries nothing of a screen in the list is as it was. -/
theorem voidedLend_some {n : Fin 8} {x : Option Lend} {y : Lend} (e : voidedLend n x = some y) (voided : y.voided = false) :
    x = some y ∧ y.screen ≠ n := by
  rcases x with _ | z
  · cases e
  · unfold voidedLend at e
    dsimp only at e
    split at e
    · split at e
      · cases e
      · cases e
        cases voided
    · next ne =>
      cases e
      exact ⟨rfl, ne⟩

theorem voidedLend_other {n : Fin 8} {y : Lend} (ne : y.screen ≠ n) : voidedLend n (some y) = some y := by
  simp [voidedLend, ne]

theorem Screen.aborted_entries (x : Screen) : ∀ e ∈ x.aborted.entries, ¬(e.state = .behind ∨ e.state = .sending) := by
  intro e he
  obtain ⟨v, -, rfl⟩ := List.mem_map.1 he
  rintro (st | st) <;> cases st

/-! ### A screen goes Lost -/

theorem setScreenState_light (n : Fin 8) {st : ScreenState} (bound : st ≠ .unbound) (h : Hub) :
    Light h (setScreenState n st h) :=
  .modScreen h n (fun _ => id) (fun _ => rfl) fun _ e => absurd e bound

theorem becomeLost_light (n : Fin 8) (r : LostReason) (h : Hub) : Light h (becomeLost n r h) := by
  have lost := (abort_light n h).trans (setScreenState_light n (st := .lost) nofun _)
  unfold becomeLost
  generalize setScreenState n .lost (abort n h) = k at lost ⊢
  dsimp only
  refine .trans ?_ (notify_calm _ _ _ _).light
  split
  · exact lost.trans (.modLink _ _ _)
  · exact lost

theorem becomeLost_link_calm (n : Fin 8) (r : LostReason) (h : Hub) (l : Fin 6) :
    Link.Calm h.links[l] (becomeLost n r h).links[l] := by
  rw [becomeLost_link]
  split
  · next m a _ =>
    split
    · exact (abort_link_calm n h l).trans (.row _ a (fun _ => rfl) fun _ => rfl)
    · exact abort_link_calm n h l
  · exact abort_link_calm n h l

/-- R108: a Joined screen that goes Lost keeps its address. -/
theorem becomeLost_left {n : Fin 8} {h : Hub} (r : LostReason) (joined : h.screens[n].state = .joined) :
    Left [n] h (becomeLost n r h) := by
  obtain ⟨screen, others⟩ := becomeLost_screens n r h
  obtain ⟨slots, plates, buffers, -⟩ := becomeLost_rest n r h
  have fewer : FewerReaders h (becomeLost n r h) := (FewerReaders.leaveSources n h).trans (.of_eq slots plates)
  have calm := becomeLost_link_calm n r h
  exact
    { light := becomeLost_light n r h
      others := fun m ne => by
        rw [others m (by simpa using ne)]
        exact .refl _
      out := fun m hm => by
        rw [List.mem_singleton.1 hm, screen]
        nofun
      stopped := fun _ m hm => by
        rw [List.mem_singleton.1 hm, screen]
        rfl
      quiet := fun _ _ m hm => by
        rw [List.mem_singleton.1 hm, screen]
        exact Screen.aborted_entries _
      fewer := fewer
      unread := fun _ _ m hm => by
        rw [List.mem_singleton.1 hm]
        exact (FewerReaders.of_eq slots plates).unread (leaveSources_unread n h)
      lent := fun _ b x hx voided => by
        obtain ⟨was, ne⟩ := voidedLend_some ((buffers b).symm.trans hx) voided
        exact ⟨by simpa using ne, by rw [was, Option.map_some]⟩
      kept := fun b x hx _ ne _ _ => by
        rw [buffers b, hx, voidedLend_other (by simpa using ne), Option.map_some]
      rows := fun _ l a m row _ _ => ((calm l).assignment a).trans row
      credit := fun l a m row => ⟨((calm l).assignment a).symm.trans row, (calm l).credit a⟩
      address := fun law => by
        refine addressLaw_of law.addresses (fun m hm => ?_) fun l a m row => ?_
        · have link : (becomeLost n r h).screens[m].link = h.screens[m].link := by
            rcases eq_or_ne m n with rfl | ne
            · rw [screen]
              rfl
            · rw [others m ne]
          refine ⟨?_, fun l a linked row running => ?_⟩
          · rcases eq_or_ne m n with rfl | ne
            · exact .inl joined
            · rwa [others m ne] at hm
          · exact ⟨link.trans linked, ((calm l).assignment a).trans row, (calm l).running.2 running⟩
        · refine ⟨((calm l).assignment a).symm.trans row, ?_⟩
          rcases eq_or_ne m n with rfl | ne
          · rw [screen]
            exact ⟨id, nofun, fun runs => ⟨(calm l).running.1 runs, fun _ => .inr rfl⟩⟩
          · rw [others m ne]
            exact ⟨id, id, fun runs => ⟨(calm l).running.1 runs, id⟩⟩
      rolls := fun law l => (calm l).rolls (law.rolls l) }

theorem failureRise_lawsKept (n : Fin 8) (h : Hub) : LawsKept h (failureRise n h) := by
  refine LawsKept.ite (fun joined => ?_) fun _ => .refl h
  have counted := Calm.modScreen h n (f := fun x => { x with failures := min Config.failureLimit (x.failures + 1) })
    ⟨rfl, rfl, rfl, rfl, id⟩
  refine LawsKept.ite (fun _ => counted.lawsKept.trans (becomeLost_left _ ?_).lawsKept) fun _ => counted.lawsKept
  rw [(counted.screens n).state, joined]

theorem failureClear_lawsKept (n : Fin 8) (h : Hub) : LawsKept h (failureClear n h) :=
  LawsKept.ite (fun _ => (Calm.modScreen h n ⟨rfl, rfl, rfl, rfl, id⟩).lawsKept) fun _ => .refl h

/-! ### Buffers -/

theorem set_get {α : Type} {m : Nat} (v : Vector α m) (b c : Fin m) (x : α) :
    (v.set b x)[c] = if b = c then x else v[c] := by
  split
  · next same => simp [same]
  · next ne => exact Vector.getElem_set_ne _ _ fun e => ne (Fin.ext e)

theorem freeBuffer_links (b : Fin 32) (h : Hub) (l : Fin 6) : Link.Calm h.links[l] (freeBuffer b h).links[l] := by
  simp only [freeBuffer, Fin.getElem_fin, Vector.getElem_map]
  exact .of_settings rfl rfl rfl rfl rfl rfl

/-- R94: a voided buffer is freed. -/
theorem freeVoided_lawsKept {b : Fin 32} {x : Lend} {h : Hub} (hx : h.buffers[b] = some x) (voided : x.voided = true) :
    LawsKept h (freeBuffer b h) := by
  have calm : Calm h { h with links := (freeBuffer b h).links } := Calm.of_links (freeBuffer_links b h)
  have left := calm.left
  refine Left.lawsKept (ns := [])
    { left with
      light := freeBuffer_light b h
      fewer := .of_eq rfl rfl
      lent := fun law c y hy unvoided => ?_
      kept := fun c y hy unvoided _ _ _ => ?_ }
  · have at' : (freeBuffer b h).buffers[c] = if b = c then none else h.buffers[c] := set_get _ _ _ _
    rw [at'] at hy
    split at hy
    · cases hy
    · exact ⟨List.not_mem_nil, by rw [hy, Option.map_some]⟩
  · have at' : (freeBuffer b h).buffers[c] = if b = c then none else h.buffers[c] := set_get _ _ _ _
    rw [at', if_neg, hy, Option.map_some]
    rintro rfl
    rw [hx] at hy
    cases hy
    rw [voided] at unvoided
    cases unvoided

end Sys2Proof.Machine

/-! O55 to O59, part 7: an entry is lent to a buffer, and its buffer is answered. -/

namespace Sys2Proof.Machine

theorem freeBuffer_get (b c : Fin 32) (h : Hub) :
    (freeBuffer b h).buffers[c] = if b = c then none else h.buffers[c] := set_get _ _ _ _

theorem modEntry_screens (n : Fin 8) (t : Nat) (f : Entry → Entry) (h : Hub) :
    (modEntry n t f h).screens = upd h.screens n fun x => { x with entries := x.entries.modify t f } := rfl

theorem modEntry_light (n : Fin 8) (t : Nat) (f : Entry → Entry) (h : Hub) : Light h (modEntry n t f h) :=
  .modScreen h n (fun _ => id) (fun _ => List.length_modify _ _ _) fun _ => id

/-- A change of the entries of one screen: who is at home, who reads and which cycles run stay. -/
theorem modEntry_same (n : Fin 8) (t : Nat) (f : Entry → Entry) (h : Hub) (m : Fin 8) :
    (modEntry n t f h).screens[m] = { h.screens[m] with entries := (modEntry n t f h).screens[m].entries } := by
  rw [modEntry_screens, upd_get]
  split
  · next same => cases same; rfl
  · rfl

theorem modEntry_stateAt (n : Fin 8) (t : Nat) (f : Entry → Entry) (h : Hub) (m : Fin 8) (u : Nat) :
    ((modEntry n t f h).screens[m].entries[u]?).map (·.state) =
      if n = m ∧ t = u then (h.screens[m].entries[u]?).map fun e => (f e).state
      else (h.screens[m].entries[u]?).map (·.state) := by
  rw [modEntry_screens, upd_get]
  by_cases same : n = m
  · cases same
    simp only [if_true, true_and, List.getElem?_modify]
    split
    · rw [Option.map_eq_map, Option.map_map]
      rfl
    · simp
  · rw [if_neg same, if_neg fun e => same e.1]

/-- What an entry's change needs of the laws: the cycles, the addresses and the readers stay as they are. -/
theorem modEntry_readerLaws {h k : Hub} (n : Fin 8) (t : Nat) (f : Entry → Entry) (light : Light h k)
    (screens : k.screens = (modEntry n t f h).screens) (fewer : FewerReaders h k) (law : readerLaws h) :
    readerLaws k := by
  obtain ⟨plates, cycles, reads⟩ := law
  have same (m : Fin 8) : k.screens[m].engine = h.screens[m].engine ∧ k.screens[m].state = h.screens[m].state := by
    rw [screens, modEntry_same]
    exact ⟨rfl, rfl⟩
  refine ⟨light.plates plates, fun m => ?_, fun m => ?_⟩
  · rw [(same m).1, (same m).2]
    exact cycles m
  · exact Reads.fewer (reads m) (by rw [(same m).1]) (fun i j => fewer.slot i j m) fun p c => fewer.copy p c m

theorem modEntry_addressLaw {h k : Hub} (n : Fin 8) (t : Nat) (f : Entry → Entry)
    (screens : k.screens = (modEntry n t f h).screens) (links : ∀ l : Fin 6, Link.Calm h.links[l] k.links[l])
    (law : addressLaw h) : addressLaw k := by
  have same (m : Fin 8) : k.screens[m].link = h.screens[m].link ∧ k.screens[m].state = h.screens[m].state := by
    rw [screens, modEntry_same]
    exact ⟨rfl, rfl⟩
  refine addressLaw_of law (fun m hm => ?_) fun l a m row => ?_
  · rw [Screen.homed, (same m).2] at hm
    refine ⟨hm, fun l a linked row running => ?_⟩
    exact ⟨(same m).1.trans linked, ((links l).assignment a).trans row, (links l).running.2 running⟩
  · rw [(same m).1, (same m).2, Screen.homed, Screen.homed, (same m).2]
    exact ⟨((links l).assignment a).symm.trans row, id, id, fun r => ⟨(links l).running.1 r, id⟩⟩

/-- R105: the answer for an entry's tile frees its buffer, and the entry is Sending no more. -/
theorem answered_lawsKept {b : Fin 32} {x : Lend} {h : Hub} {f : Entry → Entry} (hx : h.buffers[b] = some x)
    (voided : x.voided = false) (answers : ∀ e, (f e).state = .held ∨ (f e).state = .behind) :
    LawsKept h (modEntry x.screen x.tile f (freeBuffer b h)) := by
  have light : Light h (modEntry x.screen x.tile f (freeBuffer b h)) :=
    (freeBuffer_light b h).trans (modEntry_light _ _ _ _)
  have links (l : Fin 6) : Link.Calm h.links[l] (modEntry x.screen x.tile f (freeBuffer b h)).links[l] :=
    freeBuffer_links b h l
  have stateAt (m : Fin 8) (u : Nat) := modEntry_stateAt x.screen x.tile f h m u
  have bufferAt (c : Fin 32) : (modEntry x.screen x.tile f (freeBuffer b h)).buffers[c] =
    if b = c then none else h.buffers[c] := freeBuffer_get b c h
  have carried (c : Fin 32) (m : Fin 8) (u : Nat) :
      carries (modEntry x.screen x.tile f (freeBuffer b h)) c m u ↔ b ≠ c ∧ carries h c m u := by
    simp only [carries, bufferAt]
    by_cases same : b = c
    · simp [same]
    · simp [same]
  have here : carries h b x.screen x.tile := ⟨x, hx, voided, rfl, rfl⟩
  refine { light with
    readers := modEntry_readerLaws x.screen x.tile f light rfl (.of_eq rfl rfl)
    delivery := ?_ }
  rintro ⟨cycles, shows, ⟨sends, single, assigned⟩, credit, address, rolls⟩
  have sending := (sends x.screen x.tile).2 ⟨b, here⟩
  refine ⟨fun m => ?_, fun m e he st => ?_, ⟨fun m u => ?_, fun c d m u hc hd => ?_, fun c y hy unvoided => ?_⟩,
    fun m l a joined row => ?_, modEntry_addressLaw (h := h) x.screen x.tile f rfl links address,
    (rollLaw_iff _).2 fun l => (links l).rolls ((rollLaw_iff h).1 rolls l)⟩
  · rw [modEntry_same]
    exact cycles m
  · obtain ⟨u, hu⟩ := List.mem_iff_getElem?.1 he
    have at' : ((modEntry x.screen x.tile f (freeBuffer b h)).screens[m].entries[u]?).map (·.state) = some e.state := by
      rw [hu, Option.map_some]
    rw [modEntry_same]
    rw [show ((modEntry x.screen x.tile f (freeBuffer b h)).screens[m].entries[u]?).map (·.state) = _ from
      stateAt m u] at at'
    split at at'
    · next same =>
      obtain ⟨rfl, -⟩ := same
      obtain ⟨v, hv, st⟩ := Option.map_eq_some_iff.1 sending
      exact shows x.screen v (List.mem_of_getElem? hv) (.inr st)
    · obtain ⟨v, hv, same⟩ := Option.map_eq_some_iff.1 at'
      exact shows m v (List.mem_of_getElem? hv) (same ▸ st)
  · rw [show ((modEntry x.screen x.tile f (freeBuffer b h)).screens[m].entries[u]?).map (·.state) = _ from stateAt m u]
    split
    · next same =>
      obtain ⟨rfl, rfl⟩ := same
      refine iff_of_false (fun st => ?_) ?_
      · obtain ⟨v, -, st⟩ := Option.map_eq_some_iff.1 st
        rcases answers v with e | e <;> cases e.symm.trans st
      · rintro ⟨c, hc⟩
        rw [carried] at hc
        exact hc.1 (single b c x.screen x.tile here hc.2)
    · next ne =>
      rw [sends]
      refine exists_congr fun c => ?_
      rw [carried]
      refine ⟨fun hc => ⟨?_, hc⟩, fun hc => hc.2⟩
      rintro rfl
      obtain ⟨y, hy, -, screen, tile⟩ := hc
      cases hx.symm.trans hy
      exact ne ⟨screen, tile⟩
  · exact single c d m u ((carried c m u).1 hc).2 ((carried d m u).1 hd).2
  · rw [bufferAt] at hy
    split at hy
    · cases hy
    · exact ((links y.link).assignment y.row).trans (assigned c y hy unvoided)
  · rw [modEntry_same] at joined
    rw [(links l).assignment a] at row
    obtain ⟨c, hc, enough⟩ := credit m l a joined row
    exact ⟨c, ((links l).credit a).trans hc, (unvoided_le fun d u hd => ((carried d m u).1 hd).2).trans enough⟩

/-! ### The grant -/

theorem firstBehind_state {x : Screen} {t : Nat} (ht : firstBehind x = some t) :
    (x.entries[t]?).map (·.state) = some .behind := by
  obtain ⟨lt, behind, -⟩ := List.findIdx?_eq_some_iff_getElem.1 ht
  rw [List.getElem?_eq_getElem lt, Option.map_some]
  exact congrArg some (eq_of_beq behind)

/-- Counting with one more index counts at most one more. -/
theorem filter_length_le_succ {α : Type} [DecidableEq α] {p q : α → Bool} (b : α) {l : List α} (hl : l.Nodup)
    (sub : ∀ a, p a = true → a = b ∨ q a = true) : (l.filter p).length ≤ (l.filter q).length + 1 := by
  induction l with
  | nil => simp
  | cons a l ih =>
    obtain ⟨new, nodup⟩ := List.nodup_cons.1 hl
    rw [List.filter_cons, List.filter_cons]
    by_cases ha : a = b
    · have rest : (l.filter p).length ≤ (l.filter q).length := filter_length_le l fun c hc pc =>
        (sub c pc).resolve_left fun e => new (ha ▸ e ▸ hc)
      grind
    · have rest := ih nodup
      split
      · next pa =>
        rw [if_pos ((sub a pa).resolve_left ha), List.length_cons, List.length_cons]
        omega
      · grind

theorem allBuffers_nodup : allBuffers.Nodup := by decide

theorem ne_other : ∀ a : Fin 2, a ≠ other a := by decide

theorem row_eq_other : ∀ {r a : Fin 2}, r ≠ a → r = other a := by decide

/-- R92: what a screen has lent at its address is within what its address has outstanding. -/
theorem unvoided_le_outstanding {h : Hub} {n : Fin 8} {l : Fin 6} {a : Fin 2} (sends : sendingLaw h)
    (address : addressLaw h) (row : h.links[l].rows[a].assignment = .screen n) :
    unvoided h n ≤ outstandingCredit h l a := by
  obtain ⟨-, -, assigned⟩ := sends
  obtain ⟨-, linked⟩ := address
  refine filter_length_le _ fun b _ hb => ?_
  rcases hk : h.buffers[b] with _ | x
  · simp [hk] at hb
  · simp only [hk, Bool.and_eq_true, Bool.not_eq_true', beq_iff_eq] at hb
    obtain ⟨unvoided, rfl⟩ := hb
    have at' := assigned b x hk unvoided
    obtain ⟨linkHere, -, single, -⟩ := linked l a x.screen row
    obtain ⟨linkThere, -⟩ := linked x.link x.row x.screen at'
    have link : x.link = l := Option.some_injective _ (linkThere.symm.trans linkHere)
    have sameRow : x.row = a := by
      by_contra ne
      have otherRow : x.row = other a := by
        exact row_eq_other ne
      refine single ?_
      simpa only [link, otherRow] using at'
    simp [link, sameRow]

/-- R92: a free buffer is lent for an entry Behind of a screen that gathers, within the credit of its address. -/
theorem lent_lawsKept {b : Fin 32} {x : Lend} {h k : Hub} (free : h.buffers[b] = none) (voided : x.voided = false)
    (screens : k.screens = (modEntry x.screen x.tile (fun e => { e with state := .sending }) h).screens)
    (buffers : k.buffers = h.buffers.set b (some x)) (light : Light h k)
    (links : ∀ l : Fin 6, Link.Calm h.links[l] k.links[l]) (fewer : FewerReaders h k)
    (row : h.links[x.link].rows[x.row].assignment = .screen x.screen)
    (gathering : h.screens[x.screen].engine.cycle = some .gathering)
    (behind : (h.screens[x.screen].entries[x.tile]?).map (·.state) = some .behind) {c : Nat}
    (credit : h.links[x.link].rows[x.row].credit = some c) (room : outstandingCredit h x.link x.row < c) :
    LawsKept h k := by
  have stateAt (m : Fin 8) (u : Nat) : (k.screens[m].entries[u]?).map (·.state) =
      if x.screen = m ∧ x.tile = u then some .sending else (h.screens[m].entries[u]?).map (·.state) := by
    rw [screens, modEntry_stateAt]
    split
    · next same =>
      obtain ⟨rfl, rfl⟩ := same
      obtain ⟨e, he, -⟩ := Option.map_eq_some_iff.1 behind
      rw [he, Option.map_some]
    · rfl
  have same (m : Fin 8) : k.screens[m].engine = h.screens[m].engine ∧ k.screens[m].state = h.screens[m].state := by
    rw [screens, modEntry_same]
    exact ⟨rfl, rfl⟩
  have bufferAt (d : Fin 32) : k.buffers[d] = if b = d then some x else h.buffers[d] := by
    rw [buffers]
    exact set_get _ _ _ _
  have carried (d : Fin 32) (m : Fin 8) (u : Nat) :
      carries k d m u ↔ b = d ∧ x.screen = m ∧ x.tile = u ∨ carries h d m u := by
    simp only [carries, bufferAt]
    by_cases here : b = d
    · cases here
      simp [free, voided]
    · simp [here]
  refine { light with
    readers := modEntry_readerLaws x.screen x.tile _ light screens fewer
    delivery := ?_ }
  rintro ⟨cycles, shows, ⟨sends, single, assigned⟩, credits, address, rolls⟩
  have unsent (d : Fin 32) : ¬carries h d x.screen x.tile := fun hd => by
    have sending := (sends x.screen x.tile).2 ⟨d, hd⟩
    rw [behind] at sending
    cases sending
  refine ⟨fun m => ?_, fun m e he st => ?_, ⟨fun m u => ?_, fun d d' m u hd hd' => ?_, fun d y hy unvoided => ?_⟩,
    fun m l a joined at' => ?_, modEntry_addressLaw x.screen x.tile _ screens links address,
    (rollLaw_iff _).2 fun l => (links l).rolls ((rollLaw_iff h).1 rolls l)⟩
  · rw [(same m).1, (same m).2]
    exact cycles m
  · obtain ⟨u, hu⟩ := List.mem_iff_getElem?.1 he
    have at' := stateAt m u
    rw [hu, Option.map_some] at at'
    rw [(same m).1]
    split at at'
    · next here => exact .inl (here.1 ▸ gathering)
    · obtain ⟨v, hv, was⟩ := Option.map_eq_some_iff.1 at'.symm
      exact shows m v (List.mem_of_getElem? hv) (was ▸ st)
  · rw [stateAt]
    simp only [carried]
    split
    · next here => exact iff_of_true rfl ⟨b, .inl ⟨rfl, here⟩⟩
    · next elsewhere =>
      rw [sends]
      exact exists_congr fun d => ⟨.inr, fun hd => hd.resolve_left fun here => elsewhere here.2⟩
  · rw [carried] at hd hd'
    rcases hd with ⟨rfl, rfl, rfl⟩ | hd
    · rcases hd' with ⟨rfl, -⟩ | hd'
      · rfl
      · exact absurd hd' (unsent _)
    · rcases hd' with ⟨rfl, rfl, rfl⟩ | hd'
      · exact absurd hd (unsent _)
      · exact single d d' m u hd hd'
  · refine ((links y.link).assignment y.row).trans ?_
    rw [bufferAt] at hy
    split at hy
    · cases hy
      exact row
    · exact assigned d y hy unvoided
  · rw [(same m).2] at joined
    rw [(links l).assignment a] at at'
    rw [(links l).credit a]
    by_cases here : m = x.screen
    · cases here
      obtain ⟨-, linked⟩ := id address
      obtain ⟨linkHere, -, alone, -⟩ := linked x.link x.row x.screen row
      obtain ⟨linkThere, -⟩ := linked l a x.screen at'
      have link : l = x.link := Option.some_injective _ (linkThere.symm.trans linkHere)
      subst link
      have sameRow : a = x.row := by
        by_contra ne
        exact alone (row_eq_other ne ▸ at')
      subst sameRow
      refine ⟨c, credit, ?_⟩
      have most := unvoided_le_outstanding ⟨sends, single, assigned⟩ address row
      have more : unvoided k x.screen ≤ unvoided h x.screen + 1 := by
        refine filter_length_le_succ b allBuffers_nodup fun d hd => ?_
        by_cases here : b = d
        · exact .inl here.symm
        · rw [bufferAt, if_neg here] at hd
          exact .inr hd
      omega
    · obtain ⟨c, hc, enough⟩ := credits m l a joined at'
      refine ⟨c, hc, (unvoided_le fun d u hd => ?_).trans enough⟩
      exact ((carried d m u).1 hd).resolve_left fun lends => here lends.2.1.symm

/-- R92: a buffer is lent to the first entry Behind of an eligible screen. -/
theorem grantTo_lawsKept {b : Fin 32} (l : Fin 6) {h : Hub} (free : h.buffers[b] = none) :
    LawsKept h (grantTo b l h) := by
  unfold grantTo
  dsimp only
  generalize grantRow h l = a
  split
  · exact .refl h
  · next n eligible =>
    obtain ⟨row, -, cycle, -, c, credit, room⟩ := (eligibleScreen_iff h l a n).1 eligible
    split
    · exact .refl h
    · next t first =>
      have calm : Calm h (h.modLink l fun k => { k with nextRow := other a }) :=
        Calm.modLink h l (.of_settings rfl rfl rfl rfl rfl rfl)
      refine lent_lawsKept free rfl rfl rfl ?_ calm.links (.of_eq rfl rfl) row cycle (firstBehind_state first) credit room
      exact { modEntry_light n t (fun e => { e with state := .sending }) h with
        dram := fun wf => Memory.writeBytes_wf wf _ _ }

end Sys2Proof.Machine

/-! O55 to O59, part 8: a link falls, with its screens. -/

namespace Sys2Proof.Machine

theorem Link.rolls.offers_eq_nil {x : Link} (r : x.rolls) (rolling : x.state ≠ .rolling) : x.offers = [] := by
  obtain ⟨-, rolls, -⟩ := r
  by_contra some
  exact rolling (rolls some)

theorem Link.rolls.offered_eq_none {x : Link} (r : x.rolls) (rolling : x.state ≠ .rolling) : x.offered = none := by
  have nil := r.offers_eq_nil rolling
  rw [Link.offers, List.append_eq_nil_iff] at nil
  rcases h : x.offered with _ | a
  · rfl
  · rw [h] at nil
    cases nil.1

/-- R109: a link that neither rolls nor is up goes to another such state. -/
theorem Link.Calm.of_stopped {x y : Link} (rows : y.rows = x.rows) (control : y.control = x.control)
    (line : y.line = x.line) (wait : y.rollWait = x.rollWait) (offered : y.offered = x.offered)
    (before : ¬x.running) (after : ¬y.running) : Link.Calm x y where
  assignment a := by rw [rows]
  credit a := by rw [rows]
  running := iff_of_false after before
  rolls r := by
    have packets : y.packets = x.packets := by simp only [Link.packets, livePacket, control, line]
    have offers : y.offers = [] := by
      rw [Link.offers, packets, offered]
      exact r.offers_eq_nil fun e => before (.inl e)
    obtain ⟨-, -, -, waits, parks⟩ := r
    refine ⟨by simp [offers], by simp [offers], by simp [offers], by rw [wait, offered, waits], fun park => ?_⟩
    exact absurd (.inr (parks (packets ▸ park))) before

/-- A link that offers nothing and holds no PARK keeps the law of offers. -/
theorem Link.rolls.of_empty {x : Link} (control : x.control = []) (line : livePacket x = none) (offered : x.offered = none)
    (wait : x.rollWait = none) : x.rolls := by
  have packets : x.packets = [] := by rw [Link.packets, control, line]; rfl
  have offers : x.offers = [] := by rw [Link.offers, packets, offered]; rfl
  exact ⟨by simp [offers], by simp [offers], by simp [offers], by simp [offered, wait], by simp [packets]⟩

theorem voidedAll_some {ns : List (Fin 8)} {x : Option Lend} {y : Lend} (e : voidedAll ns x = some y)
    (voided : y.voided = false) : x = some y ∧ y.screen ∉ ns := by
  rcases x with _ | z
  · cases e
  · unfold voidedAll at e
    dsimp only at e
    split at e
    · split at e
      · cases e
      · cases e
        cases voided
    · next out =>
      cases e
      exact ⟨rfl, out⟩

theorem voidedAll_other {ns : List (Fin 8)} {y : Lend} (out : y.screen ∉ ns) : voidedAll ns (some y) = some y := by
  simp [voidedAll, out]

/-- R109, R117: link `l` falls, and with it the screens `ns`, all that are at home there; their state becomes what
`f` says. -/
theorem fallen_left {ns : List (Fin 8)} {l : Fin 6} {f : Screen → Screen} {h k : Hub} (light : Light h k)
    (here : ∀ n ∈ ns, h.screens[n].link = some l)
    (all : ∀ n : Fin 8, h.screens[n].homed → h.screens[n].link = some l → n ∈ ns)
    (screens : ∀ m : Fin 8, k.screens[m] = if m ∈ ns then f h.screens[m].aborted else h.screens[m])
    (out : ∀ x, ¬(f x).homed) (bound : ∀ x, (f x).state ≠ .unbound) (link : ∀ x, (f x).link = x.link)
    (entries : ∀ x, (f x).entries = x.entries) (engine : ∀ x, (f x).engine = x.engine)
    (slots : k.slots = (ns.foldl (fun h n => leaveSources n h) h).slots)
    (plates : k.plates = (ns.foldl (fun h n => leaveSources n h) h).plates)
    (lent : ∀ (b : Fin 32) (x : Lend), k.buffers[b] = some x → x.voided = false → x.screen ∉ ns ∧ h.buffers[b] = some x)
    (kept : ∀ (b : Fin 32) (x : Lend), h.buffers[b] = some x → x.voided = false → x.screen ∉ ns → x.link ≠ l →
      k.buffers[b] = some x)
    (elsewhere : ∀ m : Fin 6, m ≠ l → Link.Calm h.links[m] k.links[m]) (stopped : ¬k.links[l].running)
    (rows : ∀ a : Fin 2, k.links[l].rows[a].assignment = .unassigned ∨
      k.links[l].rows[a].assignment = h.links[l].rows[a].assignment ∧ k.links[l].rows[a].credit = h.links[l].rows[a].credit)
    (rolls : h.links[l].rolls → k.links[l].rolls) : Left ns h k := by
  have outside (m : Fin 8) (hm : m ∉ ns) : k.screens[m] = h.screens[m] := (screens m).trans (if_neg hm)
  have inside (m : Fin 8) (hm : m ∈ ns) : k.screens[m] = f h.screens[m].aborted := (screens m).trans (if_pos hm)
  have assigned (m : Fin 6) (a : Fin 2) (n : Fin 8) (row : k.links[m].rows[a].assignment = .screen n) :
      h.links[m].rows[a].assignment = .screen n ∧ k.links[m].rows[a].credit = h.links[m].rows[a].credit := by
    rcases eq_or_ne m l with rfl | ne
    · rcases rows a with un | ⟨same, credit⟩
      · cases un.symm.trans row
      · exact ⟨same.symm.trans row, credit⟩
    · exact ⟨((elsewhere m ne).assignment a).symm.trans row, (elsewhere m ne).credit a⟩
  have sameLink (m : Fin 8) : k.screens[m].link = h.screens[m].link := by
    by_cases hm : m ∈ ns
    · rw [inside m hm, link]
      rfl
    · rw [outside m hm]
  refine
    { light := light
      others := fun m hm => outside m hm ▸ .refl _
      out := fun m hm => by
        rw [inside m hm]
        exact fun joined => out _ (.inl joined)
      stopped := fun _ m hm => by
        rw [inside m hm, engine]
        rfl
      quiet := fun _ _ m hm => by
        rw [inside m hm, entries]
        exact Screen.aborted_entries _
      fewer := (FewerReaders.foldl (fun h m => .leaveSources m h) ns h).trans (.of_eq slots plates)
      unread := fun _ _ m hm => (FewerReaders.of_eq slots plates).unread (foldl_leaveSources_unread ns h hm)
      lent := fun _ b x hx voided => ?_
      kept := fun b x hx voided hn joined linked => ?_
      rows := fun law m a n row joined hn => ?_
      credit := assigned
      address := fun law => ?_
      rolls := fun law m => ?_ }
  · obtain ⟨hn, was⟩ := lent b x hx voided
    exact ⟨hn, by rw [was, Option.map_some]⟩
  · rw [kept b x hx voided hn, Option.map_some]
    rintro e
    exact hn (all x.screen (.inl joined) (e ▸ linked))
  · obtain ⟨-, linked⟩ := law.addresses
    obtain ⟨linkHere, -⟩ := linked m a n row
    have ne : m ≠ l := by
      rintro rfl
      exact hn (all n (.inl joined) linkHere)
    exact ((elsewhere m ne).assignment a).trans row
  · refine addressLaw_of law.addresses (fun n hn => ?_) fun m a n row => ?_
    · have stays : n ∉ ns := fun hm => out _ (inside n hm ▸ hn)
      rw [outside n stays] at hn
      refine ⟨hn, fun m a linked row running => ?_⟩
      have ne : m ≠ l := by
        rintro rfl
        exact stays (all n hn linked)
      exact ⟨(sameLink n).trans linked, ((elsewhere m ne).assignment a).trans row, (elsewhere m ne).running.2 running⟩
    · obtain ⟨row, -⟩ := assigned m a n row
      refine ⟨row, fun linked => (sameLink n).trans linked, fun wasBound => ?_, fun running => ?_⟩
      · by_cases hm : n ∈ ns
        · rw [inside n hm]
          exact bound _
        · rwa [outside n hm]
      · have ne : m ≠ l := by
          rintro rfl
          exact stopped running
        refine ⟨(elsewhere m ne).running.1 running, fun home => ?_⟩
        obtain ⟨-, linked⟩ := law.addresses
        obtain ⟨linkHere, -⟩ := linked m a n row
        rwa [outside n fun hm => ne (Option.some_injective _ (linkHere.symm.trans (here n hm)))]
  · rcases eq_or_ne m l with rfl | ne
    · exact rolls (law.rolls m)
    · exact (elsewhere m ne).rolls (law.rolls m)

/-! ### The link is disabled or reset -/

theorem dropScreens_light (l : Fin 6) (h : Hub) : Light h (dropScreens l h) := by
  refine Light.foldl (fun h n => ?_) _ h
  split
  · exact (abort_light n h).trans (setScreenState_light n (st := .missing) nofun _)
  · exact .refl h

theorem freeLinkBuffers_light (l : Fin 6) (h : Hub) : Light h (freeLinkBuffers l h) := .of_rest rfl rfl rfl rfl rfl rfl rfl

theorem freeLinkBuffers_get (l : Fin 6) (h : Hub) (b : Fin 32) (x : Lend) :
    (freeLinkBuffers l h).buffers[b] = some x ↔ h.buffers[b] = some x ∧ x.link ≠ l := by
  have at' : (freeLinkBuffers l h).buffers[b] =
      (h.buffers[b]).bind fun y => if y.link = l then none else some y := by
    simp only [freeLinkBuffers, Hub.modLink_buffers, Fin.getElem_fin, Vector.getElem_map]
    cases h.buffers[b.val] <;> rfl
  rw [at']
  rcases h.buffers[b] with _ | y
  · simp
  · rw [Option.bind_some]
    split
    · next same =>
      refine iff_of_false nofun ?_
      rintro ⟨e, ne⟩
      cases e
      exact ne same
    · next ne =>
      refine ⟨fun e => ⟨e, ?_⟩, And.left⟩
      cases e
      exact ne

/-- R109: the clear of a link: its screens go Missing, its buffers are free, its rows unassigned. -/
theorem clear_lawsKept (l : Fin 6) {g : Link → Link} (h : Hub) (stopped : ∀ x, ¬(g x).running)
    (rows : ∀ x, (g x).rows = Vector.replicate 2 AddressRow.reset) (rolls : ∀ x, (g x).rolls) :
    LawsKept h ((dropScreens l (freeLinkBuffers l h)).modLink l g) := by
  have dropped := clear_abortedAll l (freeLinkBuffers l h)
    (fun n => decide (h.screens[n].link = some l ∧
      (h.screens[n].state = .joined ∨ h.screens[n].state = .lost ∨ h.screens[n].state = .parked)))
    fun n => decide_eq_true_iff
  have mem (n : Fin 8) : n ∈ allScreens.filter (fun n => decide (h.screens[n].link = some l ∧
      (h.screens[n].state = .joined ∨ h.screens[n].state = .lost ∨ h.screens[n].state = .parked))) ↔
        h.screens[n].link = some l ∧
          (h.screens[n].state = .joined ∨ h.screens[n].state = .lost ∨ h.screens[n].state = .parked) := by
    rw [List.mem_filter, decide_eq_true_iff]
    exact and_iff_right (mem_allScreens n)
  generalize allScreens.filter (fun n => decide (h.screens[n].link = some l ∧
      (h.screens[n].state = .joined ∨ h.screens[n].state = .lost ∨ h.screens[n].state = .parked))) = ns at dropped mem
  obtain ⟨slots, plates⟩ := foldl_leaveSources_slots ns (h := h) (k := freeLinkBuffers l h) rfl rfl
  have light := ((freeLinkBuffers_light l h).trans (dropScreens_light l _)).trans
    (.modLink (dropScreens l (freeLinkBuffers l h)) l g)
  have linkAt : ((dropScreens l (freeLinkBuffers l h)).modLink l g).links[l] =
      g (dropScreens l (freeLinkBuffers l h)).links[l] := by rw [Hub.modLink_links, upd_get_same]
  refine Left.lawsKept (fallen_left (ns := ns) (f := fun x => { x with state := .missing }) light
    (fun n hn => ((mem n).1 hn).1) (fun n home link => (mem n).2 ⟨link, ?_⟩) dropped.screens ?_ (fun _ => nofun)
    (fun _ => rfl) (fun _ => rfl) (fun _ => rfl) (dropped.slots.trans slots) (dropped.plates.trans plates)
    (fun b x hx voided => ?_) (fun b x hx _ hn ne => ?_) (fun m ne => ?_) (linkAt ▸ stopped _) (fun a => .inl ?_)
    fun _ => linkAt ▸ rolls _)
  · rcases home with joined | lost
    · exact .inl joined
    · exact .inr (.inl lost)
  · rintro x (joined | lost)
    · cases joined
    · cases lost
  · obtain ⟨was, out⟩ := voidedAll_some ((dropped.buffers b).symm.trans hx) voided
    exact ⟨out, ((freeLinkBuffers_get l h b x).1 was).1⟩
  · rw [Hub.modLink_buffers, dropped.buffers b, (freeLinkBuffers_get l h b x).2 ⟨hx, ne⟩, voidedAll_other hn]
  · have before : (freeLinkBuffers l h).links[m] = h.links[m] := by
      rw [freeLinkBuffers, Hub.modLink_links, upd_get_other _ _ ne.symm]
    rw [Hub.modLink_links, upd_get_other _ _ ne.symm, dropped.elsewhere m fun n hn link =>
      ne (Option.some_injective _ (link.symm.trans ((mem n).1 hn).1)), before]
    exact .of_settings rfl rfl rfl rfl rfl rfl
  · rw [linkAt, rows]
    simp [AddressRow.reset]

theorem disableLink_lawsKept (l : Fin 6) (h : Hub) : LawsKept h (disableLink l h) := by
  refine clear_lawsKept l h (fun x => ?_) (fun _ => rfl) fun x => .of_empty rfl ?_ rfl rfl
  · rintro (e | e) <;> cases e
  · unfold livePacket
    dsimp only
    rcases x.line with _ | o <;> rfl

theorem resetLink_lawsKept (l : Fin 6) (cap : LinkRate) (h : Hub) : LawsKept h (resetLink l cap h) := by
  have settings {f : Link → Link} (hf : ∀ x, Link.Calm x (f x)) : LawsKept h (h.modLink l f) :=
    (Calm.modLink h l (hf _)).lawsKept
  have cleared : LawsKept h ((dropScreens l (freeLinkBuffers l h)).modLink l fun k => { k.enterHold with currentCap := cap }) := by
    refine clear_lawsKept l h (fun x => ?_) (fun _ => rfl) fun x => .of_empty rfl rfl rfl rfl
    rintro (e | e) <;> cases e
  unfold resetLink
  split
  · exact settings fun x => .of_settings rfl rfl rfl rfl rfl rfl
  · exact cleared
  · exact cleared
  · exact cleared
  · exact cleared
  · exact settings fun x => .of_settings rfl rfl rfl rfl rfl rfl
  · exact settings fun x => .of_settings rfl rfl rfl rfl rfl rfl
  · exact settings fun x => .of_settings rfl rfl rfl rfl rfl rfl

/-- A change of the settings and counters of a link alone. -/
theorem settings_calm {l : Fin 6} {h : Hub} {f : Link → Link} (hf : ∀ x, Link.Calm x (f x)) : Calm h (h.modLink l f) :=
  Calm.modLink h l (hf _)

theorem rateFallback_lawsKept (l : Fin 6) (h : Hub) : LawsKept h (rateFallback l h) := by
  have capped : Calm h (h.modLink l fun k => { k with currentCap := h.links[l].currentCap.lower }) :=
    settings_calm fun _ => by exact .of_settings rfl rfl rfl rfl rfl rfl
  unfold rateFallback
  dsimp only
  generalize h.modLink l (fun k => { k with currentCap := h.links[l].currentCap.lower }) = k at capped ⊢
  have told := notify_calm (linkPorts k l) .linkFault [byteOfFin l, faultRate, h.links[l].currentCap.lower.code] k
  generalize notify (linkPorts k l) .linkFault [byteOfFin l, faultRate, h.links[l].currentCap.lower.code] k = m at told ⊢
  have counted : Calm m (m.modLink l fun k => { k with checkFailures := 0 }) :=
    settings_calm fun _ => by exact .of_settings rfl rfl rfl rfl rfl rfl
  exact (capped.trans (told.trans counted)).lawsKept.trans (resetLink_lawsKept l _ _)

theorem checkFailure_lawsKept (l : Fin 6) (h : Hub) : LawsKept h (checkFailure l h) := by
  have counted : Calm h (h.modLink l fun k => { k with checkFailures := k.checkFailures + 1 }) :=
    settings_calm fun _ => by exact .of_settings rfl rfl rfl rfl rfl rfl
  exact LawsKept.ite (fun _ => counted.lawsKept.trans (rateFallback_lawsKept l _)) fun _ => counted.lawsKept

theorem resetIfAllLost_lawsKept (h : Hub) (l : Fin 6) : LawsKept h (resetIfAllLost h l) :=
  LawsKept.ite (fun _ => resetLink_lawsKept l _ h) fun _ => .refl h

end Sys2Proof.Machine

/-! O55 to O59, part 9: the timers, the training, the parking and the line of a link. -/

namespace Sys2Proof.Machine

theorem protocolFault_calm (l : Fin 6) (address : Byte) (k : FaultKind) (h : Hub) :
    Calm h (protocolFault l address k h) := by
  have counted : Calm h (h.modLink l fun x => { x with protocolFaults := x.protocolFaults + 1 }) :=
    settings_calm fun _ => by exact .of_settings rfl rfl rfl rfl rfl rfl
  exact counted.trans (notify_calm _ _ _ _)

theorem countStray_calm (l : Fin 6) (h : Hub) : Calm h (countStray l h) :=
  settings_calm fun _ => by exact .of_settings rfl rfl rfl rfl rfl rfl

theorem countStranger_calm (l : Fin 6) (h : Hub) : Calm h (countStranger l h) :=
  settings_calm fun _ => by exact .of_settings rfl rfl rfl rfl rfl rfl

/-! ### Training -/

theorem not_running {x : Link} {st : LinkState} (at' : x.state = st) (rolling : st ≠ .rolling) (up : st ≠ .up) :
    ¬x.running := by
  rintro (e | e)
  · exact rolling (at'.symm.trans e)
  · exact up (at'.symm.trans e)

theorem beginAttempt_calm {l : Fin 6} {h : Hub} {st : LinkState} (at' : h.links[l].state = st) (rolling : st ≠ .rolling)
    (up : st ≠ .up) (r : Link → LinkRate) : Calm h (h.modLink l fun k => k.beginAttempt (r k)) :=
  Calm.modLink h l (.of_stopped rfl rfl rfl rfl rfl (not_running at' rolling up)
    (not_running (st := .training (.attempt _)) rfl nofun nofun))

theorem holdExpire_calm (l : Fin 6) (h : Hub) : Calm h (holdExpire l h) := by
  refine Calm.ite (fun due => ?_) fun _ => .refl h
  obtain ⟨at', -⟩ := Bool.and_eq_true _ _ ▸ due
  exact beginAttempt_calm (eq_of_beq at') nofun nofun _

theorem retryExpire_calm (l : Fin 6) (h : Hub) : Calm h (retryExpire l h) := by
  refine Calm.ite (fun due => ?_) fun _ => .refl h
  obtain ⟨at', -⟩ := Bool.and_eq_true _ _ ▸ due
  exact beginAttempt_calm (eq_of_beq at') nofun nofun _

theorem warmExpire_calm (l : Fin 6) (h : Hub) : Calm h (warmExpire l h) := by
  refine Calm.ite (fun due => ?_) fun _ => .refl h
  obtain ⟨at', -⟩ := Bool.and_eq_true _ _ ▸ due
  exact beginAttempt_calm (eq_of_beq at') nofun nofun _

theorem state_of_attemptRate {k : Link} {r : LinkRate} (hr : attemptRate k = some r) :
    k.state = .training (.attempt r) := by
  unfold attemptRate at hr
  split at hr
  · next s at' => rw [at', Option.some_injective _ hr]
  · cases hr

theorem attemptExpire_calm (l : Fin 6) (h : Hub) : Calm h (attemptExpire l h) := by
  refine Calm.ite (fun _ => ?_) fun _ => .refl h
  split
  · next at' => exact beginAttempt_calm (state_of_attemptRate at') nofun nofun _
  · next at' => exact beginAttempt_calm (state_of_attemptRate at') nofun nofun _
  · next at' =>
    refine Calm.trans (Calm.modLink h l (.of_stopped rfl rfl rfl rfl rfl ?_ ?_)) (notify_calm _ _ _ _)
    · exact not_running (state_of_attemptRate at') nofun nofun
    · exact not_running (st := .down) rfl nofun nofun
  · exact .refl h

/-- R109: the rows of a link that is not running are cleared; it may begin to roll. -/
theorem cleared_lawsKept {l : Fin 6} {f : Link → Link} {h : Hub} (before : ¬h.links[l].running)
    (rows : (f h.links[l]).rows = Vector.replicate 2 AddressRow.reset)
    (rolls : h.links[l].rolls → (f h.links[l]).rolls) : LawsKept h (h.modLink l f) := by
  have unassigned (a : Fin 2) : (h.modLink l f).links[l].rows[a].assignment = .unassigned := by
    rw [Hub.modLink_links, upd_get_same, rows]
    simp [AddressRow.reset]
  have elsewhere (m : Fin 6) (ne : m ≠ l) : (h.modLink l f).links[m] = h.links[m] := by
    rw [Hub.modLink_links, upd_get_other _ _ ne.symm]
  have assigned (m : Fin 6) (a : Fin 2) (n : Fin 8) (row : (h.modLink l f).links[m].rows[a].assignment = .screen n) :
      m ≠ l := by
    rintro rfl
    cases (unassigned a).symm.trans row
  refine Left.lawsKept (ns := [])
    { light := .modLink h l f
      others := fun m _ => .refl _
      out := nofun
      stopped := fun _ => nofun
      quiet := fun _ _ => nofun
      fewer := .of_eq rfl rfl
      unread := fun _ _ => nofun
      lent := fun _ b x hx _ => ⟨List.not_mem_nil, by rw [← Hub.modLink_buffers h l f, hx, Option.map_some]⟩
      kept := fun b x hx _ _ _ _ => by rw [Hub.modLink_buffers, hx, Option.map_some]
      rows := fun law m a n row joined _ => ?_
      credit := fun m a n row => ?_
      address := fun law => ?_
      rolls := fun law m => ?_ }
  · obtain ⟨homed, linked⟩ := law.addresses
    obtain ⟨m', a', linkHere, -, running⟩ := homed n (.inl joined)
    obtain ⟨linkThere, -⟩ := linked m a n row
    have ne : m ≠ l := by
      rintro rfl
      exact before (Option.some_injective _ (linkThere.symm.trans linkHere) ▸ running)
    rw [elsewhere m ne, row]
  · have ne := assigned m a n row
    rw [elsewhere m ne] at row ⊢
    exact ⟨row, rfl⟩
  · refine addressLaw_of law.addresses (fun n hn => ⟨hn, fun m a linked row running => ?_⟩) fun m a n row => ?_
    · have ne : m ≠ l := by
        rintro rfl
        exact before running
      rw [elsewhere m ne]
      exact ⟨linked, row, running⟩
    · have ne := assigned m a n row
      rw [elsewhere m ne] at row ⊢
      exact ⟨row, id, id, fun running => ⟨running, id⟩⟩
  · rcases eq_or_ne m l with rfl | ne
    · rw [Hub.modLink_links, upd_get_same]
      exact rolls (law.rolls m)
    · rw [elsewhere m ne]
      exact law.rolls m

theorem Link.rolls.rollRows_eq_nil {x : Link} (r : x.rolls) (rolling : x.state ≠ .rolling) :
    x.packets.filterMap Packet.rollRow = [] := by
  have nil := r.offers_eq_nil rolling
  rw [Link.offers, List.append_eq_nil_iff] at nil
  exact nil.2

theorem enterRolling_lawsKept {l : Fin 6} {h : Hub} {st : LinkState} (r : LinkRate) (at' : h.links[l].state = st)
    (rolling : st ≠ .rolling) (up : st ≠ .up) : LawsKept h (h.modLink l (Link.enterRolling r)) := by
  refine cleared_lawsKept (not_running at' rolling up) rfl fun law => ?_
  have silent := law.rollRows_eq_nil (at' ▸ rolling)
  have packets : (Link.enterRolling r h.links[l]).packets = h.links[l].packets ++ [.roll 0] := by
    rw [Link.packets, Link.packets, List.append_assoc]
    rfl
  have offers : (Link.enterRolling r h.links[l]).offers = [0] := by
    rw [Link.offers, packets, List.filterMap_append, silent]
    rfl
  obtain ⟨-, -, -, -, parks⟩ := law
  refine ⟨by rw [offers]; exact le_rfl, fun _ => rfl, fun a _ b _ => ?_, by simp [Link.enterRolling], fun park => ?_⟩
  · simp [Link.enterRolling, Link.clearRows, AddressRow.reset]
  · rw [packets] at park
    have before : Packet.park ∈ h.links[l].packets := by simpa using park
    exact absurd (at'.symm.trans (parks before)) up

theorem lockReported_lawsKept (l : Fin 6) (r : LinkRate) (h : Hub) : LawsKept h (lockReported l r h) :=
  LawsKept.ite (fun at' => enterRolling_lawsKept r (state_of_attemptRate at') nofun nofun) fun _ => .refl h

theorem lockLost_lawsKept (l : Fin 6) (h : Hub) : LawsKept h (lockLost l h) := by
  unfold lockLost
  split
  · exact .refl h
  · next rate _ =>
    have told := (notify_calm (linkPorts h l) .linkFault [byteOfFin l, faultLock, rate.code] h).lawsKept
    have forgets : ∀ k : Hub, Calm k (k.modLink l fun x => { x with cutRate := none }) := fun _ =>
      settings_calm fun _ => by exact .of_settings rfl rfl rfl rfl rfl rfl
    exact (told.trans (resetLink_lawsKept l _ _)).trans (forgets _).lawsKept

/-! ### The timers of a row -/

theorem silenceLinkExpire_calm (l : Fin 6) (a : Fin 2) (h : Hub) : Calm h (silenceLinkExpire l a h) := by
  refine Calm.ite (fun _ => .trans ?_ (Calm.handPacket l (k := .poll a true) _ rfl nofun)) fun _ => .refl h
  exact Calm.modRow h l a (fun _ => rfl) fun _ => rfl

theorem lostPollExpire_calm (l : Fin 6) (a : Fin 2) (h : Hub) : Calm h (lostPollExpire l a h) := by
  refine Calm.ite (fun _ => .trans ?_ (Calm.handPacket l (k := .poll a false) _ rfl nofun)) fun _ => .refl h
  exact Calm.modRow h l a (fun _ => rfl) fun _ => rfl

theorem pollSent_calm (l : Fin 6) (a : Fin 2) (keepAlive : Bool) (h : Hub) : Calm h (pollSent l a keepAlive h) :=
  Calm.ite (fun _ => Calm.modRow h l a (fun _ => rfl) fun _ => rfl) fun _ => .refl h

theorem pollWaitExpire_lawsKept (l : Fin 6) (a : Fin 2) (h : Hub) : LawsKept h (pollWaitExpire l a h) := by
  refine LawsKept.ite (fun _ => ?_) fun _ => .refl h
  have stopped : Calm h (h.modRow l a fun r =>
      { r with pollWait := none, pollAwaited := false, silence := some Config.linkSilenceTicks }) :=
    Calm.modRow h l a (fun _ => rfl) fun _ => rfl
  dsimp only
  split
  · exact stopped.lawsKept.trans (failureRise_lawsKept _ _)
  · exact stopped.lawsKept

theorem stateAnswered_lawsKept (l : Fin 6) (a : Fin 2) (n : Fin 8) (h : Hub) : LawsKept h (stateAnswered l a n h) := by
  refine .trans (Calm.lawsKept ?_) (failureClear_lawsKept n _)
  exact Calm.modRow h l a (fun _ => rfl) fun _ => rfl

theorem touchSilence_calm (l : Fin 6) (address : Byte) (h : Hub) : Calm h (touchSilence l address h) := by
  unfold touchSilence
  split
  · exact .refl h
  · split
    · exact Calm.ite (fun _ => Calm.modRow h l _ (fun _ => rfl) fun _ => rfl) fun _ => .refl h
    · exact .refl h

theorem startSilence_calm (l : Fin 6) (h : Hub) (a : Fin 2) : Calm h (startSilence l h a) := by
  unfold startSilence
  split
  · exact Calm.ite (fun _ => Calm.modRow h l a (fun _ => rfl) fun _ => rfl) fun _ => .refl h
  · exact .refl h

/-! ### Parking and waking -/

theorem enterWaking_calm {l : Fin 6} {h : Hub} (at' : h.links[l].state = .parked) :
    Calm h (h.modLink l Link.enterWaking) :=
  Calm.modLink h l (.of_stopped rfl rfl rfl rfl rfl (not_running at' nofun nofun)
    (not_running (st := .waking) rfl nofun nofun))

theorem takeWake_calm {l : Fin 6} {h : Hub} (at' : h.links[l].state = .parked) : Calm h (takeWake l h) := by
  have told := notify_calm (linkPorts h l) .wake [byteOfFin l] h
  have links := notify_links (linkPorts h l) .wake [byteOfFin l] h
  unfold takeWake
  dsimp only
  generalize notify (linkPorts h l) .wake [byteOfFin l] h = k at told links ⊢
  exact Calm.ite (fun _ => told.trans (enterWaking_calm (links ▸ at'))) fun _ => told

theorem wakeLineChanged_calm (l : Fin 6) (asserted : Bool) (h : Hub) : Calm h (wakeLineChanged l asserted h) := by
  have changed : Calm h (h.modLink l fun k => { k with wakeLine := asserted }) :=
    settings_calm fun _ => by exact .of_settings rfl rfl rfl rfl rfl rfl
  unfold wakeLineChanged
  dsimp only
  generalize h.modLink l (fun k => { k with wakeLine := asserted }) = k at changed ⊢
  exact Calm.ite (fun wakes => changed.trans (takeWake_calm wakes.2)) fun _ => changed

theorem parkScreen_light (h : Hub) (n : Fin 8) : Light h (parkScreen h n) := by
  unfold parkScreen
  split
  · exact (abort_light n h).trans ((setScreenState_light n (st := .parked) nofun _).trans
      (Light.modScreen _ n (fun _ => id) (fun _ => rfl) fun _ => id))
  · exact .refl h

theorem parkedRow (x : Link) (a : Fin 2) :
    (x.rows.map AddressRow.stopTimers)[a].assignment = x.rows[a].assignment ∧
      (x.rows.map AddressRow.stopTimers)[a].credit = x.rows[a].credit := by
  simp only [Fin.getElem_fin, Vector.getElem_map, AddressRow.stopTimers, and_self]

/-- R117, R118: PARK has been sent, and the link parks with its screens. `f` is what the end of the PARK does at the
link itself. -/
theorem parked_lawsKept {l : Fin 6} {f : Link → Link} {h : Hub} (rows : (f h.links[l]).rows = h.links[l].rows)
    (state : (f h.links[l]).state = .parked) (control : (f h.links[l]).control = []) (line : (f h.links[l]).line = none)
    (wait : (f h.links[l]).rollWait = h.links[l].rollWait) (offered : (f h.links[l]).offered = h.links[l].offered)
    (park : h.links[l].rolls → h.links[l].state = .up) :
    LawsKept h (((boundTo (h.modLink l f) l).foldl parkScreen (h.modLink l f)).modLink l fun k =>
      { k with rows := k.rows.map AddressRow.stopTimers }) := by
  have parks := park_abortedAll l (h.modLink l f)
    (fun n => decide (h.screens[n].link = some l ∧
      (h.screens[n].state = .joined ∨ h.screens[n].state = .lost ∨ h.screens[n].state = .missing)))
    fun n => decide_eq_true_iff
  have mem (n : Fin 8) : n ∈ allScreens.filter (fun n => decide (h.screens[n].link = some l ∧
      (h.screens[n].state = .joined ∨ h.screens[n].state = .lost ∨ h.screens[n].state = .missing))) ↔
        h.screens[n].link = some l ∧
          (h.screens[n].state = .joined ∨ h.screens[n].state = .lost ∨ h.screens[n].state = .missing) := by
    rw [List.mem_filter, decide_eq_true_iff]
    exact and_iff_right (mem_allScreens n)
  generalize allScreens.filter (fun n => decide (h.screens[n].link = some l ∧
      (h.screens[n].state = .joined ∨ h.screens[n].state = .lost ∨ h.screens[n].state = .missing))) = ns at parks mem
  have light : Light h ((boundTo (h.modLink l f) l).foldl parkScreen (h.modLink l f)) :=
    (Light.modLink h l f).trans (Light.foldl parkScreen_light _ _)
  generalize (boundTo (h.modLink l f) l).foldl parkScreen (h.modLink l f) = k at parks light ⊢
  obtain ⟨slots, plates⟩ := foldl_leaveSources_slots ns (h := h) (k := h.modLink l f) rfl rfl
  obtain ⟨eq, rowsKept, controlKept, lineKept⟩ := parks.links l
  have before : (h.modLink l f).links[l] = f h.links[l] := by rw [Hub.modLink_links, upd_get_same]
  rw [before] at eq rowsKept controlKept lineKept
  have linkAt : (k.modLink l fun k => { k with rows := k.rows.map AddressRow.stopTimers }).links[l] =
      { k.links[l] with rows := k.links[l].rows.map AddressRow.stopTimers } := by rw [Hub.modLink_links, upd_get_same]
  have parked : k.links[l].state = .parked := by rw [eq]; exact state
  refine Left.lawsKept (fallen_left (ns := ns)
    (f := fun x => { x with state := .parked, level := { x.level with current := 0 } })
    (light.trans (.modLink k l _))
    (fun n hn => ((mem n).1 hn).1) (fun n home link => (mem n).2 ⟨link, ?_⟩) parks.screens ?_ (fun _ => nofun)
    (fun _ => rfl) (fun _ => rfl) (fun _ => rfl) (parks.slots.trans slots) (parks.plates.trans plates)
    (fun b x hx voided => ?_) (fun b x hx _ hn _ => ?_) (fun m ne => ?_) (linkAt ▸ not_running parked nofun nofun)
    (fun a => .inr ?_) fun law => ?_)
  · rcases home with joined | lost
    · exact .inl joined
    · exact .inr (.inl lost)
  · rintro x (joined | lost)
    · cases joined
    · cases lost
  · obtain ⟨was, out⟩ := voidedAll_some ((parks.buffers b).symm.trans hx) voided
    exact ⟨out, was⟩
  · have same : (h.modLink l f).buffers[b] = h.buffers[b] := rfl
    rw [Hub.modLink_buffers, parks.buffers b, same, hx, voidedAll_other hn]
  · have same : (h.modLink l f).links[m] = h.links[m] := by rw [Hub.modLink_links, upd_get_other _ _ ne.symm]
    rw [Hub.modLink_links, upd_get_other _ _ ne.symm, parks.elsewhere m fun n hn link =>
      ne (Option.some_injective _ (link.symm.trans ((mem n).1 hn).1)), same]
    exact .of_settings rfl rfl rfl rfl rfl rfl
  · obtain ⟨assignment, credit⟩ := parkedRow k.links[l] a
    obtain ⟨assignmentKept, creditKept⟩ := rowsKept a
    rw [linkAt]
    exact ⟨assignment.trans (assignmentKept.trans (by rw [rows])), credit.trans (creditKept.trans (by rw [rows]))⟩
  · have up := park law
    have none := law.offered_eq_none (by rw [up]; nofun)
    obtain ⟨-, -, -, waits, -⟩ := law
    have noWait : h.links[l].rollWait = Option.none := by
      rw [none] at waits
      simpa using waits
    rw [linkAt]
    refine .of_empty (controlKept control) ?_ ?_ ?_
    · unfold livePacket
      dsimp only
      rw [lineKept line]
    · rw [eq]
      exact offered.trans none
    · rw [eq]
      exact wait.trans noWait

end Sys2Proof.Machine

/-! O55 to O59, part 10: the lines of the links, the SHOW, and the consequences of an event. -/

namespace Sys2Proof.Machine

/-! ### The line of a link -/

/-- A change of what a link holds on its line and in its queue that offers no further address and adds no PARK. -/
theorem Link.Calm.of_fewer {x y : Link} (rows : y.rows = x.rows) (state : y.state = x.state)
    (wait : y.rollWait = x.rollWait) (offered : y.offered = x.offered) (offers : y.offers.Sublist x.offers)
    (park : Packet.park ∈ y.packets → Packet.park ∈ x.packets) : Link.Calm x y where
  assignment a := by rw [rows]
  credit a := by rw [rows]
  running := by simp only [Link.running, state]
  rolls := by
    rintro ⟨one, rolling, free, waits, parks⟩
    refine ⟨offers.length_le.trans one, fun some => ?_, fun a ha b hb => ?_, by rw [wait, offered, waits],
      fun p => state ▸ parks (park p)⟩
    · rw [state]
      refine rolling fun nil => some ?_
      rw [nil] at offers
      exact List.eq_nil_of_sublist_nil offers
    · rw [rows]
      exact free a (offers.subset ha) b hb

theorem packets_of_line {x : Link} {p : Packet} (line : x.line = some { packet := p, dead := false }) :
    x.packets = p :: x.control := by
  rw [Link.packets, livePacket, line]
  rfl

theorem packets_of_empty_line {x : Link} (line : livePacket x = none) : x.packets = x.control := by
  rw [Link.packets, line]
  rfl

/-- R95: the line is cleared. -/
theorem Link.Calm.clearLine (x : Link) : Link.Calm x { x with line := none } := by
  have packets : ({ x with line := none } : Link).packets = x.control := packets_of_empty_line rfl
  have sublist : ({ x with line := none } : Link).packets.Sublist x.packets := by
    rw [packets]
    exact List.sublist_append_right _ _
  exact .of_fewer rfl rfl rfl rfl ((List.Sublist.refl _).append (sublist.filterMap _)) fun p => sublist.subset p

theorem clearLine_calm (l : Fin 6) (h : Hub) : Calm h (clearLine l h) := Calm.modLink h l (.clearLine _)

/-- R114: the ROLL of a link has been sent; its address is on offer as before. -/
theorem Link.Calm.rollSent {x : Link} {a : Fin 2} (line : x.line = some { packet := .roll a, dead := false }) :
    Link.Calm x { x with line := none, rollWait := some Config.rollTicks, offered := some a } where
  assignment _ := rfl
  credit _ := rfl
  running := Iff.rfl
  rolls := by
    rintro ⟨one, rolling, free, waits, parks⟩
    have packets := packets_of_line line
    have after : ({ x with line := none, rollWait := some Config.rollTicks, offered := some a } : Link).packets =
        x.control := packets_of_empty_line rfl
    have offers : x.offers = x.offered.toList ++ a :: x.control.filterMap Packet.rollRow := by
      rw [Link.offers, packets]
      rfl
    have none : x.offered = Option.none := by
      rcases ho : x.offered with _ | b
      · rfl
      · rw [offers, ho] at one
        simp at one
    have same : ({ x with line := Option.none, rollWait := some Config.rollTicks, offered := some a } : Link).offers =
        x.offers := by
      rw [offers, none, Link.offers, after]
      rfl
    refine ⟨same ▸ one, same ▸ rolling, same ▸ free, iff_of_true rfl rfl, fun p => parks ?_⟩
    rw [packets]
    rw [after] at p
    exact .tail _ p

/-- R95: the line takes the next packet of the control queue. -/
theorem Link.Calm.takeControl {x : Link} {p : Packet} {rest : List Packet} (line : x.line = none)
    (control : x.control = p :: rest) :
    Link.Calm x { x with control := rest, line := some { packet := p, dead := false } } := by
  have same : ({ x with control := rest, line := some { packet := p, dead := false } } : Link).packets = x.packets := by
    rw [packets_of_line rfl, packets_of_empty_line (by rw [livePacket, line]), control]
  refine .of_same (fun _ => rfl) (fun _ => rfl) rfl ?_ rfl rfl (same ▸ id)
  rw [Link.offers, Link.offers, same]

/-- R95: the line takes the next tile. -/
theorem Link.Calm.takeTile {x : Link} {p : Packet} (rest : List (Fin 32)) (line : x.line = none)
    (roll : p.rollRow = none) (park : p ≠ .park) :
    Link.Calm x { x with tiles := rest, line := some { packet := p, dead := false } } := by
  have before : x.packets = x.control := packets_of_empty_line (by rw [livePacket, line])
  have after : ({ x with tiles := rest, line := some { packet := p, dead := false } } : Link).packets = p :: x.control :=
    packets_of_line rfl
  refine .of_same (fun _ => rfl) (fun _ => rfl) rfl ?_ rfl rfl ?_
  · rw [Link.offers, Link.offers, before, after, List.filterMap_cons, roll]
  · rw [before, after]
    exact fun h => (List.mem_cons.1 h).resolve_left park.symm

theorem transmitNext_calm (h : Hub) (l : Fin 6) : Calm h (transmitNext h l) := by
  unfold transmitNext
  dsimp only
  split
  · exact .refl h
  · next idle =>
    have line : h.links[l].line = none := by simpa using idle
    split
    · next p rest control =>
      exact Calm.ite (fun _ => Calm.modLink h l (.takeControl line control)) fun _ => .refl h
    · split
      · next b rest _ =>
        split
        · next x _ =>
          refine Calm.ite (fun _ => ?_) fun _ => .refl h
          have lent : Calm h (h.modBuffer b fun y => { y with inTransmission := true }) := Calm.modBuffer h b fun _ => rfl
          exact lent.trans (Calm.modLink _ l (.takeTile rest line rfl nofun))
        · exact .refl h
      · exact .refl h

theorem loadEnds_lawsKept (b : Fin 32) (h : Hub) : LawsKept h (loadEnds b h) := by
  unfold loadEnds
  split
  · exact .refl h
  · next x hx =>
    split
    · split
      · next voided => exact freeVoided_lawsKept hx voided
      · have queued : Calm h (h.modBuffer b fun y => { y with phase := .queued }) := Calm.modBuffer h b fun _ => rfl
        have handed : Calm (h.modBuffer b fun y => { y with phase := .queued })
            ((h.modBuffer b fun y => { y with phase := .queued }).modLink x.link fun k =>
              { k with tiles := k.tiles ++ [b] }) :=
          settings_calm fun _ => by exact .of_settings rfl rfl rfl rfl rfl rfl
        exact (queued.trans handed).lawsKept
    · exact .refl h

theorem takenMatched_lawsKept {b : Fin 32} {x : Lend} {h : Hub} (s : Signature) (hx : h.buffers[b] = some x) :
    LawsKept h (takenMatched b x s h) := by
  unfold takenMatched
  dsimp only
  split
  · next voided => exact freeVoided_lawsKept hx voided
  · next unvoided =>
    have voided : x.voided = false := Bool.not_eq_true _ ▸ unvoided
    split
    · refine (answered_lawsKept hx voided fun e => ?_).trans (failureClear_lawsKept _ _)
      unfold Entry.takenGood
      split
      · exact .inl rfl
      · exact .inr rfl
    · exact (answered_lawsKept hx voided fun e => .inr rfl).trans (failureRise_lawsKept _ _)

theorem refusedMatched_lawsKept {b : Fin 32} {x : Lend} {h : Hub} (r : RefusedReason) (hx : h.buffers[b] = some x) :
    LawsKept h (refusedMatched b x r h) := by
  unfold refusedMatched
  dsimp only
  split
  · next voided => exact freeVoided_lawsKept hx voided
  · next unvoided =>
    have voided : x.voided = false := Bool.not_eq_true _ ▸ unvoided
    split
    · exact (answered_lawsKept hx voided fun e => .inr rfl).trans (failureRise_lawsKept _ _)
    · exact answered_lawsKept hx voided fun e => .inr rfl
    · exact answered_lawsKept hx voided fun e => .inr rfl

theorem replyTimerExpire_lawsKept (b : Fin 32) (h : Hub) : LawsKept h (replyTimerExpire b h) := by
  refine LawsKept.ite (fun _ => ?_) fun _ => .refl h
  split
  · exact .refl h
  · next x hx =>
    dsimp only
    split
    · next voided => exact freeVoided_lawsKept hx voided
    · next unvoided =>
      have voided : x.voided = false := Bool.not_eq_true _ ▸ unvoided
      exact (answered_lawsKept hx voided fun e => .inr rfl).trans (failureRise_lawsKept _ _)

theorem tileSent_calm (l : Fin 6) (b : Fin 32) (h : Hub) : Calm h (tileSent l b h) := by
  have sent : Calm h (h.modBuffer b fun x =>
      { x with phase := .sent, inTransmission := false, replyTimer := some Config.replyTicks }) :=
    Calm.modBuffer h b fun _ => rfl
  exact sent.trans (settings_calm fun _ => by exact .of_settings rfl rfl rfl rfl rfl rfl)

/-! ### SHOW -/

theorem handShow_calm (n : Fin 8) (h : Hub) : Calm h (handShow n h) := by
  unfold handShow
  split
  · exact .refl h
  · exact Calm.handPacket _ h rfl nofun

theorem startShowTimers_calm (number : Half) (screens : ScreenSet) (h : Hub) : Calm h (startShowTimers number screens h) :=
  Calm.foldl (fun h n => Calm.ite (fun _ => Calm.modEngine h n rfl) fun _ => .refl h) _ h

/-- R73: a screen that is Ready, or has been shown, presents. -/
theorem presenting_lawsKept {n : Fin 8} {h : Hub} {c : CycleState} (cycle : h.screens[n].engine.cycle = some c)
    (gathering : c ≠ .gathering) (cutting : c ≠ .cutting) : LawsKept h (presenting n h) :=
  turn_lawsKept (d := .presenting) cycle gathering cutting fun _ => rfl

theorem showIfReady_lawsKept (h : Hub) (n : Fin 8) : LawsKept h (showIfReady h n) := by
  refine LawsKept.ite (fun ready => ?_) fun _ => .refl h
  have handed := handShow_calm n h
  refine handed.lawsKept.trans (presenting_lawsKept (c := .ready) ?_ nofun nofun)
  rw [(handed.screens n).cycle, ready.1]

/-- Outside Gathering and Cutting a screen waits or is at rest. -/
def Shown (h : Hub) (n : Fin 8) : Prop :=
  ∃ c, h.screens[n].engine.cycle = some c ∧ c ≠ .gathering ∧ c ≠ .cutting

theorem releaseOnLink_calm (running : ScreenSet) (h : Hub) (l : Fin 6) : Calm h (releaseOnLink running h l) := by
  unfold releaseOnLink
  split
  · split
    · exact Calm.handPacket _ h rfl nofun
    · exact (handShow_calm _ h).trans (handShow_calm _ _)
  · exact Calm.foldl (fun h n => handShow_calm n h) _ h

theorem foldl_presenting_lawsKept (ns : List (Fin 8)) {h : Hub} (shown : ∀ n ∈ ns, Shown h n) :
    LawsKept h (ns.foldl (fun h n => presenting n h) h) := by
  induction ns generalizing h with
  | nil => exact .refl h
  | cons n ns ih =>
    obtain ⟨c, cycle, gathering, cutting⟩ := shown n (.head _)
    refine (presenting_lawsKept cycle gathering cutting).trans (ih fun m hm => ?_)
    by_cases same : m = n
    · exact ⟨.presenting, by rw [presenting, Hub.modEngine_screens, same, upd_get_same], nofun, nofun⟩
    · rw [Shown, presenting, Hub.modEngine_screens, upd_get_other _ _ (Ne.symm same)]
      exact shown m (.tail _ hm)

theorem releaseGroup_lawsKept (h : Hub) (g : Fin 4) : LawsKept h (releaseGroup h g) := by
  refine LawsKept.ite (fun may => ?_) fun _ => .refl h
  obtain ⟨-, ready⟩ := (mayRelease_iff h g rfl).1 may
  have handed := Calm.foldl (releaseOnLink_calm h.groups[g].running) allLinks h
  unfold release
  dsimp only
  refine handed.lawsKept.trans (foldl_presenting_lawsKept _ fun n hn => ⟨.ready, ?_, nofun, nofun⟩)
  rw [(handed.screens n).cycle]
  exact ready n (List.mem_filter.1 hn).2

/-! ### The starts -/

theorem endCut_lawsKept (h : Hub) (n : Fin 8) : LawsKept h (endCut h n) := by
  refine LawsKept.ite (fun may => startCycle_lawsKept ?_) fun _ => .refl h
  obtain ⟨cycle, unsent⟩ := (mayEndCut_iff h n).1 may
  refine ⟨by rw [cycle]; rfl, ?_, fun _ => unsent⟩
  rw [cycle]
  nofun

theorem startScreen_lawsKept (h : Hub) (n : Fin 8) : LawsKept h (startScreen h n) := by
  refine LawsKept.ite (fun may => ?_) fun _ => .refl h
  obtain ⟨-, cycle, -⟩ := (mayStart_iff h n rfl).1 may
  exact startCycle_lawsKept (.of_cycle cycle nofun nofun)

theorem foldl_startCycle_lawsKept (ns : List (Fin 8)) (nodup : ns.Nodup) {h : Hub}
    (idle : ∀ n ∈ ns, h.screens[n].engine.cycle = some .idle) :
    LawsKept h (ns.foldl (fun h n => startCycle n h) h) := by
  induction ns generalizing h with
  | nil => exact .refl h
  | cons n ns ih =>
    obtain ⟨new, nodup⟩ := List.nodup_cons.1 nodup
    have turned := startCycle_turned (.of_cycle (idle n (.head _)) nofun nofun)
    refine turned.lawsKept.trans (ih nodup fun m hm => ?_)
    rw [(turned.others m fun e => new (e ▸ hm)).cycle]
    exact idle m (.tail _ hm)

theorem modGroup_calm (h : Hub) (g : Fin 4) (f : Group → Group) : Calm h (h.modGroup g f) :=
  Calm.of_unwatched rfl rfl rfl rfl rfl rfl rfl rfl rfl

theorem startGroup_lawsKept (h : Hub) (g : Fin 4) : LawsKept h (startGroup h g) := by
  refine LawsKept.ite (fun may => ?_) fun _ => .refl h
  obtain ⟨-, -, idle, -⟩ := (mayJointStart_iff h g rfl).1 may
  have started := foldl_startCycle_lawsKept (activeMembers h g) (allScreens_nodup.filter _) idle
  exact started.trans (modGroup_calm _ g _).lawsKept

/-! ### The consequences -/

theorem grantOnce_lawsKept {h k : Hub} (granted : grantOnce h = some k) : LawsKept h k := by
  unfold grantOnce at granted
  split at granted
  · next b l free _ =>
    cases granted
    exact grantTo_lawsKept l (((lowestFreeBuffer_first h).1 b).1 free).1
  · cases granted

theorem grants_lawsKept (m : Nat) (h : Hub) : LawsKept h (grants m h) := by
  induction m generalizing h with
  | zero => exact .refl h
  | succ m ih =>
    unfold grants
    split
    · next k granted => exact (grantOnce_lawsKept granted).trans (ih k)
    · exact .refl h

theorem PortState.transmit_bounded (x : PortState) (b : x.bounded) : x.transmit.bounded := by
  obtain ⟨input, replies, notices, through⟩ := b
  unfold PortState.transmit
  split
  · exact ⟨input, replies, notices, through⟩
  · split
    · next waiting =>
      refine ⟨input, ?_, notices, through⟩
      rw [waiting, List.length_cons] at replies
      exact Nat.le_trans (Nat.add_le_add_right (Nat.le_succ _) _) replies
    · split
      · next waiting =>
        refine ⟨input, replies, ?_, through⟩
        rw [waiting, List.length_cons] at notices
        exact Nat.le_of_succ_le notices
      · exact ⟨input, replies, notices, through⟩

theorem transmitPort_calm (h : Hub) (p : Port) : Calm h (transmitPort h p) :=
  Calm.ite (fun _ => .refl h) fun _ => Calm.modPort h p (PortState.transmit_bounded _)

theorem consequences_lawsKept (h : Hub) : LawsKept h (consequences h) := by
  unfold consequences
  exact (LawsKept.foldl resetIfAllLost_lawsKept _ _).trans ((LawsKept.foldl endGathering_lawsKept _ _).trans
    ((LawsKept.foldl endCut_lawsKept _ _).trans ((LawsKept.foldl showIfReady_lawsKept _ _).trans
    ((LawsKept.foldl releaseGroup_lawsKept _ _).trans ((LawsKept.foldl startScreen_lawsKept _ _).trans
    ((LawsKept.foldl startGroup_lawsKept _ _).trans ((grants_lawsKept _ _).trans
    ((Calm.foldl transmitNext_calm _ _).lawsKept.trans (Calm.foldl transmitPort_calm _ _).lawsKept))))))))

end Sys2Proof.Machine

/-! O55 to O59, part 11: screens join, and what HELLO and STATE do. -/

namespace Sys2Proof.Machine

/-! ### A screen out of service changes -/

/-- A screen that is neither Joined nor Lost changes, and stays so. -/
theorem settled_left {n : Fin 8} {f : Screen → Screen} {h : Hub} (light : Light h (h.modScreen n f))
    (before : ¬h.screens[n].homed) (after : ¬(f h.screens[n]).homed) (bound : (f h.screens[n]).state ≠ .unbound)
    (link : h.screens[n].state ≠ .unbound → (f h.screens[n]).link = h.screens[n].link)
    (cycle : h.screens[n].engine.cycle = none → (f h.screens[n]).engine.cycle = none)
    (quiet : (∀ e ∈ h.screens[n].entries, ¬(e.state = .behind ∨ e.state = .sending)) →
      ∀ e ∈ (f h.screens[n]).entries, ¬(e.state = .behind ∨ e.state = .sending)) : Left [n] h (h.modScreen n f) := by
  have here : (h.modScreen n f).screens[n] = f h.screens[n] := by rw [Hub.modScreen_screens, upd_get_same]
  have others (m : Fin 8) (ne : m ≠ n) : (h.modScreen n f).screens[m] = h.screens[m] := by
    rw [Hub.modScreen_screens, upd_get_other _ _ ne.symm]
  have stopped (law : cycleLaw h) : h.screens[n].engine.cycle = none := by
    by_contra some
    exact before (.inl ((law n).1 (Option.isSome_iff_ne_none.2 some)))
  refine
    { light := light
      others := fun m hm => ?_
      out := fun m hm => ?_
      stopped := fun law m hm => ?_
      quiet := fun cycles shows m hm => ?_
      fewer := .of_eq rfl rfl
      unread := fun cycles law m hm => ?_
      lent := fun law b x hx voided => ?_
      kept := fun b x hx _ _ _ _ => by rw [Hub.modScreen_buffers, hx, Option.map_some]
      rows := fun _ _ _ _ row _ _ => row
      credit := fun _ _ _ row => ⟨row, rfl⟩
      address := fun law => ?_
      rolls := fun law => law.rolls }
  · rw [others m (by simpa using hm)]
    exact .refl _
  · rw [List.mem_singleton.1 hm, here]
    exact fun joined => after (.inl joined)
  · rw [List.mem_singleton.1 hm, here]
    exact cycle (stopped law)
  · rw [List.mem_singleton.1 hm, here]
    refine quiet fun e he st => ?_
    have runs := shows n e he st
    rw [stopped cycles] at runs
    rcases runs with c | c <;> cases c
  · rw [List.mem_singleton.1 hm]
    exact (FewerReaders.of_eq rfl rfl).unread (unread_of_out cycles law fun joined => before (.inl joined))
  · obtain ⟨cycles, shows, ⟨sends, -⟩, -⟩ := law
    have joined := joined_of_sending cycles shows ((sends x.screen x.tile).2 ⟨b, x, hx, voided, rfl, rfl⟩)
    refine ⟨fun hm => before (.inl ?_), by rw [← Hub.modScreen_buffers h n f, hx, Option.map_some]⟩
    rw [← List.mem_singleton.1 hm, joined]
  · refine addressLaw_of law.addresses (fun m hm => ?_) fun l a m row => ⟨row, ?_⟩
    · rcases eq_or_ne m n with rfl | ne
      · exact absurd (here ▸ hm) after
      · rw [others m ne] at hm ⊢
        exact ⟨hm, fun l a linked row running => ⟨linked, row, running⟩⟩
    · rcases eq_or_ne m n with rfl | ne
      · obtain ⟨-, linked⟩ := law.addresses
        obtain ⟨-, wasBound, -⟩ := linked l a m row
        rw [here]
        exact ⟨fun e => (link wasBound).trans e, fun _ => bound, fun running => ⟨running, fun home => absurd home before⟩⟩
      · rw [others m ne]
        exact ⟨id, id, fun running => ⟨running, id⟩⟩

theorem not_homed {x : Screen} {st : ScreenState} (at' : x.state = st) (joined : st ≠ .joined) (lost : st ≠ .lost) :
    ¬x.homed := by
  rintro (e | e)
  · exact joined (at'.symm.trans e)
  · exact lost (at'.symm.trans e)

theorem reportMissing_lawsKept (l : Fin 6) (h : Hub) (n : Fin 8) : LawsKept h (reportMissing l h n) := by
  refine LawsKept.ite (fun away => ?_) fun _ => .refl h
  have before : ¬h.screens[n].homed := by
    rcases away with at' | at' <;> exact not_homed at' nofun nofun
  have left : Left [n] h (setScreenState n .missing h) :=
    settled_left (setScreenState_light n (st := .missing) nofun h) before (not_homed (st := .missing) rfl nofun nofun) nofun (fun _ => rfl)
      id id
  exact left.lawsKept.trans (notify_calm _ _ _ _).lawsKept

/-- R116: what follows once a link is up. -/
theorem upFollows_lawsKept (l : Fin 6) (h : Hub) :
    LawsKept h (allRows.foldl (startSilence l) ((boundTo h l).foldl (reportMissing l) h)) :=
  (LawsKept.foldl (reportMissing_lawsKept l) _ _).trans (Calm.foldl (startSilence_calm l) _ _).lawsKept

/-! ### A link that has its answer -/

/-- While the wait for an answer runs, the link offers that address alone, and holds no other ROLL and no PARK. -/
theorem Link.rolls.offering {x : Link} {a : Fin 2} (r : x.rolls) (rolling : x.state = .rolling) (offered : x.offered = some a) :
    x.packets.filterMap Packet.rollRow = [] ∧ Packet.park ∉ x.packets ∧
      ∀ b : Fin 2, a ≤ b → x.rows[b].assignment = .unassigned := by
  obtain ⟨one, -, free, -, parks⟩ := r
  have offers : x.offers = a :: x.packets.filterMap Packet.rollRow := by rw [Link.offers, offered]; rfl
  refine ⟨?_, fun park => ?_, free a (offers ▸ .head _)⟩
  · rw [offers, List.length_cons] at one
    exact List.length_eq_zero_iff.1 (by omega)
  · cases rolling.symm.trans (parks park)

/-- A link that offers nothing and holds no PARK. -/
theorem Link.rolls.of_silent {x : Link} (silent : x.packets.filterMap Packet.rollRow = []) (park : Packet.park ∉ x.packets)
    (offered : x.offered = none) (wait : x.rollWait = none) : x.rolls := by
  have offers : x.offers = [] := by rw [Link.offers, offered, silent]; rfl
  exact ⟨by simp [offers], by simp [offers], by simp [offers], by simp [offered, wait], fun p => absurd p park⟩

/-- A rolling link that goes up when its wait ends. -/
theorem Link.Calm.goesUp {x : Link} (rolling : x.state = .rolling) (waits : x.rollWait.isSome) :
    Link.Calm x { x with state := .up, rollWait := none, offered := none } where
  assignment _ := rfl
  credit _ := rfl
  running := iff_of_true (.inr rfl) (.inl rolling)
  rolls r := by
    obtain ⟨-, -, -, offers, -⟩ := id r
    obtain ⟨a, offered⟩ := Option.isSome_iff_exists.1 (offers.1 waits)
    obtain ⟨silent, park, -⟩ := r.offering rolling offered
    exact .of_silent silent park rfl rfl

theorem endRolling_lawsKept {l : Fin 6} {h : Hub} (rolling : h.links[l].state = .rolling)
    (waits : h.links[l].rollWait.isSome) : LawsKept h (endRolling l h) := by
  have up : Calm h (h.modLink l fun k => { k with state := .up, rollWait := none, offered := none }) :=
    Calm.modLink h l (.goesUp rolling waits)
  unfold endRolling
  exact up.lawsKept.trans (upFollows_lawsKept l _)

theorem Timer.isSome_of_due {t : Timer} (due : t.due = true) : t.isSome := by
  rw [eq_of_beq due]
  rfl

theorem rollExpire_lawsKept (l : Fin 6) (h : Hub) : LawsKept h (rollExpire l h) := by
  refine LawsKept.ite (fun due => ?_) fun _ => .refl h
  obtain ⟨rolling, wait⟩ := Bool.and_eq_true _ _ ▸ due
  exact endRolling_lawsKept (eq_of_beq rolling) (Timer.isSome_of_due wait)

/-! ### A screen joins -/

/-- R113, R131: screen `n` joins at address `a` of link `l`, where nothing else has an address. -/
theorem joined_lawsKept {l : Fin 6} {a : Fin 2} {n : Fin 8} {h k : Hub} (light : Light h k)
    (others : ∀ m : Fin 8, m ≠ n → Screen.Calm h.screens[m] k.screens[m]) (before : h.screens[n].state ≠ .joined)
    (joined : k.screens[n].state = .joined) (cycle : k.screens[n].engine.cycle = some .idle)
    (absent : ∀ e ∈ k.screens[n].entries, ¬(e.state = .behind ∨ e.state = .sending)) (fewer : FewerReaders h k)
    (buffers : k.buffers = h.buffers) (row : k.links[l].rows[a].assignment = .screen n)
    (credit : k.links[l].rows[a].credit.isSome) (elsewhere : ∀ m : Fin 6, m ≠ l → k.links[m] = h.links[m])
    (otherRow : k.links[l].rows[other a] = h.links[l].rows[other a]) (running : deliveryLaws h → k.links[l].running)
    (linked : deliveryLaws h → k.screens[n].link = some l)
    (free : deliveryLaws h → h.links[l].rows[a].assignment = .unassigned ∨ h.links[l].rows[a].assignment = .screen n)
    (single : deliveryLaws h → ∀ (m : Fin 6) (b : Fin 2), h.links[m].rows[b].assignment = .screen n → m = l ∧ b = a)
    (runs : deliveryLaws h → h.links[l].running) (rolls : deliveryLaws h → k.links[l].rolls) : LawsKept h k := by
  have sameRow (m : Fin 6) (b : Fin 2) (ne : ¬(m = l ∧ b = a)) : k.links[m].rows[b] = h.links[m].rows[b] := by
    rcases eq_or_ne m l with rfl | out
    · rw [row_eq_other fun e => ne ⟨rfl, e⟩, otherRow]
    · rw [elsewhere m out]
  have cycles (law : cycleLaw h) : cycleLaw k := fun m => by
    rcases eq_or_ne m n with rfl | ne
    · rw [cycle, joined]
      exact iff_of_true rfl rfl
    · rw [(others m ne).cycle, (others m ne).state]
      exact law m
  have shows (law : showLaw h) : showLaw k := fun m => by
    rcases eq_or_ne m n with rfl | ne
    · exact fun e he st => absurd st (absent e he)
    · rw [(others m ne).cycle]
      exact running_entries_of_map (others m ne).entries
        (q := fun st => st = .behind ∨ st = .sending →
          h.screens[m].engine.cycle = some .gathering ∨ h.screens[m].engine.cycle = some .cutting) (law m)
  have carried (b : Fin 32) (m : Fin 8) (t : Nat) : carries k b m t ↔ carries h b m t := by rw [carries, carries, buffers]
  refine { light with
    readers := ?_
    delivery := fun law => ?_ }
  · rintro ⟨plates, cyclesBefore, reads⟩
    refine ⟨light.plates plates, cycles cyclesBefore, fun m => ?_⟩
    rcases eq_or_ne m n with rfl | ne
    · exact Reads.of_unread (fewer.unread (unread_of_out cyclesBefore reads before))
    · exact Reads.fewer (reads m) (others m ne).cycle (fun i j => fewer.slot i j m) fun p c => fewer.copy p c m
  obtain ⟨cyclesBefore, showsBefore, ⟨sends, alone, assigned⟩, credits, ⟨homed, addressed⟩, -⟩ := id law
  have unsent (b : Fin 32) (t : Nat) : ¬carries h b n t := fun c =>
    before (joined_of_sending cyclesBefore showsBefore ((sends n t).2 ⟨b, c⟩))
  refine ⟨cycles cyclesBefore, shows showsBefore, ⟨fun m t => ?_, fun b c m t hb hc => ?_, fun b x hx voided => ?_⟩,
    fun m l' b isJoined at' => ?_, ⟨fun m home => ?_, fun l' b m at' => ?_⟩, (rollLaw_iff k).2 fun m => ?_⟩
  · simp only [carried]
    rcases eq_or_ne m n with rfl | ne
    · refine iff_of_false (not_sending_of_quiet absent t) ?_
      rintro ⟨b, c⟩
      exact unsent b t c
    · rw [stateAt_of_map (others m ne).entries t, sends]
  · exact alone b c m t ((carried b m t).1 hb) ((carried c m t).1 hc)
  · rw [buffers] at hx
    rw [sameRow x.link x.row, assigned b x hx voided]
    rintro ⟨link, sameRow⟩
    have at' := assigned b x hx voided
    have here : h.links[l].rows[a].assignment = .screen x.screen := by simpa only [link, sameRow] using at'
    rcases free law with un | mine
    · cases un.symm.trans here
    · cases mine.symm.trans here
      exact unsent b x.tile ⟨x, hx, voided, rfl, rfl⟩
  · by_cases here : l' = l ∧ b = a
    · obtain ⟨rfl, rfl⟩ := here
      cases row.symm.trans at'
      obtain ⟨c, hc⟩ := Option.isSome_iff_exists.1 credit
      refine ⟨c, hc, ?_⟩
      rw [unvoided_eq_zero fun b t => fun c => unsent b t ((carried b n t).1 c)]
      exact Nat.zero_le c
    · rw [sameRow l' b here] at at' ⊢
      have ne : m ≠ n := by
        rintro rfl
        exact here (single law l' b at')
      obtain ⟨c, hc, enough⟩ := credits m l' b ((others m ne).state ▸ isJoined) at'
      exact ⟨c, hc, (unvoided_le fun d t => (carried d m t).1).trans enough⟩
  · rcases eq_or_ne m n with rfl | ne
    · exact ⟨l, a, linked law, row, running law⟩
    · rw [(others m ne).state] at home
      obtain ⟨l', b, link, at', runsThere⟩ := homed m home
      have out : ¬(l' = l ∧ b = a) := by
        rintro ⟨rfl, rfl⟩
        rcases free law with un | mine
        · cases un.symm.trans at'
        · cases mine.symm.trans at'
          exact ne rfl
      refine ⟨l', b, (others m ne).link.trans link, by rw [sameRow l' b out, at'], ?_⟩
      rcases eq_or_ne l' l with rfl | far
      · exact running law
      · rwa [elsewhere l' far]
  · by_cases here : l' = l ∧ b = a
    · obtain ⟨rfl, rfl⟩ := here
      cases row.symm.trans at'
      refine ⟨linked law, by rw [joined]; nofun, ?_, fun _ => .inl joined⟩
      rw [otherRow]
      intro twice
      exact ne_other b (single law l' (other b) twice).2.symm
    · rw [sameRow l' b here] at at'
      obtain ⟨link, bound, once, home⟩ := addressed l' b m at'
      have ne : m ≠ n := by
        rintro rfl
        exact here (single law l' b at')
      rw [(others m ne).link, (others m ne).state]
      refine ⟨link, bound, ?_, fun runsNow => home ?_⟩
      · by_cases there : l' = l ∧ other b = a
        · obtain ⟨rfl, rfl⟩ := there
          rw [row]
          intro same
          cases same
          exact ne rfl
        · rw [sameRow l' (other b) there]
          exact once
      · rcases eq_or_ne l' l with rfl | far
        · exact runs law
        · rwa [elsewhere l' far] at runsNow
  · rcases eq_or_ne m l with rfl | far
    · exact rolls law
    · rw [elsewhere m far]
      exact law.rolls m

end Sys2Proof.Machine

/-! O55 to O59, part 12: HELLO, STATE, and the packets of the screens. -/

namespace Sys2Proof.Machine

/-- R131: the row of a screen at home is written again; nothing offered is at stake. -/
theorem Link.rolls.rewritten {x : Link} (r : x.rolls) {a : Fin 2} (assigned : x.rows[a].assignment ≠ .unassigned)
    (f : AddressRow → AddressRow) {k : Packet} (roll : k.rollRow = none) (park : k ≠ .park) :
    ({ x with rows := upd x.rows a f, control := x.control ++ [k] } : Link).rolls := by
  obtain ⟨one, rolling, free, waits, parks⟩ := (Link.Calm.append x roll park).rolls r
  refine ⟨one, rolling, fun c hc b hb => ?_, waits, parks⟩
  have un : x.rows[b].assignment = .unassigned := free c hc b hb
  have ne : a ≠ b := by
    rintro rfl
    exact assigned un
  rw [upd_get_other _ _ ne]
  exact un

/-! ### A screen joins -/

/-- R113: a screen that has joined. -/
def Screen.joinedAt (x : Screen) : Screen :=
  { x with
    state := .joined
    entries := x.entries.map fun _ => Entry.absent
    failures := 0
    engine := { x.engine with cycle := some .idle } }

/-- R113: the link of a screen that has joined at row `a`. -/
def Link.joinedAt (a : Fin 2) (n : Fin 8) (credit value : Byte) (k : Link) : Link :=
  { k with
    rows := upd k.rows a fun r => { r with assignment := .screen n, credit := some credit.toNat }
    control := k.control ++ [.level a value] }

/-- R113: a screen joins: the parts that the laws look at. -/
theorem joinScreen_parts (l : Fin 6) (a : Fin 2) (n : Fin 8) (credit : Byte) (h : Hub) :
    (joinScreen l a n credit h).screens = upd h.screens n Screen.joinedAt ∧
      (∃ value, (joinScreen l a n credit h).links = upd h.links l (Link.joinedAt a n credit value)) ∧
      (joinScreen l a n credit h).slots = h.slots ∧ (joinScreen l a n credit h).plates = h.plates ∧
      (joinScreen l a n credit h).buffers = h.buffers := by
  refine ⟨?_, ⟨?_, ?_⟩, ?_, ?_, ?_⟩
  · simp only [joinScreen, notify_screens, handPacket_screens, Hub.modScreen_screens, allAbsent, modEntries, setScreenState,
      Hub.modRow_screens, upd_upd]
    rfl
  · exact h.screens[n].level.current
  · simp only [joinScreen, notify_links, handPacket_links, Hub.modScreen_links, Hub.modScreen_screens, allAbsent, modEntries,
      setScreenState, Hub.modRow_links, Hub.modRow_screens, upd_upd, upd_get_same]
    rfl
  · simp only [joinScreen, notify_slots, handPacket_slots, Hub.modScreen_slots, allAbsent, modEntries, setScreenState,
      Hub.modRow_slots]
  · simp only [joinScreen, notify_plates, handPacket_plates, Hub.modScreen_plates, allAbsent, modEntries, setScreenState,
      Hub.modRow_plates]
  · simp only [joinScreen, notify_buffers, handPacket_buffers, Hub.modScreen_buffers, allAbsent, modEntries, setScreenState,
      Hub.modRow_buffers]

theorem handPacket_light (l : Fin 6) (k : Packet) (h : Hub) : Light h (handPacket l k h) := .modLink h l _

theorem joinScreen_light (l : Fin 6) (a : Fin 2) (n : Fin 8) (credit : Byte) (h : Hub) :
    Light h (joinScreen l a n credit h) := by
  have row : Light h (h.modRow l a fun r => { r with assignment := .screen n, credit := some credit.toNat }) :=
    .modLink h l _
  have state := row.trans (setScreenState_light n (st := .joined) nofun _)
  have entries := state.trans (.modEntries n (fun _ => Entry.absent) _)
  have screen := entries.trans (.modScreen _ n (f := fun x =>
    { x with failures := 0, engine := { x.engine with cycle := some .idle } }) (fun _ => id) (fun _ => rfl) fun _ => id)
  unfold joinScreen
  exact screen.trans ((handPacket_light _ _ _).trans (notify_calm _ _ _ _).light)

/-- R113, R131: a screen joins; its link changes before as `f` says, and after as `g` says. -/
theorem joinScreen_lawsKept {l : Fin 6} {a : Fin 2} {n : Fin 8} {credit : Byte} {h : Hub} {f g : Link → Link}
    (before : h.screens[n].state ≠ .joined) (rowsBefore : ∀ x, (f x).rows = x.rows) (rows : ∀ x, (g x).rows = x.rows)
    (linked : deliveryLaws h → h.screens[n].link = some l)
    (free : deliveryLaws h → h.links[l].rows[a].assignment = .unassigned ∨ h.links[l].rows[a].assignment = .screen n)
    (single : deliveryLaws h → ∀ (m : Fin 6) (b : Fin 2), h.links[m].rows[b].assignment = .screen n → m = l ∧ b = a)
    (runs : deliveryLaws h → h.links[l].running)
    (running : deliveryLaws h → ∀ value, (g (Link.joinedAt a n credit value (f h.links[l]))).running)
    (rolls : deliveryLaws h → ∀ value, (g (Link.joinedAt a n credit value (f h.links[l]))).rolls) :
    LawsKept h ((joinScreen l a n credit (h.modLink l f)).modLink l g) := by
  obtain ⟨screens, ⟨value, links⟩, slots, plates, buffers⟩ := joinScreen_parts l a n credit (h.modLink l f)
  have light : Light h ((joinScreen l a n credit (h.modLink l f)).modLink l g) :=
    (Light.modLink h l f).trans ((joinScreen_light l a n credit _).trans (.modLink _ l g))
  rw [Hub.modLink_links, upd_upd] at links
  generalize joinScreen l a n credit (h.modLink l f) = k at screens links slots plates buffers light ⊢
  have screen : (k.modLink l g).screens[n] = h.screens[n].joinedAt := by
    rw [Hub.modLink_screens, screens, upd_get_same]
    rfl
  have link : (k.modLink l g).links[l] = g (Link.joinedAt a n credit value (f h.links[l])) := by
    rw [Hub.modLink_links, upd_get_same, links, upd_get_same]
  have row : (k.modLink l g).links[l].rows[a] =
      { h.links[l].rows[a] with assignment := .screen n, credit := some credit.toNat } := by
    rw [link, rows, Link.joinedAt, upd_get_same, rowsBefore]
  have otherRow : (k.modLink l g).links[l].rows[other a] = h.links[l].rows[other a] := by
    rw [link, rows, Link.joinedAt, upd_get_other _ _ (ne_other a), rowsBefore]
  refine joined_lawsKept (l := l) (a := a) (n := n) light (fun m ne => ?_) before (by rw [screen]; rfl)
    (by rw [screen]; rfl) (fun e he => ?_) (.of_eq slots plates) (by rw [Hub.modLink_buffers, buffers]; rfl) (by rw [row])
    (by rw [row]; rfl) (fun m ne => ?_) otherRow (fun law => link ▸ running law value)
    (fun law => by rw [screen]; exact linked law) free single runs fun law => link ▸ rolls law value
  · rw [Hub.modLink_screens, screens, upd_get_other _ _ ne.symm]
    exact .refl _
  · rw [screen] at he
    obtain ⟨v, -, rfl⟩ := List.mem_map.1 he
    rintro (st | st) <;> cases st
  · rw [Hub.modLink_links, upd_get_other _ _ ne.symm, links, upd_get_other _ _ ne.symm]

theorem modLink_id (h : Hub) (l : Fin 6) : h.modLink l (fun x => x) = h := by
  have same : upd h.links l (fun x => x) = h.links := by
    refine Vector.ext fun i hi => ?_
    have at' := upd_getElem h.links l ⟨i, hi⟩ fun x => x
    simpa using at'
  rw [Hub.modLink, same]

/-- R108: a screen that holds an address holds no other. -/
theorem addressLaw.single {h : Hub} (law : addressLaw h) {l m : Fin 6} {a b : Fin 2} {n : Fin 8}
    (here : h.links[l].rows[a].assignment = .screen n) (there : h.links[m].rows[b].assignment = .screen n) :
    m = l ∧ b = a := by
  obtain ⟨-, linked⟩ := law
  obtain ⟨linkHere, -, once, -⟩ := linked l a n here
  obtain ⟨linkThere, -⟩ := linked m b n there
  have link : m = l := Option.some_injective _ (linkThere.symm.trans linkHere)
  subst link
  refine ⟨rfl, ?_⟩
  by_contra ne
  exact once (row_eq_other ne ▸ there)

/-- R131: a Lost screen that answers its poll is Joined again. -/
theorem returnLost_lawsKept {l : Fin 6} {a : Fin 2} {n : Fin 8} (credit : Byte) {h : Hub}
    (row : h.links[l].rows[a].assignment = .screen n) (lost : h.screens[n].state = .lost) :
    LawsKept h (returnLost l a n credit h) := by
  have touched : Calm h (h.modRow l a fun r => { r with lostPoll := none, silence := some Config.linkSilenceTicks }) :=
    Calm.modRow h l a (fun _ => rfl) fun _ => rfl
  unfold returnLost
  generalize h.modRow l a (fun r => { r with lostPoll := none, silence := some Config.linkSilenceTicks }) = k at touched ⊢
  have rowNow : k.links[l].rows[a].assignment = .screen n := ((touched.links l).assignment a).trans row
  have lostNow : k.screens[n].state = .lost := (touched.screens n).state.trans lost
  refine touched.lawsKept.trans ?_
  have same : joinScreen l a n credit k = (joinScreen l a n credit (k.modLink l fun x => x)).modLink l fun x => x := by
    rw [modLink_id, modLink_id]
  rw [same]
  refine joinScreen_lawsKept (by rw [lostNow]; nofun) (fun _ => rfl) (fun _ => rfl) (fun law => ?_) (fun _ => .inr rowNow)
    (fun law m b there => law.addresses.single rowNow there) (fun law => ?_) (fun law _ => ?_) fun law value => ?_
  · obtain ⟨-, linked⟩ := law.addresses
    exact (linked l a n rowNow).1
  all_goals
    obtain ⟨homed, linked⟩ := law.addresses
    obtain ⟨m, b, link, -, running⟩ := homed n (.inr lostNow)
    have same : m = l := Option.some_injective _ (link.symm.trans (linked l a n rowNow).1)
    subst same
  · exact running
  · exact running
  · exact (law.rolls m).rewritten (by rw [rowNow]; nofun) _ rfl nofun

end Sys2Proof.Machine

/-! O55 to O59, part 13: the answer to a ROLL, and the packets that the screens send. -/

namespace Sys2Proof.Machine

/-! ### HELLO -/

/-- R113: a link whose wait has been answered by the screen at row `a`. -/
def Link.answered (a : Fin 2) (f : AddressRow → AddressRow) (k : Packet) (x : Link) : Link :=
  { x with rollWait := none, offered := none, rows := upd x.rows a f, control := x.control ++ [k] }

theorem Link.answered_packets (a : Fin 2) (f : AddressRow → AddressRow) (k : Packet) (x : Link) :
    (x.answered a f k).packets = x.packets ++ [k] := by
  rw [Link.packets, Link.packets, List.append_assoc]
  rfl

/-- R113: after the answer at the second address the link is up. -/
theorem Link.rolls.answeredUp {x : Link} (r : x.rolls) {a : Fin 2} (rolling : x.state = .rolling)
    (offered : x.offered = some a) (f : AddressRow → AddressRow) {k : Packet} (roll : k.rollRow = none)
    (park : k ≠ .park) : ({ x.answered a f k with state := .up, rollWait := none, offered := none } : Link).rolls := by
  obtain ⟨silent, noPark, -⟩ := r.offering rolling offered
  have packets : ({ x.answered a f k with state := .up, rollWait := none, offered := none } : Link).packets =
      x.packets ++ [k] := Link.answered_packets a f k x
  refine .of_silent ?_ (fun p => ?_) rfl rfl
  · rw [packets, List.filterMap_append, silent]
    simp [roll]
  · rw [packets, List.mem_append, List.mem_singleton] at p
    exact p.elim noPark fun e => park e.symm

/-- R113: after the answer at the first address the second is offered. -/
theorem Link.rolls.answeredRoll {x : Link} (r : x.rolls) (rolling : x.state = .rolling) (offered : x.offered = some 0)
    (f : AddressRow → AddressRow) {k : Packet} (roll : k.rollRow = none) (park : k ≠ .park) :
    ({ x.answered 0 f k with control := (x.answered 0 f k).control ++ [.roll 1] } : Link).rolls := by
  obtain ⟨silent, noPark, free⟩ := r.offering rolling offered
  have packets : ({ x.answered 0 f k with control := (x.answered 0 f k).control ++ [.roll 1] } : Link).packets =
      x.packets ++ [k] ++ [.roll 1] := by
    rw [← Link.answered_packets 0 f k x, Link.packets, Link.packets, List.append_assoc]
    rfl
  have offers : ({ x.answered 0 f k with control := (x.answered 0 f k).control ++ [.roll 1] } : Link).offers = [1] := by
    have none : [k].filterMap Packet.rollRow = [] := by rw [List.filterMap_cons, roll]; rfl
    rw [Link.offers, packets, List.filterMap_append, List.filterMap_append, silent, none]
    rfl
  refine ⟨by rw [offers]; exact le_rfl, fun _ => rolling, fun c hc b hb => ?_, by simp [Link.answered], fun p => ?_⟩
  · rw [offers, List.mem_singleton] at hc
    have second : b = 1 := by
      subst hc
      revert hb
      revert b
      decide
    subst second
    have kept : (upd x.rows 0 f)[(1 : Fin 2)] = x.rows[(1 : Fin 2)] := upd_get_other _ _ (by decide)
    exact (congrArg AddressRow.assignment kept).trans (free 1 (by decide))
  · rw [packets] at p
    simp only [List.mem_append, List.mem_singleton] at p
    rcases p with (p | p) | p
    · exact absurd p noPark
    · exact absurd p.symm park
    · cases p

/-- R113: what follows the answer at the link itself, before the screens of a link that is up are reported. -/
theorem afterHello_lawsKept {l : Fin 6} {a : Fin 2} {h k : Hub}
    (roll : a = 0 → LawsKept h (k.modLink l fun x => { x with control := x.control ++ [.roll 1] }))
    (up : LawsKept h (k.modLink l fun x => { x with state := .up, rollWait := none, offered := none })) :
    LawsKept h (afterHello l a k) := by
  refine LawsKept.ite roll fun _ => ?_
  unfold endRolling
  exact up.trans (upFollows_lawsKept l _)

/-- A screen that is at home nowhere holds no address of a link that runs, nor of any other once it is linked here. -/
theorem addressLaw.none_held {h : Hub} (law : addressLaw h) {l : Fin 6} {n : Fin 8} (link : h.screens[n].link = some l)
    (runs : h.links[l].running) (away : ¬h.screens[n].homed) (m : Fin 6) (b : Fin 2) :
    h.links[m].rows[b].assignment ≠ .screen n := by
  intro there
  obtain ⟨-, linked⟩ := law
  obtain ⟨linkThere, -, -, home⟩ := linked m b n there
  have same : m = l := Option.some_injective _ (linkThere.symm.trans link)
  subst same
  exact away (home runs)

theorem judgeHello_awaited {h : Hub} {l : Fin 6} {identity : Identity} {credit columns rows : Byte} {n : Fin 8}
    (ok : judgeHello h l identity credit columns rows = .ok n) :
    h.screens[n].link = some l ∧ (h.screens[n].state = .missing ∨ h.screens[n].state = .parked) := by
  unfold judgeHello at ok
  split at ok
  · cases ok
  · next m awaited =>
    obtain ⟨first, -⟩ := awaitedScreen_first h l identity (fun _ => Iff.rfl)
    obtain ⟨⟨link, away, -⟩, -⟩ := (first m).1 awaited
    split at ok
    · cases ok
    · split at ok
      · cases ok
      · cases ok
        exact ⟨link, away⟩

theorem joinHello_lawsKept {l : Fin 6} {a : Fin 2} {n : Fin 8} (credit : Byte) {h : Hub} {g : Link → Link}
    (rolling : h.links[l].state = .rolling) (offered : h.links[l].offered = some a)
    (link : h.screens[n].link = some l) (away : ¬h.screens[n].homed) (rows : ∀ x, (g x).rows = x.rows)
    (running : ∀ x, x.running → (g x).running)
    (rolls : ∀ f k, k.rollRow = none → k ≠ .park → h.links[l].rolls → (g (h.links[l].answered a f k)).rolls) :
    LawsKept h ((joinScreen l a n credit (h.modLink l fun k => { k with rollWait := none, offered := none })).modLink l g) :=
  joinScreen_lawsKept (fun joined => away (.inl joined)) (fun _ => rfl) rows (fun _ => link)
    (fun law => .inl (((law.rolls l).offering rolling offered).2.2 a le_rfl))
    (fun law m b there => absurd there (law.addresses.none_held link (.inl rolling) away m b)) (fun _ => .inl rolling)
    (fun _ _ => running _ (.inl rolling)) fun law _ => rolls _ _ rfl nofun (law.rolls l)

/-- R113: a stranger is given address `a`. -/
theorem admitStranger_parts (l : Fin 6) (a : Fin 2) (identity : Identity) (reason : StrangerReason)
    (credit columns rows : Byte) (h : Hub) {k : Hub} (hk : k = admitStranger l a identity reason credit columns rows h) :
    Light h k ∧ k.screens = h.screens ∧ k.slots = h.slots ∧ k.plates = h.plates ∧ k.buffers = h.buffers ∧
      k.links = upd h.links l fun x =>
        { x with
          rows := upd x.rows a fun r => { r with assignment := .stranger identity }
          control := x.control ++ [.blank a { red := 0, green := 0, blue := 0 }] } := by
  subst hk
  refine ⟨?_, ?_, ?_, ?_, ?_, ?_⟩
  · have row : Light h (h.modRow l a fun r => { r with assignment := .stranger identity }) := .modLink h l _
    unfold admitStranger
    exact row.trans ((handPacket_light _ _ _).trans (notify_calm _ _ _ _).light)
  · simp only [admitStranger, notify_screens, handPacket_screens, Hub.modRow_screens]
  · simp only [admitStranger, notify_slots, handPacket_slots, Hub.modRow_slots]
  · simp only [admitStranger, notify_plates, handPacket_plates, Hub.modRow_plates]
  · simp only [admitStranger, notify_buffers, handPacket_buffers, Hub.modRow_buffers]
  · simp only [admitStranger, notify_links, handPacket_links, Hub.modRow_links, upd_upd]

theorem admitStranger_lawsKept {l : Fin 6} {a : Fin 2} (identity : Identity) (reason : StrangerReason)
    (credit columns rows : Byte) {h : Hub} {g : Link → Link}
    (rolling : h.links[l].state = .rolling) (offered : h.links[l].offered = some a)
    (sameRows : ∀ x, (g x).rows = x.rows) (running : ∀ x, x.running → (g x).running)
    (rolls : ∀ f k, k.rollRow = none → k ≠ .park → h.links[l].rolls → (g (h.links[l].answered a f k)).rolls) :
    LawsKept h ((admitStranger l a identity reason credit columns rows
      (h.modLink l fun k => { k with rollWait := none, offered := none })).modLink l g) := by
  obtain ⟨light, screens, slots, plates, buffers, links⟩ := admitStranger_parts l a identity reason credit columns rows
    (h.modLink l fun k => { k with rollWait := none, offered := none }) rfl
  have whole := (Light.modLink h l fun k => { k with rollWait := none, offered := none }).trans light
  rw [Hub.modLink_links, upd_upd] at links
  generalize admitStranger l a identity reason credit columns rows
    (h.modLink l fun k => { k with rollWait := none, offered := none }) = k at screens slots plates buffers links whole ⊢
  have link : (k.modLink l g).links[l] = g (h.links[l].answered a (fun r => { r with assignment := .stranger identity })
      (.blank a { red := 0, green := 0, blue := 0 })) := by
    rw [Hub.modLink_links, upd_get_same, links, upd_get_same]
    rfl
  have elsewhere (m : Fin 6) (ne : m ≠ l) : (k.modLink l g).links[m] = h.links[m] := by
    rw [Hub.modLink_links, upd_get_other _ _ ne.symm, links, upd_get_other _ _ ne.symm]
  have rowHere : (k.modLink l g).links[l].rows[a].assignment = .stranger identity := by
    rw [link, sameRows, Link.answered, upd_get_same]
  have sameRow (m : Fin 6) (b : Fin 2) (ne : ¬(m = l ∧ b = a)) : (k.modLink l g).links[m].rows[b] = h.links[m].rows[b] := by
    rcases eq_or_ne m l with rfl | far
    · rw [link, sameRows, Link.answered, upd_get_other _ _ fun e => ne ⟨rfl, e.symm⟩]
    · rw [elsewhere m far]
  have assigned (m : Fin 6) (b : Fin 2) (n : Fin 8) (row : (k.modLink l g).links[m].rows[b].assignment = .screen n) :
      ¬(m = l ∧ b = a) := by
    rintro ⟨rfl, rfl⟩
    cases rowHere.symm.trans row
  have free (law : deliveryLaws h) := ((law.rolls l).offering rolling offered).2.2 a le_rfl
  have kept (law : deliveryLaws h) (m : Fin 6) (b : Fin 2) (n : Fin 8) (row : h.links[m].rows[b].assignment = .screen n) :
      (k.modLink l g).links[m].rows[b].assignment = .screen n := by
    rw [sameRow m b, row]
    rintro ⟨rfl, rfl⟩
    cases (free law).symm.trans row
  have runsNow : (k.modLink l g).links[l].running := link ▸ running _ (.inl rolling)
  have runs (m : Fin 6) : (k.modLink l g).links[m].running ↔ h.links[m].running := by
    rcases eq_or_ne m l with rfl | ne
    · exact iff_of_true runsNow (.inl rolling)
    · rw [elsewhere m ne]
  have screensNow : (k.modLink l g).screens = h.screens := screens
  have buffersNow : (k.modLink l g).buffers = h.buffers := buffers
  refine Left.lawsKept (ns := [])
    { light := whole.trans (.modLink k l g)
      others := fun m _ => by rw [screensNow]; exact .refl _
      out := nofun
      stopped := fun _ => nofun
      quiet := fun _ _ => nofun
      fewer := .of_eq slots plates
      unread := fun _ _ => nofun
      lent := fun _ b x hx _ => ⟨List.not_mem_nil, by rw [← buffersNow, hx, Option.map_some]⟩
      kept := fun b x hx _ _ _ _ => by rw [buffersNow, hx, Option.map_some]
      rows := fun law m b n row _ _ => kept law m b n row
      credit := fun m b n row => ?_
      address := fun law => ?_
      rolls := fun law m => ?_ }
  · have out := assigned m b n row
    rw [sameRow m b out] at row ⊢
    exact ⟨row, rfl⟩
  · refine addressLaw_of law.addresses (fun n hn => ?_) fun m b n row => ?_
    · rw [screensNow] at hn ⊢
      exact ⟨hn, fun m b linked row running => ⟨linked, kept law m b n row, (runs m).2 running⟩⟩
    · rw [sameRow m b (assigned m b n row)] at row
      rw [screensNow]
      exact ⟨row, id, id, fun running => ⟨(runs m).1 running, id⟩⟩
  · rcases eq_or_ne m l with rfl | ne
    · rw [link]
      exact rolls _ _ rfl nofun (law.rolls m)
    · rw [elsewhere m ne]
      exact law.rolls m

theorem helloJudged_lawsKept {l : Fin 6} {a : Fin 2} (identity : Identity) (credit columns rows : Byte) {h : Hub}
    (rolling : h.links[l].state = .rolling) (offered : h.links[l].offered = some a) :
    LawsKept h (helloJudged l a identity credit columns rows h) := by
  unfold helloJudged
  rcases hv : judgeHello h l identity credit columns rows with reason | n
  · refine afterHello_lawsKept (fun first => ?_) ?_
    · subst first
      exact admitStranger_lawsKept identity reason credit columns rows rolling offered (fun _ => rfl) (fun _ => id)
        fun f k roll park r => r.answeredRoll rolling offered f roll park
    · exact admitStranger_lawsKept identity reason credit columns rows rolling offered (fun _ => rfl)
        (fun _ _ => .inr rfl) fun f k roll park r => r.answeredUp rolling offered f roll park
  · obtain ⟨link, at'⟩ := judgeHello_awaited hv
    have away : ¬h.screens[n].homed := by
      rcases at' with at' | at' <;> exact not_homed at' nofun nofun
    refine afterHello_lawsKept (fun first => ?_) ?_
    · subst first
      exact joinHello_lawsKept credit rolling offered link away (fun _ => rfl) (fun _ => id)
        fun f k roll park r => r.answeredRoll rolling offered f roll park
    · exact joinHello_lawsKept credit rolling offered link away (fun _ => rfl)
        (fun _ _ => .inr rfl) fun f k roll park r => r.answeredUp rolling offered f roll park

/-! ### The packets of the screens -/

theorem senderOf_row {h : Hub} {l : Fin 6} {address : Byte} {a : Fin 2} {n : Fin 8}
    (sender : senderOf h l address = .screen a n) : h.links[l].rows[a].assignment = .screen n := by
  unfold senderOf at sender
  split at sender
  · cases sender
  · split at sender
    · cases sender
    · next at' =>
      cases sender
      exact at'
    · cases sender

theorem bySender_lawsKept {l : Fin 6} {address : Byte} {f : Fin 2 → Fin 8 → Hub → Hub} {h : Hub}
    (hf : ∀ a n, h.links[l].rows[a].assignment = .screen n → LawsKept h (f a n h)) : LawsKept h (bySender l address f h) := by
  unfold bySender
  split
  · exact (countStranger_calm l h).lawsKept
  · exact (protocolFault_calm _ _ _ _).lawsKept
  · next a n sender => exact hf a n (senderOf_row sender)

theorem takePacket_lawsKept {l : Fin 6} {address : Byte} {f : Hub → Hub} (hf : ∀ h, LawsKept h (f h)) (h : Hub) :
    LawsKept h (takePacket l address f h) := by
  refine LawsKept.ite (fun _ => .refl h) fun _ => LawsKept.ite (fun _ => checkFailure_lawsKept l h) fun _ => ?_
  exact (touchSilence_calm l address h).lawsKept.trans (hf _)

theorem takenTaken_lawsKept (l : Fin 6) (address : Byte) (tile : Half) (s : Signature) (h : Hub) :
    LawsKept h (takenTaken l address tile s h) := by
  unfold takenTaken
  split
  · exact (protocolFault_calm _ _ _ _).lawsKept
  · split
    · split
      · next x hx => exact takenMatched_lawsKept s hx
      · exact (countStranger_calm l h).lawsKept
    · exact (countStranger_calm l h).lawsKept
  · split
    · split
      · next x hx => exact takenMatched_lawsKept s hx
      · exact (countStray_calm l h).lawsKept
    · exact (countStray_calm l h).lawsKept

theorem countIfCheck_lawsKept (l : Fin 6) (r : RefusedReason) (h : Hub) : LawsKept h (countIfCheck l r h) :=
  LawsKept.ite (fun _ => checkFailure_lawsKept l h) fun _ => .refl h

theorem refusedTaken_lawsKept (l : Fin 6) (address : Byte) (tile : Half) (reason : Byte) (h : Hub) :
    LawsKept h (refusedTaken l address tile reason h) := by
  have answered (r : RefusedReason) (b : Fin 32) (x : Lend) (hx : h.buffers[b] = some x) :
      LawsKept h (countIfCheck l r (refusedMatched b x r h)) :=
    (refusedMatched_lawsKept r hx).trans (countIfCheck_lawsKept l r _)
  have stranger := (countStranger_calm l h).lawsKept
  unfold refusedTaken
  split
  · exact (protocolFault_calm _ _ _ _).lawsKept
  · split
    · split
      · next x hx => exact answered _ _ x hx
      · exact stranger
    · exact stranger
  · split
    · exact (protocolFault_calm _ _ _ _).lawsKept
    · next r _ =>
      have stray := (countStray_calm l h).lawsKept.trans (countIfCheck_lawsKept l r _)
      split
      · split
        · next x hx => exact answered r _ x hx
        · exact stray
      · exact stray

/-- R78: the end of a cycle that nothing is lent for. -/
theorem finishCycle_lawsKept {n : Fin 8} {h : Hub} {c : CycleState} (cycle : h.screens[n].engine.cycle = some c)
    (gathering : c ≠ .gathering) (cutting : c ≠ .cutting) : LawsKept h (finishCycle n h) := by
  have idle : LawsKept h (h.modEngine n fun e =>
      { e with cycle := some .idle, showCount := 0, showTimer := none, lossWait := false }) :=
    turn_lawsKept (d := .idle) cycle gathering cutting fun _ => rfl
  have leaves (k : Hub) : Calm k (leaveRunning n k) := .of_unwatched rfl rfl rfl rfl rfl rfl rfl rfl rfl
  unfold finishCycle
  dsimp only
  refine LawsKept.ite (fun _ => (idle.trans (leaves _).lawsKept).trans (startCycle_lawsKept ?_)) fun _ =>
    idle.trans (leaves _).lawsKept
  refine .of_cycle (c := .idle) ?_ nofun nofun
  rw [leaveRunning_screens, Hub.modEngine_screens, upd_get_same]

theorem failureClear_calm (n : Fin 8) (h : Hub) : Calm h (failureClear n h) :=
  Calm.ite (fun _ => Calm.modScreen h n ⟨rfl, rfl, rfl, rfl, id⟩) fun _ => .refl h

theorem dropTargets_calm (n : Fin 8) (h : Hub) : Calm h (dropTargets n h) :=
  Calm.modScreen h n ⟨rfl, rfl, rfl, by simp, id⟩

theorem shownMatched_lawsKept {n : Fin 8} {h : Hub} (cycle : h.screens[n].engine.cycle = some .presenting) :
    LawsKept h (shownMatched n h) := by
  have counted : Calm h (h.modScreen n fun x => { x with present := x.present + 1 }) :=
    Calm.modScreen h n ⟨rfl, rfl, rfl, rfl, id⟩
  have calm := (counted.trans (failureClear_calm n _)).trans (dropTargets_calm n _)
  refine calm.lawsKept.trans (finishCycle_lawsKept (c := .presenting) ?_ nofun nofun)
  rw [(calm.screens n).cycle, cycle]

theorem shownTaken_lawsKept (l : Fin 6) (address : Byte) (number : Half) (h : Hub) :
    LawsKept h (shownTaken l address number h) := by
  refine bySender_lawsKept fun a n _ => LawsKept.ite (fun _ => ?_) fun _ => (protocolFault_calm _ _ _ _).lawsKept
  unfold shownJoined
  dsimp only
  split
  · next presents =>
    exact LawsKept.ite (fun _ => shownMatched_lawsKept presents) fun _ => (countStray_calm l h).lawsKept
  · exact LawsKept.ite (fun _ => (countStray_calm l h).lawsKept) fun _ => (protocolFault_calm _ _ _ _).lawsKept

theorem lossTaken_lawsKept (l : Fin 6) (address : Byte) (h : Hub) : LawsKept h (lossTaken l address h) :=
  bySender_lawsKept fun _ n _ => LawsKept.ite (fun _ => lossJoined_lawsKept n h) fun _ =>
    (protocolFault_calm _ _ _ _).lawsKept

theorem noteTaken_lawsKept (l : Fin 6) (address : Byte) (payload : List Byte) (h : Hub) :
    LawsKept h (noteTaken l address payload h) :=
  bySender_lawsKept fun _ _ _ => LawsKept.ite (fun _ => (notify_calm _ _ _ _).lawsKept) fun _ =>
    (countStranger_calm l h).lawsKept

theorem unlistedTaken_lawsKept (l : Fin 6) (address : Byte) (h : Hub) : LawsKept h (unlistedTaken l address h) := by
  unfold unlistedTaken
  split
  · exact (countStranger_calm l h).lawsKept
  · exact (protocolFault_calm _ _ _ _).lawsKept
  · exact (protocolFault_calm _ _ _ _).lawsKept

theorem helloTaken_lawsKept (l : Fin 6) (address : Byte) (identity : Identity) (credit columns rows : Byte) (h : Hub) :
    LawsKept h (helloTaken l address identity credit columns rows h) := by
  unfold helloTaken
  split
  · exact (countStranger_calm l h).lawsKept
  · dsimp only
    split
    · exact (protocolFault_calm _ _ _ _).lawsKept
    · next a _ =>
      split
      · next waits => exact helloJudged_lawsKept identity credit columns rows waits.1 waits.2.2
      · exact (protocolFault_calm _ _ _ _).lawsKept

theorem stateTaken_lawsKept (l : Fin 6) (address credit : Byte) (h : Hub) : LawsKept h (stateTaken l address credit h) := by
  refine bySender_lawsKept fun a n row => ?_
  split
  · exact LawsKept.ite (fun _ => stateAnswered_lawsKept l a n h) fun _ => (countStray_calm l h).lawsKept
  · next lost =>
    exact LawsKept.ite (fun _ => returnLost_lawsKept credit row lost) fun _ => (protocolFault_calm _ _ _ _).lawsKept
  · exact (countStranger_calm l h).lawsKept
  · exact (countStray_calm l h).lawsKept
  · exact (countStray_calm l h).lawsKept

/-- R78: the end of the wait for SHOWN. -/
theorem showTimerExpire_lawsKept (n : Fin 8) (h : Hub) : LawsKept h (showTimerExpire n h) := by
  refine LawsKept.ite (fun due => ?_) fun _ => .refl h
  obtain ⟨presents, -⟩ := Bool.and_eq_true _ _ ▸ due
  have stopped : Calm h (h.modEngine n fun e => { e with showTimer := none }) := Calm.modEngine h n rfl
  dsimp only
  generalize h.modEngine n (fun e => { e with showTimer := none }) = k at stopped ⊢
  refine LawsKept.ite (fun _ => stopped.lawsKept.trans (finishCycle_lawsKept (c := .presenting) ?_ nofun nofun))
    fun _ => ?_
  · rw [(stopped.screens n).cycle, eq_of_beq presents]
  · have risen := stopped.lawsKept.trans (failureRise_lawsKept n k)
    generalize failureRise n k = m at risen ⊢
    refine LawsKept.ite (fun _ => risen) fun joined => LawsKept.ite (fun _ => ?_) fun _ => ?_
    · exact risen.trans (becomeLost_left _ (not_not.1 joined)).lawsKept
    · have shown := (handShow_calm n m).trans (Calm.modEngine _ n (f := fun e => { e with showCount := e.showCount + 1 }) rfl)
      exact risen.trans shown.lawsKept

end Sys2Proof.Machine

/-! O55 to O59, part 14: the video inputs and their slots. -/

namespace Sys2Proof.Machine

/-! ### The laws of one surface -/

/-- R14: the laws of the slots, at one input. -/
def SurfaceLaw (c : Capture) (v : Vector Slot 3) : Prop :=
  (∀ k : Fin 3, v[k].state = .filling ↔ c.filling = some k) ∧
    (∀ k : Fin 3, v[k].state = .filling → v[k].readers = ScreenSet.empty) ∧
    (c.filling.isSome ↔ c.state = .filling) ∧
    ∀ j k : Fin 3, v[j].state = .newest → v[k].state = .newest → j = k

theorem slotLaws_iff (h : Hub) : slotLaws h ↔ ∀ i : Fin 2, SurfaceLaw h.captures[i] h.slots[i] := by
  refine ⟨fun ⟨filling, newest⟩ i => ?_, fun law => ⟨fun i => ?_, fun i => ?_⟩⟩
  · obtain ⟨slot, readers, capture⟩ := filling i
    exact ⟨slot, readers, capture, newest i⟩
  · obtain ⟨slot, readers, capture, -⟩ := law i
    exact ⟨slot, readers, capture⟩
  · obtain ⟨-, -, -, newest⟩ := law i
    exact newest

/-- R14: no frame is being stored at an input, whatever its state says. -/
def Unfilled (c : Capture) (v : Vector Slot 3) : Prop :=
  c.filling = none ∧ (∀ k : Fin 3, v[k].state ≠ .filling) ∧
    ∀ j k : Fin 3, v[j].state = .newest → v[k].state = .newest → j = k

theorem SurfaceLaw.unfilled {c : Capture} {v : Vector Slot 3} (law : SurfaceLaw c v) (state : c.state ≠ .filling) :
    Unfilled c v := by
  obtain ⟨slot, -, capture, newest⟩ := law
  have none : c.filling = none := by
    by_contra some
    exact state (capture.1 (Option.isSome_iff_ne_none.2 some))
  refine ⟨none, fun k st => ?_, newest⟩
  cases none.symm.trans ((slot k).1 st)

theorem Unfilled.law {c : Capture} {v : Vector Slot 3} (u : Unfilled c v) (state : c.state ≠ .filling) :
    SurfaceLaw c v := by
  obtain ⟨none, slots, newest⟩ := u
  refine ⟨fun k => iff_of_false (slots k) ?_, fun k st => absurd st (slots k), iff_of_false ?_ state, newest⟩
  · rw [none]
    nofun
  · rw [none]
    nofun

/-- R14: an input that stores no frame may go to any state but Filling. -/
theorem Unfilled.rests {c d : Capture} {v : Vector Slot 3} (u : Unfilled c v) (filling : d.filling = c.filling)
    (state : d.state ≠ .filling) : SurfaceLaw d v := by
  obtain ⟨none, slots, newest⟩ := u
  exact Unfilled.law ⟨filling.trans none, slots, newest⟩ state

theorem Unfilled.of_filling {c d : Capture} {v : Vector Slot 3} (u : Unfilled c v) (filling : d.filling = c.filling) :
    Unfilled d v := by
  obtain ⟨none, slots, newest⟩ := u
  exact ⟨filling.trans none, slots, newest⟩

/-- R17: a torn frame frees its slot. -/
theorem SurfaceLaw.torn {c d : Capture} {v w : Vector Slot 3} (law : SurfaceLaw c v) (filling : d.filling = none)
    (stored : ∀ k, c.filling = some k → w = upd v k fun _ => Slot.free) (idle : c.filling = none → w = v) :
    Unfilled d w := by
  obtain ⟨slot, -, -, newest⟩ := law
  rcases hf : c.filling with _ | k
  · rw [idle hf]
    refine ⟨filling, fun j st => ?_, newest⟩
    cases hf.symm.trans ((slot j).1 st)
  · rw [hf] at slot
    have at' (j : Fin 3) : w[j] = if k = j then Slot.free else v[j] := stored k hf ▸ upd_get v k j _
    refine ⟨filling, fun j st => ?_, fun i j hi hj => ?_⟩
    · rw [at'] at st
      split at st
      · cases st
      · next ne => exact ne (Option.some_injective _ ((slot j).1 st))
    · rw [at'] at hi hj
      split at hi
      · cases hi
      · split at hj
        · cases hj
        · exact newest i j hi hj

/-- R14: a frame is stored in a slot that no screen reads. -/
theorem Unfilled.begins {c d : Capture} {v : Vector Slot 3} {k : Fin 3} {s : Slot} (u : Unfilled c v)
    (filling : d.filling = some k) (state : d.state = .filling) (slot : s.state = .filling)
    (readers : s.readers = ScreenSet.empty) : SurfaceLaw d (upd v k fun _ => s) := by
  obtain ⟨-, slots, newest⟩ := u
  have at' (j : Fin 3) := upd_get v k j fun _ => s
  refine ⟨fun j => ?_, fun j st => ?_, by simp [filling, state], fun i j hi hj => ?_⟩
  · rw [at', filling]
    split
    · next same => exact iff_of_true slot (congrArg some same)
    · next ne => exact iff_of_false (slots j) fun e => ne (Option.some_injective _ e)
  · rw [at'] at st ⊢
    split at st
    · next same => rw [if_pos same, readers]
    · exact absurd st (slots j)
  · rw [at'] at hi hj
    split at hi
    · cases slot.symm.trans hi
    · split at hj
      · cases slot.symm.trans hj
      · exact newest i j hi hj

theorem superseded_state (s : Slot) : s.superseded.state ≠ .newest ∧
    (s.superseded.state = .filling ↔ s.state = .filling) := by
  unfold Slot.superseded
  split
  · next newest =>
    rw [newest]
    split
    · exact ⟨nofun, nofun, nofun⟩
    · exact ⟨nofun, nofun, nofun⟩
  · next other => exact ⟨other, Iff.rfl⟩

theorem superseded_readers (s : Slot) (n : Fin 8) : s.superseded.readers[n] = true → s.readers[n] = true := by
  unfold Slot.superseded
  split
  · split
    · intro r
      exact absurd r (by simp [Slot.free, ScreenSet.empty])
    · exact id
  · exact id

/-- R16: the frame stored becomes the Newest, and the one before is Newest no more. -/
theorem SurfaceLaw.closes {c d : Capture} {v : Vector Slot 3} {k : Fin 3} {f : Slot → Slot} (law : SurfaceLaw c v)
    (was : c.filling = some k) (filling : d.filling = none) (state : d.state ≠ .filling)
    (newest : ∀ s, (f s).state = .newest) : SurfaceLaw d (upd (v.map Slot.superseded) k f) := by
  obtain ⟨slot, -, -, -⟩ := law
  have at' (j : Fin 3) : (upd (v.map Slot.superseded) k f)[j] =
      if k = j then f (v[j]).superseded else (v[j]).superseded := by
    rw [upd_get]
    simp
  refine Unfilled.law ⟨filling, fun j st => ?_, fun i j hi hj => ?_⟩ state
  · rw [at'] at st
    split at st
    · cases (newest _).symm.trans st
    · next ne =>
      have stored := (slot j).1 ((superseded_state _).2.1 st)
      exact ne (Option.some_injective _ (was.symm.trans stored))
  · rw [at'] at hi hj
    split at hi
    · next same =>
      split at hj
      · next same' => exact same.symm.trans same'
      · exact absurd hj (superseded_state _).1
    · exact absurd hi (superseded_state _).1

/-! ### Operations at one input -/

/-- An operation at input `i`: nothing but its capture, its slots and the notices changes, and no screen begins to read
a slot. -/
structure AtInput (i : Fin 2) (h k : Hub) : Prop where
  captures : ∀ j : Fin 2, j ≠ i → k.captures[j] = h.captures[j]
  slots : ∀ j : Fin 2, j ≠ i → k.slots[j] = h.slots[j]
  readers : ∀ (j : Fin 3) (n : Fin 8), k.slots[i][j].readers[n] = true → h.slots[i][j].readers[n] = true
  plates : k.plates = h.plates
  screens : k.screens = h.screens
  buffers : k.buffers = h.buffers
  links : k.links = h.links
  dram : k.dram = h.dram
  portA : h.portA.bounded → k.portA.bounded
  portB : h.portB.bounded → k.portB.bounded

namespace AtInput

theorem refl (i : Fin 2) (h : Hub) : AtInput i h h :=
  ⟨fun _ _ => rfl, fun _ _ => rfl, fun _ _ => id, rfl, rfl, rfl, rfl, rfl, id, id⟩

theorem trans {i : Fin 2} {h k m : Hub} (a : AtInput i h k) (b : AtInput i k m) : AtInput i h m where
  captures j ne := (b.captures j ne).trans (a.captures j ne)
  slots j ne := (b.slots j ne).trans (a.slots j ne)
  readers j n r := a.readers j n (b.readers j n r)
  plates := b.plates.trans a.plates
  screens := b.screens.trans a.screens
  buffers := b.buffers.trans a.buffers
  links := b.links.trans a.links
  dram := b.dram.trans a.dram
  portA p := b.portA (a.portA p)
  portB p := b.portB (a.portB p)

theorem modCapture (i : Fin 2) (h : Hub) (f : Capture → Capture) : AtInput i h (h.modCapture i f) :=
  { refl i h with captures := fun _ ne => upd_get_other _ _ ne.symm }

theorem of_slots (i : Fin 2) (h : Hub) {f : Vector Slot 3 → Vector Slot 3}
    (readers : ∀ (j : Fin 3) (n : Fin 8), (f h.slots[i])[j].readers[n] = true → h.slots[i][j].readers[n] = true) :
    AtInput i h { h with slots := upd h.slots i f } :=
  { refl i h with
    slots := fun _ ne => upd_get_other _ _ ne.symm
    readers := fun j n => by
      rw [show ({ h with slots := upd h.slots i f } : Hub).slots[i] = f h.slots[i] from upd_get_same _ _ _]
      exact readers j n }

theorem modSlot (i : Fin 2) (k : Fin 3) (h : Hub) {f : Slot → Slot}
    (readers : ∀ n : Fin 8, (f h.slots[i][k]).readers[n] = true → h.slots[i][k].readers[n] = true) :
    AtInput i h (h.modSlot i k f) :=
  of_slots i h (upd_all (v := h.slots[i]) (f := f)
    (fun j (s : Slot) => ∀ n : Fin 8, s.readers[n] = true → h.slots[i][j].readers[n] = true) (fun _ _ => id)
    fun _ => readers)

theorem notify (i : Fin 2) (ports : List Port) (k : NoticeKind) (body : List Byte) (h : Hub) :
    AtInput i h (notify ports k body h) :=
  { refl i h with
    captures := by simp only [notify_captures, implies_true]
    slots := by simp only [notify_slots, implies_true]
    readers := by simp only [notify_slots, imp_self, implies_true]
    plates := notify_plates _ _ _ _
    screens := notify_screens _ _ _ _
    buffers := notify_buffers _ _ _ _
    links := notify_links _ _ _ _
    dram := notify_dram _ _ _ _
    portA := (notify_calm _ _ _ _).portA
    portB := (notify_calm _ _ _ _).portB }

/-- An operation at one input that keeps the law there keeps every law. -/
theorem calm {i : Fin 2} {h k : Hub} (a : AtInput i h k)
    (law : SurfaceLaw h.captures[i] h.slots[i] → SurfaceLaw k.captures[i] k.slots[i]) : Calm h k where
  dram := a.dram ▸ id
  slots laws := (slotLaws_iff k).2 fun j => by
    rcases eq_or_ne j i with rfl | ne
    · exact law ((slotLaws_iff h).1 laws j)
    · rw [a.captures j ne, a.slots j ne]
      exact (slotLaws_iff h).1 laws j
  slotReaders j m n := by
    rcases eq_or_ne j i with rfl | ne
    · exact a.readers m n
    · rw [a.slots j ne]
      exact id
  plates := by simp only [plateLaw, a.plates, imp_self]
  copyReaders p c n := by rw [a.plates]; exact id
  screens n := by rw [a.screens]; exact .refl _
  buffers b := by rw [a.buffers]
  links l := by rw [a.links]; exact .refl _
  portA := a.portA
  portB := a.portB

end AtInput

theorem unread_readers {s : Slot} (empty : s.readers = ScreenSet.empty) (n : Fin 8) {p : Prop} :
    s.readers[n] = true → p := by
  rw [empty, ScreenSet.empty_get]
  nofun

theorem tear_atInput (i : Fin 2) (r : TearReason) (h : Hub) : AtInput i h (tear i r h) := by
  have freed : AtInput i h (match h.captures[i].filling with
      | some k => h.modSlot i k fun _ => Slot.free
      | none => h) := by
    split
    · exact .modSlot i _ h fun n => unread_readers rfl n
    · exact .refl i h
  unfold tear
  exact freed.trans ((AtInput.modCapture i _ _).trans (.notify i _ _ _ _))

theorem tear_unfilled (i : Fin 2) (r : TearReason) {h : Hub} (law : SurfaceLaw h.captures[i] h.slots[i]) :
    Unfilled (tear i r h).captures[i] (tear i r h).slots[i] := by
  refine law.torn ?_ (fun k filling => ?_) fun idle => ?_
  · rw [tear, notify_captures, Hub.modCapture_captures, upd_get_same]
  · simp only [tear, notify_slots, Hub.modCapture_slots, filling, Hub.modSlot_slots, upd_get_same]
  · simp only [tear, notify_slots, Hub.modCapture_slots, idle]

theorem beginFilling_atInput (i : Fin 2) (k : Fin 3) (h : Hub) : AtInput i h (beginFilling i k h) :=
  (AtInput.modSlot i k h fun n => unread_readers rfl n).trans (.modCapture i _ _)

theorem dropFrame_atInput (i : Fin 2) (h : Hub) : AtInput i h (dropFrame i h) := by
  have dropped := AtInput.modCapture i h fun c => { c with state := .waiting, drops := c.drops + 1, dropArmed := false }
  unfold dropFrame
  dsimp only
  split
  · exact dropped.trans (.notify i _ _ _ _)
  · exact dropped

theorem acceptFrame_atInput (i : Fin 2) (h : Hub) : AtInput i h (acceptFrame i h) := by
  have timed := AtInput.modCapture i h fun c => { c with silence := some Config.silenceTicks }
  unfold acceptFrame
  dsimp only
  split
  · exact timed.trans (beginFilling_atInput i _ _)
  · exact timed.trans (dropFrame_atInput i _)

theorem dropFrame_captures (i : Fin 2) (h : Hub) :
    (dropFrame i h).captures =
      upd h.captures i fun c => { c with state := .waiting, drops := c.drops + 1, dropArmed := false } := by
  unfold dropFrame
  dsimp only
  split
  · rw [notify_captures, Hub.modCapture_captures]
  · rfl

theorem dropFrame_slots (i : Fin 2) (h : Hub) : (dropFrame i h).slots = h.slots := by
  unfold dropFrame
  dsimp only
  split
  · rw [notify_slots, Hub.modCapture_slots]
  · rfl

/-- R15: a frame that starts is stored in a free slot, or dropped. -/
theorem acceptFrame_law {i : Fin 2} {h : Hub} (u : Unfilled h.captures[i] h.slots[i]) :
    SurfaceLaw (acceptFrame i h).captures[i] (acceptFrame i h).slots[i] := by
  have timed : Unfilled (h.modCapture i fun c => { c with silence := some Config.silenceTicks }).captures[i]
      (h.modCapture i fun c => { c with silence := some Config.silenceTicks }).slots[i] := by
    rw [Hub.modCapture_captures, upd_get_same]
    exact u.of_filling rfl
  unfold acceptFrame
  dsimp only
  generalize h.modCapture i (fun c => { c with silence := some Config.silenceTicks }) = k at timed ⊢
  split
  · unfold beginFilling
    dsimp only
    rw [Hub.modCapture_captures, upd_get_same, Hub.modCapture_slots, Hub.modSlot_slots, upd_get_same]
    exact timed.begins rfl rfl rfl rfl
  · rw [dropFrame_captures, dropFrame_slots, upd_get_same]
    exact timed.rests rfl nofun

theorem sendSilent_atInput (i : Fin 2) (condition : Byte) (h : Hub) : AtInput i h (sendSilent i condition h) :=
  .notify i _ _ _ _

theorem frameStarts_calm (i : Fin 2) (h : Hub) : Calm h (frameStarts i h) := by
  unfold frameStarts
  split
  · exact .refl h
  · next waiting =>
    exact (acceptFrame_atInput i h).calm fun law => acceptFrame_law (law.unfilled (by rw [waiting]; nofun))
  · exact ((tear_atInput i _ h).trans (acceptFrame_atInput i _)).calm fun law => acceptFrame_law (tear_unfilled i _ law)
  · next silent =>
    refine ((sendSilent_atInput i 1 h).trans (acceptFrame_atInput i _)).calm fun law => acceptFrame_law ?_
    rw [sendSilent, notify_captures, notify_slots]
    exact law.unfilled (by rw [silent]; nofun)

/-- A torn frame leaves the input in a state other than Filling. -/
theorem tear_law {i : Fin 2} (r : TearReason) {f : Capture → Capture} {h : Hub} (filling : ∀ c, (f c).filling = c.filling)
    (state : ∀ c, (f c).state ≠ .filling) (law : SurfaceLaw h.captures[i] h.slots[i]) :
    SurfaceLaw ((tear i r h).modCapture i f).captures[i] ((tear i r h).modCapture i f).slots[i] := by
  rw [Hub.modCapture_captures, upd_get_same]
  exact (tear_unfilled i r law).rests (filling _) (state _)

theorem tornWaiting_calm (i : Fin 2) (r : TearReason) (h : Hub) : Calm h (setInput i .waiting (tear i r h)) :=
  ((tear_atInput i r h).trans (.modCapture i _ _)).calm fun law => tear_law r (fun _ => rfl) (fun _ => nofun) law

theorem writeLine_wf (i : Fin 2) (k : Fin 3) (w y : Nat) (pixels : List Colour) {m : Memory} (wf : m.wf = true) :
    (writeLine i k w y pixels m).wf = true := by
  unfold writeLine
  generalize List.range w = cs
  induction cs generalizing m with
  | nil => exact wf
  | cons c cs ih => exact ih (Memory.writeBytes_wf wf _ _)

/-- R18: what a line writes into its slot and its capture leaves the laws of the surface as they are. -/
theorem SurfaceLaw.same {c d : Capture} {v w : Vector Slot 3} (law : SurfaceLaw c v) (filling : d.filling = c.filling)
    (state : d.state = c.state) (slots : ∀ k : Fin 3, w[k].state = v[k].state ∧ w[k].readers = v[k].readers) :
    SurfaceLaw d w := by
  obtain ⟨slot, readers, capture, newest⟩ := law
  refine ⟨fun k => ?_, fun k => ?_, by rw [filling, state, capture], fun j k => ?_⟩
  · rw [(slots k).1, filling, slot]
  · rw [(slots k).1, (slots k).2]
    exact readers k
  · rw [(slots j).1, (slots k).1]
    exact newest j k

theorem acceptLine_calm (i : Fin 2) (k : Fin 3) (w : Nat) (pixels : List Colour) (h : Hub) :
    Calm h (acceptLine i k w pixels h) := by
  have written : Calm h { h with dram := writeLine i k w h.captures[i].lines pixels h.dram } :=
    Calm.of_dram (writeLine_wf i k w _ pixels)
  unfold acceptLine
  dsimp only
  generalize ({ h with dram := writeLine i k w h.captures[i].lines pixels h.dram } : Hub) = g at written ⊢
  refine Calm.ite (fun _ => written.trans ?_) fun _ => written.trans ?_
  · refine AtInput.calm ((AtInput.modSlot i k g fun n => ?_).trans (.modCapture i _ _)) fun law => ?_
    · exact id
    · rw [Hub.modCapture_captures, upd_get_same, Hub.modCapture_slots, Hub.modSlot_slots, upd_get_same]
      exact law.same rfl rfl (upd_all (fun j (s : Slot) => s.state = g.slots[i][j].state ∧ s.readers = g.slots[i][j].readers)
        (fun _ => ⟨rfl, rfl⟩) id)
  · refine AtInput.calm (.modCapture i _ _) fun law => ?_
    rw [Hub.modCapture_captures, upd_get_same]
    exact law.same rfl rfl fun _ => ⟨rfl, rfl⟩

theorem lineEnds_calm (i : Fin 2) (pixels : List Colour) (h : Hub) : Calm h (lineEnds i pixels h) := by
  unfold lineEnds
  split
  · exact Calm.ite (fun _ => tornWaiting_calm i _ h) fun _ => Calm.ite (fun _ => tornWaiting_calm i _ h) fun _ =>
      acceptLine_calm i _ _ pixels h
  · exact .refl h

theorem closeFrame_calm {i : Fin 2} {k : Fin 3} {h : Hub} (filling : h.captures[i].filling = some k) :
    Calm h (closeFrame i k h) := by
  have superseded : AtInput i h { h with slots := upd h.slots i fun v => v.map Slot.superseded } :=
    .of_slots i h fun j n r => superseded_readers _ n (by simpa using r)
  unfold closeFrame
  dsimp only
  refine AtInput.calm (superseded.trans ((AtInput.modSlot i k _ fun n => ?_).trans (.modCapture i _ _))) fun law => ?_
  · exact id
  · rw [Hub.modCapture_captures, upd_get_same, Hub.modCapture_slots, Hub.modSlot_slots, upd_get_same, upd_get_same]
    exact law.closes filling rfl nofun fun _ => rfl

theorem frameEnds_calm (i : Fin 2) (h : Hub) : Calm h (frameEnds i h) := by
  unfold frameEnds
  split
  · next k z filling _ => exact Calm.ite (fun _ => closeFrame_calm filling) fun _ => tornWaiting_calm i _ h
  · exact .refl h

theorem becomeSilent_atInput (i : Fin 2) (h : Hub) : AtInput i h (becomeSilent i h) :=
  (AtInput.modCapture i h _).trans (sendSilent_atInput i 0 _)

theorem becomeSilent_law {i : Fin 2} {h : Hub} (u : Unfilled h.captures[i] h.slots[i]) :
    SurfaceLaw (becomeSilent i h).captures[i] (becomeSilent i h).slots[i] := by
  rw [becomeSilent, sendSilent, notify_captures, notify_slots, Hub.modCapture_captures, upd_get_same]
  exact u.rests rfl nofun

theorem inputSilenceExpire_calm (i : Fin 2) (h : Hub) : Calm h (inputSilenceExpire i h) := by
  refine Calm.ite (fun _ => Calm.ite (fun _ => ?_) fun other => ?_) fun _ => .refl h
  · exact ((tear_atInput i _ h).trans (becomeSilent_atInput i _)).calm fun law => becomeSilent_law (tear_unfilled i _ law)
  · exact (becomeSilent_atInput i h).calm fun law => becomeSilent_law (law.unfilled other)

theorem enableSameSize_calm (i : Fin 2) (p : Port) (h : Hub) : Calm h (enableSameSize i p h) := by
  refine Calm.ite (fun off => ?_) fun _ => ?_
  · refine AtInput.calm (.modCapture i h _) fun law => ?_
    rw [beginWaiting, Hub.modCapture_captures, upd_get_same]
    exact (law.unfilled (by rw [off]; nofun)).rests rfl nofun
  · refine AtInput.calm (.modCapture i h _) fun law => ?_
    rw [Hub.modCapture_captures, upd_get_same]
    exact law.same rfl rfl fun _ => ⟨rfl, rfl⟩

theorem disableInput_calm (i : Fin 2) (h : Hub) : Calm h (disableInput i h) := by
  unfold disableInput
  dsimp only
  split
  · exact ((tear_atInput i _ h).trans (.modCapture i _ _)).calm fun law => tear_law _ (fun _ => rfl) (fun _ => nofun) law
  · next other =>
    refine AtInput.calm (.modCapture i h _) fun law => ?_
    rw [Hub.modCapture_captures, upd_get_same]
    exact (law.unfilled other).rests rfl nofun

/-- R19: a surface of another size has free slots only. -/
theorem resize_calm (i : Fin 2) (p : Port) (z : Size) (h : Hub) : Calm h (resize i p z h) := by
  have torn : AtInput i h (if h.captures[i].state = .filling then tear i .resize h else h) := by
    split
    · exact tear_atInput i _ h
    · exact .refl i h
  have unfilled (law : SurfaceLaw h.captures[i] h.slots[i]) :
      (if h.captures[i].state = .filling then tear i .resize h else h).captures[i].filling = none := by
    split
    · exact (tear_unfilled i _ law).1
    · next other => exact (law.unfilled other).1
  unfold resize
  dsimp only
  generalize (if h.captures[i].state = .filling then tear i .resize h else h) = k at torn unfilled ⊢
  have free : AtInput i k { k with slots := k.slots.set i (Vector.replicate 3 Slot.free) } :=
    .of_slots i k (f := fun _ => Vector.replicate 3 Slot.free) fun j n => unread_readers (by simp [Slot.free]) n
  have slots : ({ k with slots := k.slots.set i (Vector.replicate 3 Slot.free) } : Hub).slots[i] =
      Vector.replicate 3 Slot.free := by simp
  have captures : ({ k with slots := k.slots.set i (Vector.replicate 3 Slot.free) } : Hub).captures = k.captures := rfl
  generalize ({ k with slots := k.slots.set i (Vector.replicate 3 Slot.free) } : Hub) = g at free slots captures ⊢
  refine (torn.trans (free.trans ((AtInput.modCapture i _ _).trans (.modCapture i _ _)))).calm fun law => ?_
  rw [Hub.modCapture_captures, Hub.modCapture_captures, upd_upd, upd_get_same, Hub.modCapture_slots,
    Hub.modCapture_slots, slots, captures]
  refine Unfilled.law ⟨unfilled law, fun j => ?_, fun i j hi => ?_⟩ nofun
  · simp [Slot.free]
  · simp [Slot.free] at hi

end Sys2Proof.Machine

/-! O55 to O59, part 15: the plates, and the reception of bytes. -/

namespace Sys2Proof.Machine

/-! ### Plates -/

/-- R23: the law of the copies, at one plate. -/
def Plate.lawful (x : Plate) : Prop :=
  ∀ c : Fin 2,
    (x.copies[c].state = .loading ∨ x.copies[c].state = .committing → x.live ≠ some c) ∧
    (x.copies[c].state = .loading ∨ x.copies[c].state = .committing ∨ x.copies[c].state = .empty →
      x.copies[c].readers = ScreenSet.empty) ∧
    (x.live = some c → x.copies[c].state = .live)

theorem plateLaw_iff (h : Hub) : plateLaw h ↔ ∀ p : Fin 16, h.plates[p].lawful :=
  ⟨fun law p c => law p c _ rfl, fun law p c _ hx => hx ▸ law p c⟩

/-- A plate changes; no screen begins to read it. -/
theorem Calm.modPlate (h : Hub) (p : Fin 16) {f : Plate → Plate} (law : h.plates[p].lawful → (f h.plates[p]).lawful)
    (readers : ∀ (c : Fin 2) (n : Fin 8),
      (f h.plates[p]).copies[c].readers[n] = true → h.plates[p].copies[c].readers[n] = true) :
    Calm h (h.modPlate p f) :=
  { Calm.refl h with
    plates := fun laws => (plateLaw_iff _).2 (upd_all (v := h.plates) (f := f) (fun _ x => x.lawful)
      ((plateLaw_iff h).1 laws) fun _ => law ((plateLaw_iff h).1 laws p))
    copyReaders := upd_all (v := h.plates) (f := f) (fun q (x : Plate) => ∀ (c : Fin 2) (n : Fin 8),
      x.copies[c].readers[n] = true → h.plates[q].copies[c].readers[n] = true) (fun _ _ _ => id) fun _ => readers }

/-- A copy changes in what no law looks at, or as its plate allows. -/
theorem Calm.modCopy (h : Hub) (p : Fin 16) (c : Fin 2) {f : PlateCopy → PlateCopy}
    (readers : ∀ x, (f x).readers = x.readers)
    (state : h.plates[p].lawful → (f h.plates[p].copies[c]).state = h.plates[p].copies[c].state ∨
      (h.plates[p].copies[c].state = .empty ∨ h.plates[p].copies[c].state = .loading) ∧
        h.plates[p].live ≠ some c ∧
        ((f h.plates[p].copies[c]).state = .loading ∨ (f h.plates[p].copies[c]).state = .committing)) :
    Calm h (h.modCopy p c f) := by
  refine Calm.modPlate h p (fun law => ?_) ?_
  · refine upd_all (v := h.plates[p].copies) (i := c) (f := f) (fun d (x : PlateCopy) =>
      (x.state = .loading ∨ x.state = .committing → h.plates[p].live ≠ some d) ∧
      (x.state = .loading ∨ x.state = .committing ∨ x.state = .empty → x.readers = ScreenSet.empty) ∧
      (h.plates[p].live = some d → x.state = .live)) law fun here => ?_
    obtain ⟨loading, empty, live⟩ := here
    rw [readers]
    rcases state law with same | ⟨was, notLive, -⟩
    · rw [same]
      exact ⟨loading, empty, live⟩
    · refine ⟨fun _ => notLive, fun _ => empty ?_, fun e => absurd e notLive⟩
      rcases was with e | e
      · exact .inr (.inr e)
      · exact .inl e
  · refine upd_all (v := h.plates[p].copies) (i := c) (f := f) (fun d (x : PlateCopy) => ∀ n : Fin 8,
      x.readers[n] = true → h.plates[p].copies[d].readers[n] = true) (fun _ _ => id) fun _ n => ?_
    rw [readers]
    exact id

theorem Calm.modCopy_same (h : Hub) (p : Fin 16) (c : Fin 2) {f : PlateCopy → PlateCopy}
    (readers : ∀ x, (f x).readers = x.readers) (state : ∀ x, (f x).state = x.state) : Calm h (h.modCopy p c f) :=
  Calm.modCopy h p c readers fun _ => .inl (state _)

/-- R21: the copy that a plate is loaded into is not its live one. -/
theorem workCopy_ne_live (x : Plate) : x.live ≠ some (workCopy x) := by
  unfold workCopy
  rcases x.live with _ | c
  · nofun
  · exact fun e => ne_other c (Option.some_injective _ e)

theorem superseded_copy (x : PlateCopy) :
    x.superseded.readers = ScreenSet.empty ∧ x.superseded.state = .empty ∨
      x.superseded.readers = x.readers ∧ x.superseded.state = .retired := by
  unfold PlateCopy.superseded
  split
  · exact .inl ⟨rfl, rfl⟩
  · exact .inr ⟨rfl, rfl⟩

theorem superseded_copy_readers (x : PlateCopy) (n : Fin 8) : x.superseded.readers[n] = true → x.readers[n] = true := by
  rcases superseded_copy x with ⟨empty, -⟩ | ⟨same, -⟩
  · rw [empty, ScreenSet.empty_get]
    nofun
  · rw [same]
    exact id

theorem upd_congr {α : Type} {m : Nat} {v : Vector α m} {i : Fin m} {f g : α → α} (e : f v[i] = g v[i]) :
    upd v i f = upd v i g := by
  rw [upd, upd, e]

/-- R22: a plate that goes live with its work copy. -/
def Plate.committed (table : List (Option Signature)) (size : Option Size) (x : Plate) : Plate :=
  { x with
    copies := upd (match x.live with
      | some old => upd x.copies old PlateCopy.superseded
      | none => x.copies) (workCopy x) fun y => { y with state := .live, signatures := table }
    live := some (workCopy x), size := size, version := x.version + 1 }

theorem commitCopy_eq (pl : Fin 16) (h : Hub) :
    commitCopy pl h = h.modPlate pl (Plate.committed
      (copySignatures h.dram pl (workCopy h.plates[pl])
        (((h.plates[pl].copies[workCopy h.plates[pl]].size).map Size.tiles).getD 0))
      h.plates[pl].copies[workCopy h.plates[pl]].size) := by
  unfold commitCopy
  dsimp only
  rcases hl : h.plates[pl].live with _ | old
  all_goals
    simp only [Hub.modPlate, Hub.modCopy, upd_upd]
    refine congrArg (fun v => ({ h with plates := v } : Hub)) (upd_congr ?_)
    simp only [Plate.committed, hl]

theorem Plate.committed_live (table : List (Option Signature)) (size : Option Size) (x : Plate) :
    (x.committed table size).copies[workCopy x].state = .live := by
  rw [Plate.committed, upd_get_same]

theorem Plate.committed_other (table : List (Option Signature)) (size : Option Size) (x : Plate) {c : Fin 2}
    (ne : workCopy x ≠ c) : (x.committed table size).copies[c] =
      if x.live = some c then x.copies[c].superseded else x.copies[c] := by
  rw [Plate.committed, upd_get_other _ _ ne]
  rcases hl : x.live with _ | old
  · rfl
  · rw [upd_get]
    simp only [Option.some.injEq]

theorem commitCopy_calm (pl : Fin 16) (h : Hub) : Calm h (commitCopy pl h) := by
  rw [commitCopy_eq]
  generalize copySignatures h.dram pl (workCopy h.plates[pl])
    (((h.plates[pl].copies[workCopy h.plates[pl]].size).map Size.tiles).getD 0) = table
  generalize h.plates[pl].copies[workCopy h.plates[pl]].size = size
  have live : (h.plates[pl].committed table size).live = some (workCopy h.plates[pl]) := rfl
  refine Calm.modPlate h pl (fun law c => ?_) fun c n => ?_
  · rw [live]
    rcases eq_or_ne (workCopy h.plates[pl]) c with rfl | ne
    · rw [Plate.committed_live]
      exact ⟨by simp, by simp, fun _ => rfl⟩
    · rw [Plate.committed_other table size _ ne]
      refine ⟨fun _ e => ne (Option.some_injective _ e), fun st => ?_, fun e => absurd (Option.some_injective _ e) ne⟩
      split at st
      · next old =>
        rw [if_pos old]
        rcases superseded_copy h.plates[pl].copies[c] with ⟨empty, -⟩ | ⟨-, retired⟩
        · exact empty
        · rw [retired] at st
          rcases st with st | st | st <;> cases st
      · next other =>
        rw [if_neg other]
        exact (law c).2.1 st
  · rcases eq_or_ne (workCopy h.plates[pl]) c with rfl | ne
    · rw [Plate.committed, upd_get_same]
      rcases hl : h.plates[pl].live with _ | old
      · exact id
      · rw [upd_get_other]
        · exact id
        · rintro rfl
          exact workCopy_ne_live _ hl
    · rw [Plate.committed_other table size _ ne]
      split
      · exact superseded_copy_readers _ n
      · exact id

end Sys2Proof.Machine

/-! O55 to O59, part 16: the bytes and the frames of the ports. -/

namespace Sys2Proof.Machine

theorem modPort_modPort (h : Hub) (p : Port) (f g : PortState → PortState) :
    (h.modPort p f).modPort p g = h.modPort p fun x => g (f x) := by
  cases p <;> rfl

theorem modPort_modCopy (h : Hub) (p : Port) (f : PortState → PortState) (pl : Fin 16) (c : Fin 2)
    (g : PlateCopy → PlateCopy) : (h.modPort p f).modCopy pl c g = (h.modCopy pl c g).modPort p f := by
  cases p <;> rfl

/-! ### What keeps the bounds of a port -/

namespace PortState

/-- R159: the plate data that is being received is the request in handling. -/
def throughHandled (x : PortState) : Prop :=
  ∀ r pl c t, x.receiver = .receiving r → r.through = some (.accepted pl c t) →
    ∃ tag tile, x.handling = some (.plateData tag pl tile)

theorem bounded_iff (x : PortState) : x.bounded ↔
    x.input.length ≤ Config.inputCapacity ∧ x.replies.length + x.reserved ≤ Config.replyCapacity ∧
      x.notices.length ≤ Config.noticeCapacity ∧ x.throughHandled := Iff.rfl

theorem hunt_bounded {x : PortState} (b : x.bounded) : x.hunt.bounded := by
  obtain ⟨input, replies, notices, -⟩ := b
  exact ⟨input, replies, notices, fun _ _ _ _ => nofun⟩

theorem reportError_bounded {x : PortState} (e : ErrorClass) (b : x.bounded) : (x.reportError e).bounded := by
  unfold reportError
  split
  · exact PortState.offer_bounded _ _ _ b
  · exact b

theorem countError_bounded {x : PortState} (e : ErrorClass) (b : x.bounded) : (x.countError e).bounded := by
  cases e <;> exact b

theorem huntError_bounded {x : PortState} (e : ErrorClass) (b : x.hunt.bounded) :
    ((x.hunt.countError e).reportError e).bounded :=
  reportError_bounded e (countError_bounded e b)

theorem queueReply_bounded {x : PortState} (kind tag : Byte) (r : Result) (data : List Byte) (room : 0 < x.freePlaces)
    (b : x.bounded) : (x.queueReply kind tag r data).bounded := by
  obtain ⟨input, -, notices, through⟩ := b
  refine ⟨input, ?_, notices, through⟩
  have same : (x.queueReply kind tag r data).reserved = x.reserved := rfl
  have length : (x.queueReply kind tag r data).replies.length = x.replies.length + 1 := by
    simp [queueReply]
  rw [same, length]
  unfold freePlaces at room
  omega

/-- R159: the reply to plate data takes the place kept for it. -/
theorem answered_bounded {x : PortState} {r : Reception} {pl : Fin 16} {c : Fin 2} {t : Nat} (kind tag : Byte) (res : Result)
    (data : List Byte) (receiver : x.receiver = .receiving r) (through : r.through = some (.accepted pl c t))
    (b : x.bounded) : ({ x.queueReply kind tag res data with handling := none } : PortState).hunt.bounded := by
  obtain ⟨input, replies, notices, handled⟩ := b
  obtain ⟨tag', tile, handling⟩ := handled r pl c t receiver through
  refine ⟨input, ?_, notices, fun _ _ _ _ => nofun⟩
  have place : x.reserved = 1 := by rw [reserved, handling]
  rw [place] at replies
  have length : (({ x.queueReply kind tag res data with handling := none } : PortState).hunt).replies.length =
      x.replies.length + 1 := by simp [queueReply, hunt]
  rw [length]
  exact replies

end PortState

theorem lineError_calm (p : Port) (e : ErrorClass) (h : Hub) : Calm h (lineError p e h) :=
  Calm.modPort h p fun b => PortState.huntError_bounded e (PortState.hunt_bounded b)

theorem hunt_calm (p : Port) (h : Hub) : Calm h (h.modPort p PortState.hunt) := Calm.modPort h p PortState.hunt_bounded

theorem modCopy_port (h : Hub) (pl : Fin 16) (c : Fin 2) (f : PlateCopy → PlateCopy) (p : Port) :
    (h.modCopy pl c f).port p = h.port p := by
  cases p <;> rfl

/-- R28: plate data is answered, and the receiver hunts again; `g` is what the end of the frame does besides. -/
theorem answerData_calm {p : Port} {pl : Fin 16} {c : Fin 2} {tile : Nat} {h : Hub} {r : Reception} {t : Nat}
    (damage : Option Byte) (receiver : (h.port p).receiver = .receiving r) (through : r.through = some (.accepted pl c t))
    {g : PortState → PortState} (keeps : ∀ x : PortState, x.hunt.bounded → (g x).bounded) :
    Calm h ((answerData p pl c tile damage h).modPort p g) := by
  unfold answerData setHandling reply
  cases damage
  all_goals
    dsimp only
    rw [modPort_modPort, modPort_modPort]
    exact Calm.modPort h p fun b => keeps _ (PortState.answered_bounded _ _ _ _ receiver through b)

theorem tile_calm (h : Hub) (pl : Fin 16) (c : Fin 2) (f g : PlateCopy → TileSet) :
    Calm h (h.modCopy pl c fun x => { x with written := f x, damaged := g x }) :=
  Calm.modCopy_same h pl c (fun _ => rfl) fun _ => rfl

theorem abandon_calm {p : Port} (e : ErrorClass) {r : Reception} {h : Hub} (receiver : (h.port p).receiver = .receiving r) :
    Calm h (abandon p e r h) := by
  have error (x : PortState) (b : x.hunt.bounded) := PortState.huntError_bounded e b
  have broken (pl : Fin 16) (c : Fin 2) (t : Nat) (reason : Byte) (through : r.through = some (.accepted pl c t)) :
      Calm h (lineError p e (dataBroken p pl c t reason h)) :=
    (tile_calm h pl c _ _).trans
      (answerData_calm _ (by rw [modCopy_port]; exact receiver) through error)
  unfold abandon
  dsimp only
  split
  · next pl c t through =>
    cases e
    · exact broken pl c t _ through
    · exact broken pl c t _ through
    · exact lineError_calm p _ h
    · exact (tile_calm h pl c _ _).trans (answerData_calm _ (by rw [modCopy_port]; exact receiver) through error)
    · exact lineError_calm p _ h
  · exact lineError_calm p e h
  · exact lineError_calm p e h

theorem dropped_calm (p : Port) (h : Hub) : Calm h (h.modPort p fun x => { x with dropped := x.dropped + 1 }) :=
  Calm.modPort h p id

theorem reply_calm {p : Port} {h : Hub} (kind tag : Byte) (r : Result) (data : List Byte) (room : 0 < (h.port p).freePlaces) :
    Calm h (reply p kind tag r data h) :=
  Calm.modPort h p (PortState.queueReply_bounded kind tag r data room)

theorem arrival_calm (p : Port) (f : Frame) (h : Hub) : Calm h (arrival p f h) := by
  unfold arrival
  dsimp only
  refine Calm.ite (fun waits => ?_) fun _ => Calm.ite (fun room => ?_) fun _ => dropped_calm p h
  · refine Calm.modPort h p fun b => ?_
    obtain ⟨-, replies, notices, through⟩ := b
    refine ⟨?_, replies, notices, through⟩
    rw [List.length_append, List.length_singleton]
    exact waits
  · exact (reply_calm _ _ _ _ room).trans (Calm.modPort _ p id)

/-! ### Bytes -/

/-- A reception goes on as the one before, or takes no plate data. -/
theorem setReception_calm {p : Port} {r : Reception} {h : Hub}
    (through : ∀ pl c t, r.through = some (.accepted pl c t) → (h.port p).bounded →
      ∃ tag tile, (h.port p).handling = some (.plateData tag pl tile)) : Calm h (setReception p r h) := by
  refine Calm.modPort h p fun b => ?_
  obtain ⟨input, replies, notices, handled⟩ := id b
  refine ⟨input, replies, notices, fun r' pl c t here accepted => ?_⟩
  cases here
  exact through pl c t accepted b

theorem goesOn_calm {p : Port} {r r' : Reception} {h : Hub} (receiver : (h.port p).receiver = .receiving r)
    (through : r'.through = r.through) : Calm h (setReception p r' h) :=
  setReception_calm fun pl c t accepted b => by
    obtain ⟨-, -, -, handled⟩ := b
    exact handled r pl c t receiver (through ▸ accepted)

theorem nextBody_through (r : Reception) : r.nextBody.through = r.through := by
  unfold Reception.nextBody
  split <;> rfl

theorem takeHeader_calm {p : Port} {tag plate tile : Byte} {h : Hub} (next : WriteThrough → Reception)
    (through : ∀ w, (next w).through = some w) :
    Calm h (setReception p (next (takeHeader p tag plate tile h).1) (takeHeader p tag plate tile h).2) := by
  unfold takeHeader
  rcases hv : judgeHeader p plate tile h with _ | res | ⟨pl, c, t⟩
  · refine (dropped_calm p h).trans (setReception_calm fun pl c t accepted => ?_)
    cases (through _).symm.trans accepted
  · have room : 0 < (h.port p).freePlaces := by
      by_contra full
      unfold judgeHeader at hv
      dsimp only at hv
      rw [if_pos (by omega)] at hv
      cases hv
    refine (reply_calm _ _ _ _ room).trans (setReception_calm fun pl c t accepted => ?_)
    cases (through _).symm.trans accepted
  · have free : 0 < (h.port p).freePlaces ∧ (h.port p).handling = none := by
      unfold judgeHeader at hv
      dsimp only at hv
      split at hv
      · cases hv
      · next room =>
        split at hv
        · cases hv
        · next idle => exact ⟨by omega, by simp at idle; exact idle.1.2⟩
    obtain ⟨room, idle⟩ := free
    have handled : Calm h (setHandling p (some (.plateData tag pl tile)) h) := by
      refine Calm.modPort h p fun b => ?_
      obtain ⟨input, replies, notices, handled⟩ := b
      refine ⟨input, ?_, notices, fun r' pl' c' t' here accepted => ?_⟩
      · have before : (h.port p).reserved = 0 := by rw [PortState.reserved, idle]
        have after : ({ h.port p with handling := some (.plateData tag pl tile) } : PortState).reserved = 1 := rfl
        rw [after]
        unfold PortState.freePlaces at room
        dsimp only
        omega
      · obtain ⟨_, _, none⟩ := handled r' pl' c' t' here accepted
        cases idle.symm.trans none
    refine handled.trans (setReception_calm fun pl' c' t' accepted _ => ?_)
    cases (through _).symm.trans accepted
    exact ⟨tag, tile, by rw [setHandling, Hub.modPort_port_same]⟩

theorem throughByte_calm {p : Port} (b : Byte) {r : Reception} {h : Hub} (receiver : (h.port p).receiver = .receiving r) :
    Calm h (throughByte p b r h) := by
  unfold throughByte
  refine Calm.ite (fun _ => ?_) fun _ => Calm.ite (fun _ => Calm.ite (fun _ => ?_) fun _ => abandon_calm _ receiver) fun _ => ?_
  · exact goesOn_calm receiver (nextBody_through _)
  · exact takeHeader_calm (fun w => ({ r.cover b with through := some w } : Reception).nextBody)
      fun w => nextBody_through _
  · dsimp only
    split
    · next pl c t through =>
      have written : Calm h (writePixel pl c t (r.got - 3) b h) := Calm.of_dram fun wf => Memory.write_wf wf _ _
      refine written.trans (goesOn_calm (r := r) ?_ (nextBody_through _))
      rw [← receiver]
      cases p <;> rfl
    · exact goesOn_calm receiver (nextBody_through _)
    · exact goesOn_calm receiver (nextBody_through _)

theorem frameEndsAt_calm {p : Port} (b : Byte) {r : Reception} {h : Hub} (receiver : (h.port p).receiver = .receiving r) :
    Calm h (frameEndsAt p b r h) := by
  unfold frameEndsAt
  refine Calm.ite (fun _ => ?_) fun _ => abandon_calm _ receiver
  dsimp only
  split
  · next pl c t through =>
    unfold dataGood answerData setHandling reply
    dsimp only
    rw [modPort_modCopy, modPort_modPort, modPort_modPort]
    refine (tile_calm h pl c _ _).trans (Calm.modPort _ p fun b => ?_)
    exact PortState.answered_bounded _ _ _ _ (by rw [modCopy_port]; exact receiver) through b
  · exact hunt_calm p h
  · exact (hunt_calm p h).trans (arrival_calm p _ _)

theorem receiveByte_calm {p : Port} (b : Byte) {r : Reception} {h : Hub} (receiver : (h.port p).receiver = .receiving r) :
    Calm h (receiveByte p b r h) := by
  unfold receiveByte
  split
  · exact Calm.ite (fun _ => goesOn_calm receiver rfl) fun _ => Calm.ite (fun _ => abandon_calm _ receiver) fun _ =>
      goesOn_calm receiver rfl
  · exact Calm.ite (fun _ => abandon_calm _ receiver) fun _ => goesOn_calm receiver rfl
  · exact goesOn_calm receiver rfl
  · exact Calm.ite (fun _ => throughByte_calm b receiver) fun _ => goesOn_calm receiver (nextBody_through _)
  · exact Calm.ite (fun _ => goesOn_calm receiver rfl) fun _ => frameEndsAt_calm b receiver

theorem byteArrives_calm (p : Port) (b : Byte) (good : Bool) (h : Hub) : Calm h (byteArrives p b good h) := by
  unfold byteArrives
  refine Calm.ite (fun _ => .refl h) fun _ => ?_
  split
  · exact Calm.ite (fun _ => setReception_calm fun _ _ _ => nofun) fun _ => .refl h
  · next r receiver => exact Calm.ite (fun _ => receiveByte_calm b receiver) fun _ => abandon_calm _ receiver

theorem plateDataArrives_calm (p : Port) (tag plate tile headerCheck : Byte) (h : Hub) :
    Calm h (plateDataArrives p tag plate tile headerCheck h) :=
  Calm.ite (fun _ => (hunt_calm p h).trans (Calm.foldl (fun h b => byteArrives_calm p b true h) _ _)) fun _ => .refl h

theorem plateDataEnds_calm (p : Port) (b : Byte) (h : Hub) : Calm h (plateDataEnds p b h) := by
  unfold plateDataEnds
  split
  · exact .refl h
  · exact Calm.ite (fun _ => byteArrives_calm p b true h) fun _ => .refl h

theorem lineFaults_calm (p : Port) (f : LineFault) (h : Hub) : Calm h (lineFaults p f h) := by
  unfold lineFaults
  split
  · exact .refl h
  · next r receiver => exact Calm.ite (fun _ => abandon_calm _ receiver) fun _ => .refl h

theorem gapExpire_calm (p : Port) (h : Hub) : Calm h (gapExpire p h) := by
  unfold gapExpire
  split
  · exact .refl h
  · next r receiver => exact Calm.ite (fun _ => abandon_calm _ receiver) fun _ => .refl h

end Sys2Proof.Machine

/-! O55 to O59, part 17: a slot is bound and unbound. -/

namespace Sys2Proof.Machine

/-! ### The pool -/

theorem poolLaw_of_le {h k : Hub} (length : ∀ n : Fin 8, k.screens[n].entries.length ≤ h.screens[n].entries.length)
    (unbound : ∀ n : Fin 8, k.screens[n].state = .unbound → h.screens[n].state = .unbound ∨ k.screens[n].entries = [])
    (law : poolLaw h) : poolLaw k := by
  obtain ⟨total, empty⟩ := law
  refine ⟨(List.sum_le_sum fun n _ => length n).trans total, fun n hn => ?_⟩
  rcases unbound n hn with was | now
  · have none := length n
    rw [empty n was] at none
    exact List.length_eq_zero_iff.1 (Nat.le_zero.1 none)
  · exact now

/-- A sum in which one term of a list without repetitions rises. -/
theorem sum_map_raise {α : Type} {f g : α → Nat} {a : α} {d : Nat} {l : List α} (nodup : l.Nodup) (mem : a ∈ l)
    (here : g a = f a + d) (others : ∀ b, b ≠ a → g b = f b) : (l.map g).sum = (l.map f).sum + d := by
  induction l with
  | nil => cases mem
  | cons b l ih =>
    obtain ⟨new, nodup⟩ := List.nodup_cons.1 nodup
    rw [List.map_cons, List.map_cons, List.sum_cons, List.sum_cons]
    by_cases same : b = a
    · have rest : l.map g = l.map f := List.map_congr_left fun c hc => others c fun e => new (same ▸ e ▸ hc)
      rw [rest, same, here]
      omega
    · rw [ih nodup ((List.mem_cons.1 mem).resolve_left (Ne.symm same)), others b same]
      omega

/-! ### Binding -/

/-- R38, R40: a free slot is bound, within the pool. -/
theorem bound_lawsKept {p : Port} {n : Fin 8} {l : Fin 6} {identity : Identity} {z : Size} {fill : Colour} {h : Hub}
    (unbound : h.screens[n].state = .unbound) (room : z.tiles ≤ freeEntries h) :
    LawsKept h (h.modScreen n fun _ => Screen.bind p l identity z fill) := by
  have here : (h.modScreen n fun _ => Screen.bind p l identity z fill).screens[n] = Screen.bind p l identity z fill := by
    rw [Hub.modScreen_screens, upd_get_same]
  have others (m : Fin 8) (ne : m ≠ n) :
      (h.modScreen n fun _ => Screen.bind p l identity z fill).screens[m] = h.screens[m] := by
    rw [Hub.modScreen_screens, upd_get_other _ _ ne.symm]
  have light : Light h (h.modScreen n fun _ => Screen.bind p l identity z fill) := by
    refine { Light.refl h with seized := fun law m => ?_, pool := fun law => ?_ }
    · rcases eq_or_ne m n with rfl | ne
      · rw [here]
        nofun
      · rw [others m ne]
        exact law m
    · obtain ⟨total, empty⟩ := law
      refine ⟨?_, fun m hm => ?_⟩
      · rw [sum_map_raise (f := fun m => h.screens[m].entries.length) allScreens_nodup (mem_allScreens n) (d := z.tiles)]
        · unfold freeEntries at room
          omega
        · rw [here, empty n unbound]
          simp [Screen.bind]
        · intro m ne
          rw [others m ne]
      · rcases eq_or_ne m n with rfl | ne
        · rw [here] at hm
          cases hm
        · rw [others m ne] at hm ⊢
          exact empty m hm
  refine Left.lawsKept (settled_left light (not_homed unbound nofun nofun) (not_homed (st := .missing) rfl nofun nofun)
    nofun (fun bound => absurd unbound bound) (fun _ => rfl) fun _ e he => ?_)
  obtain rfl := List.eq_of_mem_replicate he
  rintro (st | st) <;> cases st

/-! ### Unbinding -/

theorem blankScreen_screens (n : Fin 8) (h : Hub) : (blankScreen n h).screens = h.screens := by
  unfold blankScreen
  split <;> rfl

theorem blankScreen_buffers (n : Fin 8) (h : Hub) : (blankScreen n h).buffers = h.buffers := by
  unfold blankScreen
  split <;> rfl

theorem blankScreen_calm (n : Fin 8) (h : Hub) : Calm h (blankScreen n h) := by
  unfold blankScreen
  split
  · exact Calm.handPacket _ h rfl nofun
  · exact .refl h

theorem disowned_row (n : Fin 8) (identity : Identity) (r : AddressRow) :
    r.assignment = .screen n ∧ (r.disown n identity).assignment = .stranger identity ∨
      r.assignment ≠ .screen n ∧ r.disown n identity = r := by
  unfold AddressRow.disown
  split
  · next here => exact .inl ⟨here, rfl⟩
  · next other => exact .inr ⟨other, rfl⟩

/-- R41: the row of a slot that is unbound goes to a stranger; what is offered stays free. -/
theorem Link.rolls.disowned {x : Link} (r : x.rolls) (n : Fin 8) (identity : Identity) :
    ({ x with rows := x.rows.map (AddressRow.disown n identity) } : Link).rolls := by
  obtain ⟨one, rolling, free, waits, parks⟩ := r
  refine ⟨one, rolling, fun a ha b hb => ?_, waits, parks⟩
  have un : x.rows[b].assignment = .unassigned := free a ha b hb
  have at' : (x.rows.map (AddressRow.disown n identity))[b] = (x.rows[b]).disown n identity := by simp
  rw [at']
  rcases disowned_row n identity x.rows[b] with ⟨here, -⟩ | ⟨-, same⟩
  · cases un.symm.trans here
  · rw [same, un]

/-- What is done of the screen of a slot before the slot is free. -/
structure Freed (n : Fin 8) (h k : Hub) : Prop where
  light : Light h k
  others : ∀ m : Fin 8, m ≠ n → k.screens[m] = h.screens[m]
  links : ∀ l : Fin 6, Link.Calm h.links[l] k.links[l]
  fewer : FewerReaders h k
  unread : cycleLaw h → readerLaw h → Unread k n
  lent : deliveryLaws h → ∀ (b : Fin 32) (x : Lend), k.buffers[b] = some x → x.voided = false →
    x.screen ≠ n ∧ h.buffers[b] = some x
  kept : ∀ (b : Fin 32) (x : Lend), h.buffers[b] = some x → x.screen ≠ n → k.buffers[b] = some x

theorem abort_screens_other (n : Fin 8) (h : Hub) {m : Fin 8} (ne : m ≠ n) : (abort n h).screens[m] = h.screens[m] :=
  (abort_aborted n h).others m ne

/-- R41: a Joined screen is aborted and blanked, any other leaves its link. -/
theorem freed_of_unbind (n : Fin 8) (h : Hub) :
    Freed n h (if h.screens[n].state = .joined then blankScreen n (abort n h) else abortAtLink n h) := by
  split
  · obtain ⟨slots, plates⟩ := abort_sources n h
    have blank := blankScreen_calm n (abort n h)
    have screens := blankScreen_screens n (abort n h)
    have same : FewerReaders (abort n h) (blankScreen n (abort n h)) := ⟨blank.slotReaders, blank.copyReaders⟩
    have buffers := blankScreen_buffers n (abort n h)
    refine
      { light := (abort_light n h).trans blank.light
        others := fun m ne => by rw [screens, abort_screens_other n h ne]
        links := fun l => (abort_link_calm n h l).trans (blank.links l)
        fewer := ((FewerReaders.leaveSources n h).trans (.of_eq slots plates)).trans same
        unread := fun _ _ => same.unread ((FewerReaders.of_eq slots plates).unread (leaveSources_unread n h))
        lent := fun _ b x hx voided => ?_
        kept := fun b x hx ne => ?_ }
    · rw [buffers, abort_buffers] at hx
      obtain ⟨was, ne⟩ := voidedLend_some hx voided
      exact ⟨ne, was⟩
    · rw [buffers, abort_buffers, hx, voidedLend_other ne]
  · next out =>
    obtain ⟨slots, plates, buffers⟩ : (abortAtLink n h).slots = h.slots ∧ (abortAtLink n h).plates = h.plates ∧
        (abortAtLink n h).buffers = h.buffers := by
      unfold abortAtLink
      split <;> exact ⟨rfl, rfl, rfl⟩
    refine
      { light := abortAtLink_light n h
        others := fun m _ => by rw [abortAtLink_screens]
        links := abortAtLink_calm n h
        fewer := .of_eq slots plates
        unread := fun cycles law => (FewerReaders.of_eq slots plates).unread (unread_of_out cycles law out)
        lent := fun law b x hx voided => ?_
        kept := fun b x hx _ => by rw [buffers, hx] }
    rw [buffers] at hx
    obtain ⟨cycles, shows, ⟨sends, -⟩, -⟩ := law
    have joined := joined_of_sending cycles shows ((sends x.screen x.tile).2 ⟨b, x, hx, voided, rfl, rfl⟩)
    exact ⟨fun e => out (e ▸ joined), hx⟩

/-- R41: the slot is free: its row is a stranger's, and the slot is as after a reset. -/
def unboundHub (n : Fin 8) (identity : Identity) (h : Hub) : Hub :=
  ({ leaveRunning n h with
      links := (leaveRunning n h).links.map fun (k : Link) => { k with rows := k.rows.map (AddressRow.disown n identity) } } :
    Hub).modScreen n Screen.unbound

theorem unboundHub_screens (n : Fin 8) (identity : Identity) (h : Hub) :
    (unboundHub n identity h).screens = upd h.screens n Screen.unbound := rfl

theorem unboundHub_link (n : Fin 8) (identity : Identity) (h : Hub) (l : Fin 6) :
    (unboundHub n identity h).links[l] = { h.links[l] with rows := h.links[l].rows.map (AddressRow.disown n identity) } := by
  simp only [unboundHub, leaveRunning, Hub.modScreen_links, Fin.getElem_fin, Vector.getElem_map]

theorem unboundHub_light (n : Fin 8) (identity : Identity) (h : Hub) : Light h (unboundHub n identity h) := by
  have here : (unboundHub n identity h).screens[n] = (h.screens[n]).unbound := by
    rw [unboundHub_screens, upd_get_same]
  have others (m : Fin 8) (ne : m ≠ n) : (unboundHub n identity h).screens[m] = h.screens[m] := by
    rw [unboundHub_screens, upd_get_other _ _ ne.symm]
  refine ⟨id, id, id, fun law m => ?_, poolLaw_of_le (fun m => ?_) fun m hm => ?_, id, id⟩
  · rcases eq_or_ne m n with rfl | ne
    · rw [here]
      nofun
    · rw [others m ne]
      exact law m
  · rcases eq_or_ne m n with rfl | ne
    · rw [here]
      exact Nat.zero_le _
    · rw [others m ne]
  · rcases eq_or_ne m n with rfl | ne
    · rw [here]
      exact .inr rfl
    · exact .inl (others m ne ▸ hm)

theorem unboundHub_lawsKept {n : Fin 8} (identity : Identity) {h k : Hub} (freed : Freed n h k) :
    LawsKept h (unboundHub n identity k) := by
  have here : (unboundHub n identity k).screens[n] = (k.screens[n]).unbound := by
    rw [unboundHub_screens, upd_get_same]
  have others (m : Fin 8) (ne : m ≠ n) : (unboundHub n identity k).screens[m] = h.screens[m] := by
    rw [unboundHub_screens, upd_get_other _ _ ne.symm, freed.others m ne]
  have rowAt (l : Fin 6) (a : Fin 2) :
      (unboundHub n identity k).links[l].rows[a] = (k.links[l].rows[a]).disown n identity := by
    rw [unboundHub_link]
    simp
  have assigned (l : Fin 6) (a : Fin 2) (m : Fin 8)
      (row : (unboundHub n identity k).links[l].rows[a].assignment = .screen m) :
      m ≠ n ∧ h.links[l].rows[a].assignment = .screen m ∧
        (unboundHub n identity k).links[l].rows[a].credit = h.links[l].rows[a].credit := by
    rw [rowAt] at row ⊢
    rcases disowned_row n identity k.links[l].rows[a] with ⟨-, stranger⟩ | ⟨other, same⟩
    · cases stranger.symm.trans row
    · rw [same] at row ⊢
      refine ⟨?_, ((freed.links l).assignment a).symm.trans row, (freed.links l).credit a⟩
      rintro rfl
      exact other row
  have keeps (l : Fin 6) (a : Fin 2) (m : Fin 8) (ne : m ≠ n) (row : h.links[l].rows[a].assignment = .screen m) :
      (unboundHub n identity k).links[l].rows[a].assignment = .screen m := by
    rw [← (freed.links l).assignment a] at row
    rw [rowAt]
    rcases disowned_row n identity k.links[l].rows[a] with ⟨mine, -⟩ | ⟨-, same⟩
    · cases row.symm.trans mine
      exact absurd rfl ne
    · rw [same, row]
  have runs (l : Fin 6) : (unboundHub n identity k).links[l].running ↔ h.links[l].running := by
    rw [unboundHub_link]
    exact (freed.links l).running
  refine Left.lawsKept (ns := [n])
    { light := freed.light.trans (unboundHub_light n identity k)
      others := fun m hm => by rw [others m (by simpa using hm)]; exact .refl _
      out := fun m hm => ?_
      stopped := fun _ m hm => ?_
      quiet := fun _ _ m hm => ?_
      fewer := freed.fewer.trans (.of_eq rfl rfl)
      unread := fun cycles law m hm => ?_
      lent := fun law b x hx voided => ?_
      kept := fun b x hx _ hn _ _ => ?_
      rows := fun _ l a m row _ hn => keeps l a m (by simpa using hn) row
      credit := fun l a m row => (assigned l a m row).2
      address := fun law => addressLaw_of law.addresses (fun m hm => ?_) fun l a m row => ?_
      rolls := fun law l => ?_ }
  · rw [List.mem_singleton.1 hm, here]
    nofun
  · rw [List.mem_singleton.1 hm, here]
    rfl
  · rw [List.mem_singleton.1 hm, here]
    exact fun e he => absurd he List.not_mem_nil
  · rw [List.mem_singleton.1 hm]
    exact (FewerReaders.of_eq rfl rfl).unread (freed.unread cycles law)
  · obtain ⟨ne, was⟩ := freed.lent law b x hx voided
    exact ⟨by simpa using ne, by rw [was, Option.map_some]⟩
  · have same : (unboundHub n identity k).buffers[b] = k.buffers[b] := rfl
    rw [same, freed.kept b x hx (by simpa using hn), Option.map_some]
  · have ne : m ≠ n := by
      rintro rfl
      rw [here] at hm
      exact not_homed (st := .unbound) rfl nofun nofun hm
    rw [others m ne] at hm ⊢
    exact ⟨hm, fun l a linked row running => ⟨linked, keeps l a m ne row, (runs l).2 running⟩⟩
  · obtain ⟨ne, row, -⟩ := assigned l a m row
    rw [others m ne]
    exact ⟨row, id, id, fun running => ⟨(runs l).1 running, id⟩⟩
  · rw [unboundHub_link]
    exact ((freed.links l).rolls (law.rolls l)).disowned n identity

theorem unbindScreen_lawsKept (n : Fin 8) (h : Hub) : LawsKept h (unbindScreen n h).hub :=
  unboundHub_lawsKept _ (freed_of_unbind n h)

end Sys2Proof.Machine

/-! O55 to O59, part 18: the requests. Each keeps the laws, and leaves the place of its reply. -/

namespace Sys2Proof.Machine

/-! ### The replies of a port -/

/-- An operation that answers no request and takes none in handling. -/
def Unanswered (h k : Hub) : Prop :=
  ∀ p, (k.port p).replies = (h.port p).replies ∧ (k.port p).handling = (h.port p).handling

namespace Unanswered

theorem refl (h : Hub) : Unanswered h h := fun _ => ⟨rfl, rfl⟩

theorem trans {h k m : Hub} (a : Unanswered h k) (b : Unanswered k m) : Unanswered h m := fun p =>
  ⟨(b p).1.trans (a p).1, (b p).2.trans (a p).2⟩

theorem of_ports {h k : Hub} (portA : k.portA = h.portA) (portB : k.portB = h.portB) : Unanswered h k := fun p => by
  cases p
  · exact ⟨congrArg PortState.replies portA, congrArg PortState.handling portA⟩
  · exact ⟨congrArg PortState.replies portB, congrArg PortState.handling portB⟩

theorem of_rest {h k : Hub} (rest : Rest h k) : Unanswered h k := by
  rw [Rest] at rest
  rw [rest]
  exact of_ports rfl rfl

theorem foldl {α : Type} {f : Hub → α → Hub} (hf : ∀ h a, Unanswered h (f h a)) (l : List α) (h : Hub) :
    Unanswered h (l.foldl f h) := by
  induction l generalizing h with
  | nil => exact refl h
  | cons a l ih => exact (hf h a).trans (ih _)

theorem ite {c : Prop} [Decidable c] {h a b : Hub} (ha : Unanswered h a) (hb : Unanswered h b) :
    Unanswered h (if c then a else b) := by
  split
  · exact ha
  · exact hb

theorem modPort (p : Port) {f : PortState → PortState} (replies : ∀ x, (f x).replies = x.replies)
    (handling : ∀ x, (f x).handling = x.handling) (h : Hub) : Unanswered h (h.modPort p f) := fun q => by
  cases p <;> cases q
  · exact ⟨replies _, handling _⟩
  · exact ⟨rfl, rfl⟩
  · exact ⟨rfl, rfl⟩
  · exact ⟨replies _, handling _⟩

theorem notify (ports : List Port) (k : NoticeKind) (body : List Byte) (h : Hub) :
    Unanswered h (notify ports k body h) := by
  obtain ⟨na, la, nb, lb, eq⟩ := notify_only ports k body h
  rw [eq]
  rintro (_ | _) <;> exact ⟨rfl, rfl⟩

end Unanswered

theorem tear_unanswered (i : Fin 2) (r : TearReason) (h : Hub) : Unanswered h (tear i r h) := by
  unfold tear
  refine .trans ?_ (.notify _ _ _ _)
  split <;> exact .of_ports rfl rfl

theorem dropScreens_rest (l : Fin 6) (h : Hub) : Rest h (dropScreens l h) := by
  refine Rest.foldl (fun h n => ?_) _ h
  split
  · exact (abort_rest n h).trans (modScreen_rest n _ _)
  · exact .refl h

theorem clearLink_unanswered (l : Fin 6) (h : Hub) (g : Link → Link) :
    Unanswered h ((dropScreens l (freeLinkBuffers l h)).modLink l g) :=
  .trans (.trans (.of_ports rfl rfl) (.of_rest (dropScreens_rest l (freeLinkBuffers l h)))) (.of_ports rfl rfl)

theorem resetLink_unanswered (l : Fin 6) (cap : LinkRate) (h : Hub) : Unanswered h (resetLink l cap h) := by
  unfold resetLink
  split
  · exact .of_ports rfl rfl
  · exact clearLink_unanswered l h _
  · exact clearLink_unanswered l h _
  · exact clearLink_unanswered l h _
  · exact clearLink_unanswered l h _
  · exact .of_ports rfl rfl
  · exact .of_ports rfl rfl
  · exact .of_ports rfl rfl

theorem takeWake_unanswered (l : Fin 6) (h : Hub) : Unanswered h (takeWake l h) := by
  have told := Unanswered.notify (linkPorts h l) .wake [byteOfFin l] h
  unfold takeWake
  dsimp only
  generalize notify (linkPorts h l) .wake [byteOfFin l] h = k at told ⊢
  exact .ite (told.trans (.of_ports rfl rfl)) told

theorem leaveSources_unanswered (n : Fin 8) (h : Hub) : Unanswered h (leaveSources n h) := .of_ports rfl rfl

theorem setCycle_unanswered (n : Fin 8) (c : CycleState) (h : Hub) : Unanswered h (setCycle n c h) := .of_ports rfl rfl

theorem dropTargets_unanswered (n : Fin 8) (h : Hub) : Unanswered h (dropTargets n h) := .of_ports rfl rfl

theorem startCycle_unanswered (n : Fin 8) (h : Hub) : Unanswered h (startCycle n h) := by
  obtain ⟨k, walked, eq⟩ := startCycle_walked n h
  have ports : Unanswered h k := .of_ports walked.portA walked.portB
  rw [eq]
  exact .ite (ports.trans (setCycle_unanswered n _ k)) (ports.trans ((leaveSources_unanswered n k).trans
    ((dropTargets_unanswered n _).trans (setCycle_unanswered n _ _))))

theorem seizeCycle_unanswered (n : Fin 8) (h : Hub) : Unanswered h (seizeCycle n h) := by
  unfold seizeCycle
  split
  · exact startCycle_unanswered n h
  · exact .of_ports rfl rfl
  · exact .refl h
  · exact startCycle_unanswered n h
  · exact .of_ports rfl rfl
  · exact .refl h

theorem blankScreen_rest (n : Fin 8) (h : Hub) : Rest h (blankScreen n h) := by
  unfold blankScreen
  split <;> rfl

theorem unbindScreen_unanswered (n : Fin 8) (h : Hub) : Unanswered h (unbindScreen n h).hub := by
  have freed : Unanswered h (if h.screens[n].state = .joined then blankScreen n (abort n h) else abortAtLink n h) :=
    .ite (.of_rest ((abort_rest n h).trans (blankScreen_rest n _))) (.of_rest (abortAtLink_rest n h))
  exact freed.trans (.of_ports rfl rfl)

theorem leaveRunning_calm (n : Fin 8) (h : Hub) : Calm h (leaveRunning n h) :=
  .of_unwatched rfl rfl rfl rfl rfl rfl rfl rfl rfl

theorem askInput_calm (i : Fin 2) (h : Hub) : Calm h (h.modCapture i fun c => { c with dropArmed := true }) := by
  refine AtInput.calm (.modCapture i h _) fun law => ?_
  rw [Hub.modCapture_captures, upd_get_same]
  exact law.same rfl rfl fun _ => ⟨rfl, rfl⟩

/-! ### Answers -/

/-- What a request does: every law is kept, and if it is answered at once the place for its reply is free. -/
structure Answers (p : Port) (h : Hub) (x : Answer) : Prop where
  laws : LawsKept h x.hub
  place : x.reply.isSome → (x.hub.port p).replies = (h.port p).replies ∧ (x.hub.port p).reserved = 0

/-- A port that may begin a request. -/
structure PortState.Ready (x : PortState) : Prop where
  idle : x.handling = none
  room : 0 < x.freePlaces

namespace Answers

variable {p : Port} {h : Hub}

theorem of_unanswered {x : Answer} (ready : (h.port p).Ready) (laws : LawsKept h x.hub) (un : Unanswered h x.hub) :
    Answers p h x where
  laws := laws
  place _ := ⟨(un p).1, by rw [PortState.reserved, (un p).2, ready.idle]⟩

/-- A request that is refused, or only asks. -/
theorem stays {x : Answer} (ready : (h.port p).Ready) (same : x.hub = h) : Answers p h x :=
  of_unanswered ready (.of_eq same) (same ▸ .refl h)

theorem ite {c : Prop} [Decidable c] {x y : Answer} (hx : c → Answers p h x) (hy : ¬c → Answers p h y) :
    Answers p h (if c then x else y) := by
  split
  · next yes => exact hx yes
  · next no => exact hy no

end Answers

section
variable {p : Port} {h : Hub} (ready : (h.port p).Ready)
include ready

theorem onBound_answers {n : Fin 8} {f : Hub → Answer} (hf : Answers p h (f h)) : Answers p h (onBound n f h) :=
  Answers.ite (fun _ => hf) fun _ => .stays ready rfl

theorem asOwner_answers {n : Fin 8} {f : Hub → Answer} (hf : Answers p h (f h)) : Answers p h (asOwner p n f h) :=
  onBound_answers ready (Answers.ite (fun _ => hf) fun _ => .stays ready rfl)

theorem fromB_answers {n : Fin 8} {f : Hub → Answer} (hf : Answers p h (f h)) : Answers p h (fromB p n f h) :=
  onBound_answers ready (Answers.ite (fun _ => hf) fun _ => .stays ready rfl)

theorem asWriter_answers {pl : Fin 16} {f : Hub → Answer} (hf : Answers p h (f h)) : Answers p h (asWriter p pl f h) :=
  Answers.ite (fun _ => hf) fun _ => .stays ready rfl

/-! ### The requests, one by one -/

theorem resetHub_answers : Answers p h (resetHub p h) := by
  refine Answers.ite (fun _ => ?_) fun _ => .stays ready rfl
  have handled : Calm h (setHandling p (some .hubReset) h) := by
    refine Calm.modPort h p fun b => ?_
    obtain ⟨input, replies, notices, through⟩ := b
    refine ⟨input, Nat.le_trans (Nat.le_add_right _ _) replies, notices, fun r pl c t receiver accepted => ?_⟩
    obtain ⟨_, _, none⟩ := through r pl c t receiver accepted
    cases ready.idle.symm.trans none
  refine ⟨handled.lawsKept, fun _ => ?_⟩
  have port : ((setHandling p (some .hubReset) h).port p) = { h.port p with handling := some .hubReset } := by
    rw [setHandling, Hub.modPort_port_same]
  exact port ▸ ⟨rfl, rfl⟩

theorem portSetting_answers {f : PortState → PortState} (data : List Byte) (replies : ∀ x, (f x).replies = x.replies)
    (handling : ∀ x, (f x).handling = x.handling) (bounded : ∀ x : PortState, x.bounded → (f x).bounded) :
    Answers p h ((h.modPort p f).done data) :=
  .of_unanswered ready (Calm.modPort h p (bounded _)).lawsKept (.modPort p replies handling h)

theorem enableInput_answers (i : Fin 2) (z : Size) : Answers p h (enableInput p i z h) := by
  refine Answers.ite (fun _ => ?_) fun _ => Answers.ite (fun _ => .stays ready rfl) fun _ => ?_
  · exact .of_unanswered ready (enableSameSize_calm i p h).lawsKept (.ite (.of_ports rfl rfl) (.of_ports rfl rfl))
  · exact .of_unanswered ready (resize_calm i p z h).lawsKept
      (.trans (.ite (tear_unanswered i _ h) (.refl h)) (.of_ports rfl rfl))

theorem disableInputRequest_answers (i : Fin 2) : Answers p h (disableInputRequest i h) :=
  .of_unanswered ready (disableInput_calm i h).lawsKept
    (.trans (.ite (tear_unanswered i _ h) (.refl h)) (.of_ports rfl rfl))

theorem askInput_answers (i : Fin 2) : Answers p h (askInput i h) :=
  .of_unanswered ready (askInput_calm i h).lawsKept (.of_ports rfl rfl)

theorem openPlate_answers (pl : Fin 16) (z : Size) : Answers p h (openPlate pl z h) := by
  refine Answers.ite (fun free => .of_unanswered ready (Calm.lawsKept ?_) (.of_ports rfl rfl)) fun _ => .stays ready rfl
  exact Calm.modCopy h pl _ (fun _ => rfl) fun _ => .inr ⟨free, workCopy_ne_live _, .inl rfl⟩

theorem commitPlate_answers (tag : Byte) (pl : Fin 16) : Answers p h (commitPlate p tag pl h) := by
  refine Answers.ite (fun _ => .stays ready rfl) fun loading => Answers.ite (fun _ => .stays ready rfl) fun _ => ?_
  have committing : Calm h (h.modCopy pl (workCopy h.plates[pl]) fun x => { x with state := .committing }) :=
    Calm.modCopy h pl _ (fun _ => rfl) fun _ => .inr ⟨.inr (not_not.1 loading), workCopy_ne_live _, .inr rfl⟩
  have port := modCopy_port h pl (workCopy h.plates[pl]) (fun x => { x with state := .committing }) p
  generalize h.modCopy pl (workCopy h.plates[pl]) (fun x => { x with state := .committing }) = k at committing port ⊢
  have taken : Calm k (setHandling p (some (.plateCommit tag pl)) k) := by
    refine Calm.modPort k p fun b => ?_
    rw [port] at b ⊢
    obtain ⟨input, replies, notices, through⟩ := b
    refine ⟨input, ?_, notices, fun r pl' c t receiver accepted => ?_⟩
    · have after : ({ h.port p with handling := some (.plateCommit tag pl) } : PortState).reserved = 1 := rfl
      have room := ready.room
      rw [after]
      unfold PortState.freePlaces at room
      dsimp only
      omega
    · obtain ⟨_, _, none⟩ := through r pl' c t receiver accepted
      cases ready.idle.symm.trans none
  exact ⟨(committing.trans taken).lawsKept, nofun⟩

theorem dropPlate_answers (pl : Fin 16) : Answers p h (dropPlate pl h) := by
  refine Answers.ite (fun _ => .stays ready rfl) fun _ => .of_unanswered ready (Calm.lawsKept ?_) (.of_ports rfl rfl)
  refine Calm.modPlate h pl (fun _ c => ?_) fun c n => ?_
  · simp [PlateCopy.empty]
  · simp [PlateCopy.empty, ScreenSet.empty]

theorem bindScreen_answers (n : Fin 8) (l : Fin 6) (identity : Identity) (z : Size) (fill : Colour) :
    Answers p h (bindScreen p n l identity z fill h) := by
  unfold bindScreen
  dsimp only
  refine Answers.ite (fun _ => .stays ready rfl) fun free => ?_
  split
  · exact .stays ready rfl
  · refine Answers.ite (fun _ => .stays ready rfl) fun _ => Answers.ite (fun _ => .stays ready rfl) fun room => ?_
    exact .of_unanswered ready (bound_lawsKept (not_not.1 free) (Nat.le_of_not_lt room)) (.of_ports rfl rfl)

theorem unbindScreen_answers (n : Fin 8) : Answers p h (unbindScreen n h) :=
  .of_unanswered ready (unbindScreen_lawsKept n h) (unbindScreen_unanswered n h)

/-- A request that changes of a screen what no law looks at. -/
theorem setting_answers {n : Fin 8} {f : Screen → Screen} (data : List Byte)
    (calm : Screen.Calm h.screens[n] (f h.screens[n])) : Answers p h ((h.modScreen n f).done data) :=
  .of_unanswered ready (Calm.modScreen h n calm).lawsKept (.of_ports rfl rfl)

theorem setLayout_answers (n : Fin 8) (expected : Option Half) (l : Layout) : Answers p h (setLayout n expected l h) := by
  refine Answers.ite (fun _ => .stays ready rfl) fun _ => ?_
  split
  · exact .stays ready rfl
  · exact setting_answers ready _ ⟨rfl, rfl, rfl, rfl, id⟩

theorem setGroup_answers (n : Fin 8) (g : Option (Fin 4)) : Answers p h (setGroup n g h) := by
  refine .of_unanswered ready (Calm.lawsKept (Calm.ite (fun _ => .refl h) fun _ => ?_))
    (.ite (.refl h) (.of_ports rfl rfl))
  exact (leaveRunning_calm n h).trans (Calm.modScreen _ n ⟨rfl, rfl, rfl, rfl, id⟩)

theorem claimScreen_answers (n : Fin 8) : Answers p h (claimScreen p n h) := by
  refine Answers.ite (fun free => setting_answers ready _ ⟨rfl, rfl, rfl, rfl, fun law seized => ?_⟩) fun _ =>
    .stays ready rfl
  cases free.symm.trans (law seized)

theorem yieldOwner_answers (n : Fin 8) : Answers p h (yieldOwner n h) :=
  Answers.ite (fun _ => .stays ready rfl) fun kept =>
    setting_answers ready _ ⟨rfl, rfl, rfl, rfl, fun _ seized => absurd seized kept⟩

end

end Sys2Proof.Machine

/-! O55 to O59, part 19: the requests to screens, links and lights, and what follows a request. -/

namespace Sys2Proof.Machine

theorem seizeCycle_lawsKept (n : Fin 8) (h : Hub) : LawsKept h (seizeCycle n h) := by
  unfold seizeCycle
  split
  · next idle => exact startCycle_lawsKept (.of_cycle idle nofun nofun)
  · next gathering => exact cut_lawsKept gathering
  · exact .refl h
  · next ready => exact startCycle_lawsKept (.of_cycle ready nofun nofun)
  · exact (Calm.modEngine h n rfl).lawsKept
  · exact .refl h

theorem enableLink_lawsKept (l : Fin 6) (s : LinkSettings) (h : Hub) : LawsKept h (enableLink l s h) := by
  have set : Calm h (h.modLink l (Link.set s)) := settings_calm fun _ => by exact .of_settings rfl rfl rfl rfl rfl rfl
  have here : (h.modLink l (Link.set s)).links[l] = (h.links[l]).set s := upd_get_same _ _ _
  unfold enableLink
  dsimp only
  generalize h.modLink l (Link.set s) = k at set here ⊢
  have state : k.links[l].state = h.links[l].state := here ▸ rfl
  refine set.lawsKept.trans (LawsKept.ite (fun off => ?_) fun _ => LawsKept.ite (fun wakes => ?_) fun _ => .refl k)
  · exact cleared_lawsKept (not_running (state.trans off) nofun nofun) rfl fun _ => .of_empty rfl rfl rfl rfl
  · have parked : h.links[l].state = .parked := by
      simp only [selectsWake, Bool.and_eq_true, beq_iff_eq] at wakes
      exact wakes.1.1.1
    exact (takeWake_calm (state.trans parked)).lawsKept

theorem enableLink_unanswered (l : Fin 6) (s : LinkSettings) (h : Hub) : Unanswered h (enableLink l s h) := by
  have set : Unanswered h (h.modLink l (Link.set s)) := .of_ports rfl rfl
  unfold enableLink
  dsimp only
  generalize h.modLink l (Link.set s) = k at set ⊢
  exact set.trans (.ite (.of_ports rfl rfl) (.ite (takeWake_unanswered l k) (.refl k)))

/-- R123: the link of an accepted park is Up, so that PARK may join its control queue. -/
theorem acceptPark_calm {l : Fin 6} {h : Hub} (up : h.links[l].state = .up) : Calm h (acceptPark l h) := by
  have accepted : acceptPark l h =
      h.modLink l fun k => { k with parkPending := true, control := k.control ++ [.park] } := by
    rw [acceptPark, handPacket, modLink_modLink]
  rw [accepted]
  refine Calm.modLink h l ⟨fun _ => rfl, fun _ => rfl, Iff.rfl, fun law => ?_⟩
  obtain ⟨one, rolling, free, waits, -⟩ := law
  have offers : Link.offers { h.links[l] with parkPending := true, control := h.links[l].control ++ [.park] } =
      h.links[l].offers := by
    simp [Link.offers, Link.packets, livePacket, Packet.rollRow]
  rw [Link.rolls, offers]
  exact ⟨one, rolling, free, waits, fun _ => up⟩

section
variable {p : Port} {h : Hub} (ready : (h.port p).Ready)
include ready

theorem setGroupPace_answers (g : Fin 4) (pace : Nat) : Answers p h (setGroupPace g pace h) :=
  .of_unanswered ready (modGroup_calm h g _).lawsKept (.of_ports rfl rfl)

theorem seizeScreen_answers (n : Fin 8) (l : Layout) : Answers p h (seizeScreen n l h) := by
  unfold seizeScreen
  split
  · exact .stays ready rfl
  · have seized : Calm h (h.modScreen n (Screen.seized l)) := Calm.modScreen h n ⟨rfl, rfl, rfl, rfl, fun _ _ => rfl⟩
    have sameSeized : Unanswered h (h.modScreen n (Screen.seized l)) := .of_ports rfl rfl
    dsimp only
    generalize h.modScreen n (Screen.seized l) = k at seized sameSeized ⊢
    have left := leaveRunning_calm n k
    have sameLeft : Unanswered k (leaveRunning n k) := .of_ports rfl rfl
    generalize leaveRunning n k = m at left sameLeft ⊢
    have turned := seizeCycle_lawsKept n m
    have sameTurned := seizeCycle_unanswered n m
    generalize seizeCycle n m = q at turned sameTurned ⊢
    have told := LawsKept.ite (c := h.screens[n].seize.isNone ∧ h.screens[n].owner = some .a)
      (fun _ => (notify_calm [.a] .seized ([byteOfFin n] ++ be16 (h.screens[n].stamp + 1) ++
        optionalByte byteOfFin h.screens[n].group) q).lawsKept) fun _ => .refl q
    have sameTold := Unanswered.ite (c := h.screens[n].seize.isNone ∧ h.screens[n].owner = some .a)
      (Unanswered.notify [.a] .seized ([byteOfFin n] ++ be16 (h.screens[n].stamp + 1) ++
        optionalByte byteOfFin h.screens[n].group) q) (.refl q)
    exact .of_unanswered ready ((seized.trans left).lawsKept.trans (turned.trans told))
      (sameSeized.trans (sameLeft.trans (sameTurned.trans sameTold)))

theorem returnOwner_answers (n : Fin 8) : Answers p h (returnOwner n h) := by
  unfold returnOwner
  split
  · exact .stays ready rfl
  · next r _ =>
    have left := leaveRunning_calm n h
    have sameLeft : Unanswered h (leaveRunning n h) := .of_ports rfl rfl
    dsimp only
    generalize leaveRunning n h = k at left sameLeft ⊢
    have returned : Calm k (k.modScreen n (Screen.returned r)) := Calm.modScreen k n ⟨rfl, rfl, rfl, rfl, fun _ => nofun⟩
    have sameReturned : Unanswered k (k.modScreen n (Screen.returned r)) := .of_ports rfl rfl
    generalize k.modScreen n (Screen.returned r) = m at returned sameReturned ⊢
    exact .of_unanswered ready (left.trans (returned.trans (notify_calm _ _ _ m))).lawsKept
      (sameLeft.trans (sameReturned.trans (.notify _ _ _ m)))

/-! ### Links and lights -/

theorem enableRequest_answers (l : Fin 6) (s : LinkSettings) : Answers p h (enableRequest l s h) :=
  .of_unanswered ready (enableLink_lawsKept l s h) (enableLink_unanswered l s h)

theorem disableRequest_answers (l : Fin 6) : Answers p h (disableRequest l h) :=
  .of_unanswered ready (LawsKept.ite (fun _ => .refl h) fun _ => disableLink_lawsKept l h)
    (.ite (.refl h) (clearLink_unanswered l h _))

theorem resetRequest_answers (l : Fin 6) : Answers p h (resetRequest l h) := by
  have capped : Calm h (restoreCap l h) := settings_calm fun _ => by exact .of_settings rfl rfl rfl rfl rfl rfl
  have here : (restoreCap l h).links[l].state = h.links[l].state := by
    rw [restoreCap, Hub.modLink_links, upd_get_same]
  have reset (c : LinkRate) : Answers p h ((resetLink l c h).done (linkStateData (resetLink l c h) l)) :=
    .of_unanswered ready (resetLink_lawsKept l c h) (resetLink_unanswered l c h)
  unfold resetRequest
  split
  · exact .stays ready rfl
  · next parked => exact .of_unanswered ready (capped.trans (enterWaking_calm (here.trans parked))).lawsKept (.of_ports rfl rfl)
  · refine .of_unanswered ready (capped.trans ?_).lawsKept (.of_ports rfl rfl)
    exact settings_calm fun _ => by exact .of_settings rfl rfl rfl rfl rfl rfl
  · exact reset _
  · exact reset _
  · exact reset _
  · exact reset _

theorem wakeRequest_answers (l : Fin 6) : Answers p h (wakeRequest l h) :=
  Answers.ite (fun parked => .of_unanswered ready (enterWaking_calm parked).lawsKept (.of_ports rfl rfl)) fun _ =>
    .stays ready rfl

theorem parkRequest_answers (l : Fin 6) : Answers p h (parkRequest p l h) := by
  unfold parkRequest
  dsimp only
  refine Answers.ite (fun _ => .stays ready rfl) fun may => ?_
  have up : h.links[l].state = .up := not_not.1 fun down => may (.inl down)
  split
  · exact .stays ready rfl
  · exact Answers.ite (fun _ => .stays ready rfl) fun _ =>
      .of_unanswered ready (acceptPark_calm up).lawsKept (.of_ports rfl rfl)

theorem setLevel_answers (n : Fin 8) (m : LevelMode) (target step : Byte) (i : Fin 2) (k : Fin 4) :
    Answers p h (setLevel n m target step i k h) :=
  setting_answers ready _ ⟨rfl, rfl, rfl, rfl, id⟩

theorem setCurve_answers (k : Fin 4) (points : List CurvePoint) : Answers p h (setCurve k points h) := by
  unfold setCurve
  split
  · exact .stays ready rfl
  · have curved : Calm h { h with curves := h.curves.set k (curveOf points) } :=
      .of_unwatched rfl rfl rfl rfl rfl rfl rfl rfl rfl
    exact .of_unanswered ready curved.lawsKept (.of_ports rfl rfl)

/-! ### Every request -/

theorem perform_answers (tag : Byte) (r : Request) : Answers p h (perform p tag r h) := by
  cases r with
  | hubAsk => exact portSetting_answers ready _ (fun _ => rfl) (fun _ => rfl) fun _ b => b
  | hubReset => exact resetHub_answers ready
  | lineSet rate => exact portSetting_answers ready _ (fun _ => rfl) (fun _ => rfl) fun _ b => b
  | noticeSet kinds => exact portSetting_answers ready _ (fun _ => rfl) (fun _ => rfl) fun _ b => b
  | inputSet input enable columns rows =>
    exact Answers.ite (fun _ => enableInput_answers ready _ _) fun _ => disableInputRequest_answers ready _
  | inputAsk input => exact askInput_answers ready _
  | plateOpen plate columns rows => exact asWriter_answers ready (openPlate_answers ready _ _)
  | plateCommit plate => exact asWriter_answers ready (commitPlate_answers ready _ _)
  | plateDrop plate => exact asWriter_answers ready (dropPlate_answers ready _)
  | plateAsk plate => exact .stays ready rfl
  | screenBind screen link identity columns rows fill => exact bindScreen_answers ready _ _ _ _ _
  | screenUnbind screen => exact asOwner_answers ready (unbindScreen_answers ready _)
  | screenAsk screen => exact .stays ready rfl
  | layoutSet screen present stamp views => exact asOwner_answers ready (setLayout_answers ready _ _ _)
  | groupSet screen present group => exact asOwner_answers ready (setGroup_answers ready _ _)
  | paceSet target number pace =>
    exact Answers.ite (fun _ => asOwner_answers ready (setting_answers ready _ ⟨rfl, rfl, rfl, rfl, id⟩)) fun _ =>
      setGroupPace_answers ready _ _
  | fillSet screen fill => exact asOwner_answers ready (setting_answers ready _ ⟨rfl, rfl, rfl, rfl, id⟩)
  | claim screen => exact onBound_answers ready (claimScreen_answers ready _)
  | yieldScreen screen => exact asOwner_answers ready (yieldOwner_answers ready _)
  | seize screen views => exact fromB_answers ready (seizeScreen_answers ready _ _)
  | returnScreen screen => exact fromB_answers ready (returnOwner_answers ready _)
  | linkSet link enable cap wakeMode autoWake warmUp =>
    exact Answers.ite (fun _ => enableRequest_answers ready _ _) fun _ => disableRequest_answers ready _
  | linkReset link => exact resetRequest_answers ready _
  | linkPark link => exact parkRequest_answers ready _
  | linkWake link => exact wakeRequest_answers ready _
  | linkAsk link => exact .stays ready rfl
  | levelSet screen mode target step input curve => exact asOwner_answers ready (setLevel_answers ready _ _ _ _ _ _)
  | curveSet curve points => exact setCurve_answers ready _ _
  | lightAsk => exact .stays ready rfl

theorem judge_answers (tag : Byte) (r : Request) : Answers p h (judge p tag r h) := by
  unfold judge
  split
  · exact .stays ready rfl
  · exact perform_answers ready tag r

/-- The reply to a request finds the place that it kept free. -/
theorem queueAnswer_lawsKept (kind tag : Byte) {x : Answer} (answers : Answers p h x) :
    LawsKept h (queueAnswer p kind tag x) := by
  obtain ⟨laws, place⟩ := answers
  unfold queueAnswer
  split
  · next r data replied =>
    obtain ⟨replies, reserved⟩ := place (by rw [replied]; rfl)
    have room := ready.room
    refine laws.trans (reply_calm kind tag r data ?_).lawsKept
    unfold PortState.freePlaces at room ⊢
    rw [replies, reserved]
    omega
  · exact laws

theorem handleRequest_lawsKept (tag : Byte) (r : Request) : LawsKept h (handleRequest p tag r h) :=
  queueAnswer_lawsKept ready _ tag (judge_answers ready tag r)

theorem handleFrame_lawsKept (f : Frame) : LawsKept h (handleFrame p f h) := by
  unfold handleFrame
  split
  · exact (reply_calm _ _ _ _ ready.room).lawsKept
  · exact handleRequest_lawsKept ready _ _

end

end Sys2Proof.Machine

/-! O55 to O59, part 20: the laws hold after every reset (R183). -/

namespace Sys2Proof.Machine

section
variable (cause : ResetCause) (rateA rateB : LineRate) (wakeLines : Vector Bool 6)

theorem reset_screen (n : Fin 8) : (Hub.reset cause rateA rateB wakeLines).screens[n] = Screen.reset := by
  simp [Hub.reset]

theorem reset_capture (i : Fin 2) : (Hub.reset cause rateA rateB wakeLines).captures[i] = Capture.reset := by
  simp [Hub.reset]

theorem reset_slot (i : Fin 2) (k : Fin 3) : (Hub.reset cause rateA rateB wakeLines).slots[i][k] = Slot.free := by
  simp [Hub.reset]

theorem reset_plate (p : Fin 16) : (Hub.reset cause rateA rateB wakeLines).plates[p] = Plate.reset := by
  simp [Hub.reset]

theorem reset_copy (p : Fin 16) (c : Fin 2) :
    (Hub.reset cause rateA rateB wakeLines).plates[p].copies[c] = PlateCopy.empty := by
  rw [reset_plate]
  simp [Plate.reset]

theorem reset_buffer (b : Fin 32) : (Hub.reset cause rateA rateB wakeLines).buffers[b] = none := by
  simp [Hub.reset]

theorem reset_link (l : Fin 6) : (Hub.reset cause rateA rateB wakeLines).links[l] = Link.reset wakeLines[l] := by
  simp [Hub.reset]

theorem reset_row (l : Fin 6) (a : Fin 2) :
    (Hub.reset cause rateA rateB wakeLines).links[l].rows[a] = AddressRow.reset := by
  rw [reset_link]
  simp [Link.reset]

theorem reset_memory_wf : (Hub.reset cause rateA rateB wakeLines).dram.wf = true := rfl

theorem reset_seizedOwnedByB : seizedOwnedByB (Hub.reset cause rateA rateB wakeLines) := fun n seized => by
  rw [reset_screen] at seized
  cases seized

theorem reset_poolLaw : poolLaw (Hub.reset cause rateA rateB wakeLines) := by
  refine ⟨?_, fun n _ => by rw [reset_screen]; rfl⟩
  simp only [reset_screen]
  decide

theorem reset_fillingLaw : fillingLaw (Hub.reset cause rateA rateB wakeLines) := fun i => by
  simp only [reset_slot, reset_capture]
  simp [Slot.free, Capture.reset]

theorem reset_newestLaw : newestLaw (Hub.reset cause rateA rateB wakeLines) := fun i j k newest => by
  rw [reset_slot] at newest
  cases newest

theorem PortState.reset_bounded (rate : LineRate) : (PortState.reset rate).bounded :=
  ⟨Nat.zero_le _, Nat.zero_le _, Nat.zero_le _, nofun⟩

theorem reset_plateLaw : plateLaw (Hub.reset cause rateA rateB wakeLines) := by
  rintro p c x rfl
  rw [reset_copy, reset_plate]
  exact ⟨fun _ => nofun, fun _ => rfl, nofun⟩

theorem reset_cycleLaw : cycleLaw (Hub.reset cause rateA rateB wakeLines) := fun n => by
  rw [reset_screen]
  exact ⟨nofun, nofun⟩

theorem reset_unread (n : Fin 8) : Unread (Hub.reset cause rateA rateB wakeLines) n := by
  refine ⟨fun i j => ?_, fun p c => ?_⟩
  · rw [reset_slot]
    exact ScreenSet.empty_get n
  · rw [reset_copy]
    exact ScreenSet.empty_get n

theorem reset_readerLaws : readerLaws (Hub.reset cause rateA rateB wakeLines) :=
  ⟨reset_plateLaw _ _ _ _, reset_cycleLaw _ _ _ _, fun n => Reads.of_unread (reset_unread _ _ _ _ n)⟩

theorem reset_showLaw : showLaw (Hub.reset cause rateA rateB wakeLines) := fun n e mem => by
  rw [reset_screen] at mem
  cases mem

theorem reset_carries (b : Fin 32) (n : Fin 8) (t : Nat) :
    ¬carries (Hub.reset cause rateA rateB wakeLines) b n t := by
  rintro ⟨x, hx, -⟩
  rw [reset_buffer] at hx
  cases hx

theorem reset_sendingLaw : sendingLaw (Hub.reset cause rateA rateB wakeLines) := by
  refine ⟨fun n t => ⟨fun sending => ?_, fun ⟨b, c⟩ => absurd c (reset_carries _ _ _ _ b n t)⟩,
    fun b _ n t c => absurd c (reset_carries _ _ _ _ b n t), fun b x hx => ?_⟩
  · rw [reset_screen] at sending
    cases sending
  · rw [reset_buffer] at hx
    cases hx

theorem reset_creditLaw : creditLaw (Hub.reset cause rateA rateB wakeLines) := fun n _ _ joined => by
  rw [reset_screen] at joined
  cases joined

theorem reset_addressLaw : addressLaw (Hub.reset cause rateA rateB wakeLines) := by
  refine ⟨fun n home => ?_, fun l a n row => ?_⟩
  · rw [reset_screen] at home
    rcases home with e | e <;> cases e
  · rw [reset_row] at row
    cases row

theorem reset_rollLaw : rollLaw (Hub.reset cause rateA rateB wakeLines) := by
  rw [rollLaw_iff]
  intro l
  rw [reset_link]
  exact .of_empty rfl rfl rfl rfl

theorem reset_deliveryLaws : deliveryLaws (Hub.reset cause rateA rateB wakeLines) :=
  ⟨reset_cycleLaw _ _ _ _, reset_showLaw _ _ _ _, reset_sendingLaw _ _ _ _, reset_creditLaw _ _ _ _,
    reset_addressLaw _ _ _ _, reset_rollLaw _ _ _ _⟩

/-- R183: a reset keeps the laws, since they hold after it. -/
theorem reset_lawsKept (h : Hub) : LawsKept h (Hub.reset cause rateA rateB wakeLines) where
  dram _ := reset_memory_wf _ _ _ _
  slots _ := ⟨reset_fillingLaw _ _ _ _, reset_newestLaw _ _ _ _⟩
  plates _ := reset_plateLaw _ _ _ _
  seized _ := reset_seizedOwnedByB _ _ _ _
  pool _ := reset_poolLaw _ _ _ _
  portA _ := PortState.reset_bounded _
  portB _ := PortState.reset_bounded _
  readers _ := reset_readerLaws _ _ _ _
  delivery _ := reset_deliveryLaws _ _ _ _

end

/-- The input that stands for what the wires bring is no part of any law. -/
theorem free_calm (h : Hub) (m : Nat) : Calm h { h with free := m } :=
  .of_unwatched rfl rfl rfl rfl rfl rfl rfl rfl rfl

theorem hubResets_lawsKept (h : Hub) : LawsKept h (hubResets h) :=
  (reset_lawsKept _ _ _ _ h).trans (free_calm _ h.free).lawsKept

theorem powersOn_lawsKept (a1 a2 b1 b2 : Bool) (h : Hub) : LawsKept h (powersOn a1 a2 b1 b2 h) :=
  (reset_lawsKept _ _ _ _ h).trans (free_calm _ h.free).lawsKept

end Sys2Proof.Machine

/-! O55 to O59, part 21: the events of the ports, the lights, the time base and the transmissions. -/

namespace Sys2Proof.Machine

/-! ### Frames that arrive -/

theorem ready_of_begins {x : PortState} (begins : beginsAtOnce x = true) : x.Ready := by
  simp only [beginsAtOnce, Bool.and_eq_true, Option.isNone_iff_eq_none, decide_eq_true_eq] at begins
  exact ⟨begins.1.1, begins.2⟩

theorem ready_of_mayBegin {x : PortState} (may : x.mayBegin = true) : x.Ready := by
  simp only [PortState.mayBegin, Bool.and_eq_true, Option.isNone_iff_eq_none, decide_eq_true_eq] at may
  exact ⟨may.1.1, may.2⟩

theorem frameArrives_lawsKept (p : Port) (f : Frame) (h : Hub) : LawsKept h (frameArrives p f h) := by
  have hunted := hunt_calm p h
  unfold frameArrives
  dsimp only
  generalize h.modPort p PortState.hunt = k at hunted ⊢
  refine LawsKept.ite (fun _ => hunted.lawsKept.trans ?_) fun _ => .refl h
  exact LawsKept.ite (fun begins => handleFrame_lawsKept (ready_of_begins begins) f) fun _ => (arrival_calm p f k).lawsKept

theorem badKindArrives_lawsKept (p : Port) (kind tag : Byte) (h : Hub) : LawsKept h (badKindArrives p kind tag h) :=
  LawsKept.ite (fun _ => frameArrives_lawsKept p _ h) fun _ => .refl h

/-! ### What follows at an event -/

theorem handleOldest_lawsKept {p : Port} {h : Hub} (ready : (h.port p).Ready) : LawsKept h (handleOldest p h) := by
  unfold handleOldest
  split
  · exact .refl h
  · next f rest input =>
    have taken : Calm h (h.modPort p fun x => { x with input := rest }) := Calm.modPort h p fun b => by
      obtain ⟨inputs, replies, notices, through⟩ := b
      refine ⟨Nat.le_trans ?_ inputs, replies, notices, through⟩
      rw [input]
      exact Nat.le_succ _
    have port : (h.modPort p fun x => { x with input := rest }).port p = { h.port p with input := rest } :=
      Hub.modPort_port_same _ _ _
    refine taken.lawsKept.trans (handleFrame_lawsKept ?_ f)
    rw [port]
    exact ⟨ready.idle, ready.room⟩

theorem drain_lawsKept (m : Nat) (h : Hub) : LawsKept h (drain m h) := by
  induction m generalizing h with
  | zero => exact .refl h
  | succ m ih =>
    unfold drain
    split
    · next p begins =>
      have ready := ready_of_mayBegin (beginningPort_input begins)
      exact (handleOldest_lawsKept ready).trans ((consequences_lawsKept _).trans (ih _))
    · exact .refl h

theorem settle_lawsKept (h : Hub) : LawsKept h (settle h) := (consequences_lawsKept h).trans (drain_lawsKept 8 _)

/-! ### Commits and the frames of a port -/

/-- R159: the reply to a commit takes the place kept for it. -/
theorem committed_bounded {x : PortState} {tag pl : _} (kind tag' : Byte) (res : Result) (data : List Byte)
    (handling : x.handling = some (.plateCommit tag pl)) (b : x.bounded) :
    ({ x.queueReply kind tag' res data with handling := none } : PortState).bounded := by
  obtain ⟨input, replies, notices, handled⟩ := b
  refine ⟨input, ?_, notices, fun r c i t receiver through => ?_⟩
  · have place : x.reserved = 1 := by rw [PortState.reserved, handling]
    rw [place] at replies
    have length : (x.queueReply kind tag' res data).replies.length = x.replies.length + 1 := by
      simp [PortState.queueReply]
    exact length ▸ replies
  · obtain ⟨_, _, data⟩ := handled r c i t receiver through
    cases handling.symm.trans data

theorem handling_of_commitTag {h : Hub} {pl : Fin 16} {tag : Byte} (committing : commitTag h pl = some tag) :
    (h.port (writerPort pl)).handling = some (.plateCommit tag pl) := by
  unfold commitTag at committing
  split at committing
  · next at' =>
    split at committing
    · next same =>
      cases committing
      exact same ▸ at'
    · cases committing
  · cases committing

theorem commitCopy_port (pl : Fin 16) (h : Hub) (p : Port) : (commitCopy pl h).port p = h.port p := by
  rw [commitCopy_eq]
  cases p <;> rfl

theorem commitDone_calm (pl : Fin 16) (h : Hub) : Calm h (commitDone pl h) := by
  unfold commitDone
  split
  · exact .refl h
  · next tag committing =>
    have committed := commitCopy_calm pl h
    have handling := handling_of_commitTag committing
    rw [← commitCopy_port] at handling
    dsimp only
    generalize commitCopy pl h = k at committed handling ⊢
    rw [setHandling, reply, modPort_modPort]
    exact committed.trans (Calm.modPort k _ (committed_bounded _ _ _ _ handling))

theorem frameSent_lawsKept (p : Port) (h : Hub) : LawsKept h (frameSent p h) := by
  unfold frameSent
  split
  · exact .refl h
  · have sent : Calm h (h.modPort p fun x => { x with line := none }) := Calm.modPort h p id
    dsimp only
    generalize h.modPort p (fun x => { x with line := none }) = k at sent ⊢
    have changed : Calm k (k.modPort p PortState.changeRate) := Calm.modPort k p fun b => by
      unfold PortState.changeRate
      have hunted : (k.port p).hunt.bounded := PortState.hunt_bounded b
      split
      · exact hunted
      · exact hunted
    exact sent.lawsKept.trans (LawsKept.ite (fun _ => changed.lawsKept) fun _ =>
      LawsKept.ite (fun _ => hubResets_lawsKept k) fun _ => .refl k)

theorem startingEnds_calm (h : Hub) : Calm h (startingEnds h) := by
  refine Calm.ite (fun _ => ?_) fun _ => .refl h
  have started : Calm h { h with starting := false } := .of_unwatched rfl rfl rfl rfl rfl rfl rfl rfl rfl
  exact started.trans (Calm.foldl (fun k _ => notify_calm _ _ _ k) _ _)

/-! ### Levels and lights -/

theorem rampScreen_calm (h : Hub) (n : Fin 8) : Calm h (rampScreen h n) := by
  unfold rampScreen
  dsimp only
  refine Calm.ite (fun _ => .refl h) fun _ => ?_
  have ramped := Calm.modLevel h n fun _ => h.screens[n].level.tick
  generalize h.modLevel n (fun _ => h.screens[n].level.tick) = k at ramped ⊢
  split
  · exact ramped.trans (Calm.ite (fun _ => .handPacket _ k rfl nofun) fun _ => .refl k)
  · exact ramped

theorem levelTick_calm (h : Hub) : Calm h (levelTick h) := by
  have taken : Calm h { h with levelDue := false } := .of_unwatched rfl rfl rfl rfl rfl rfl rfl rfl rfl
  exact Calm.ite (fun _ => taken.trans (Calm.foldl rampScreen_calm _ _)) fun _ => .refl h

theorem startConversions_calm (h : Hub) : Calm h (startConversions h) :=
  Calm.ite (fun _ => .of_unwatched rfl rfl rfl rfl rfl rfl rfl rfl rfl) fun _ => .refl h

theorem retarget_calm (i : Fin 2) (r : Reading) (h : Hub) (n : Fin 8) : Calm h (retarget i r h n) :=
  Calm.ite (fun _ => Calm.modLevel h n _) fun _ => .refl h

theorem endConversion_calm (i : Fin 2) (r : Reading) (h : Hub) : Calm h (endConversion i r h) := by
  have converted : Calm h (h.modLight i fun _ => { reading := some r, conversion := none }) :=
    .of_unwatched rfl rfl rfl rfl rfl rfl rfl rfl rfl
  exact Calm.ite (fun _ => converted.trans (Calm.foldl (retarget_calm i r) _ _)) fun _ => .refl h

theorem endConversionFree_calm (i : Fin 2) (h : Hub) : Calm h (endConversionFree i h) :=
  (free_calm h (h.free + 1)).trans (endConversion_calm i _ _)

theorem clearWindow_calm (h : Hub) : Calm h (clearWindow h) := by
  refine Calm.ite (fun _ => ?_) fun _ => .refl h
  have cleared : Calm h { h with links := h.links.map fun (k : Link) => { k with checkFailures := 0 } } :=
    Calm.of_links fun l => by
      simp only [Fin.getElem_fin, Vector.getElem_map]
      exact .of_settings rfl rfl rfl rfl rfl rfl
  refine cleared.trans (.of_unwatched rfl rfl rfl rfl rfl rfl rfl rfl rfl)

/-! ### The ends of transmissions -/

theorem packetSent_lawsKept {l : Fin 6} {f : Packet → Option (Hub → Hub)} {h : Hub}
    (effects : ∀ p effect, h.links[l].line = some { packet := p, dead := false } → f p = some effect →
      LawsKept h (effect (clearLine l h))) : LawsKept h (packetSent l f h) := by
  unfold packetSent
  split
  · exact .refl h
  · next o line =>
    split
    · exact .refl h
    · next effect found =>
      refine LawsKept.ite (fun _ => (clearLine_calm l h).lawsKept) fun live => effects o.packet effect ?_ found
      rw [line, ← Bool.eq_false_iff.2 live]

theorem sent_lawsKept {l : Fin 6} {f : Hub → Hub} (h : Hub) (calm : ∀ k, Calm k (f k)) :
    LawsKept h (f (clearLine l h)) := ((clearLine_calm l h).trans (calm _)).lawsKept

theorem tileTransmitted_lawsKept (l : Fin 6) (h : Hub) : LawsKept h (packetSent l (tileEffect l) h) := by
  refine packetSent_lawsKept fun p effect _ found => ?_
  cases p <;> cases found
  exact sent_lawsKept h (tileSent_calm l _)

theorem showTransmitted_lawsKept (l : Fin 6) (h : Hub) : LawsKept h (packetSent l showEffect h) := by
  refine packetSent_lawsKept fun p effect _ found => ?_
  cases p <;> cases found
  exact sent_lawsKept h (startShowTimers_calm _ _)

theorem pollTransmitted_lawsKept (l : Fin 6) (h : Hub) : LawsKept h (packetSent l (pollEffect l) h) := by
  refine packetSent_lawsKept fun p effect _ found => ?_
  cases p <;> cases found
  exact sent_lawsKept h (pollSent_calm l _ _)

theorem levelOrBlankTransmitted_lawsKept (l : Fin 6) (h : Hub) : LawsKept h (packetSent l levelOrBlankEffect h) := by
  refine packetSent_lawsKept fun p effect _ found => ?_
  cases p <;> cases found
  · exact sent_lawsKept h Calm.refl
  · exact sent_lawsKept h Calm.refl

theorem rollTransmitted_lawsKept (l : Fin 6) (h : Hub) : LawsKept h (packetSent l (rollEffect l) h) := by
  refine packetSent_lawsKept fun p effect line found => ?_
  cases p <;> cases found
  rw [clearLine, rollSent, modLink_modLink]
  exact (Calm.modLink h l (.rollSent line)).lawsKept

theorem parkScreens_links (l : Fin 6) (h : Hub) :
    Link.Aborted h.links[l] ((boundTo h l).foldl parkScreen h).links[l] :=
  (park_abortedAll l h (fun n => decide (h.screens[n].link = some l ∧
    (h.screens[n].state = .joined ∨ h.screens[n].state = .lost ∨ h.screens[n].state = .missing)))
      fun _ => decide_eq_true_iff).links l

theorem parkTransmitted_lawsKept (l : Fin 6) (h : Hub) : LawsKept h (packetSent l (parkEffect l) h) := by
  refine packetSent_lawsKept fun p effect line found => ?_
  cases p <;> cases found
  have up (law : h.links[l].rolls) : h.links[l].state = .up := by
    obtain ⟨-, -, -, -, park⟩ := law
    exact park (by rw [packets_of_line line]; exact List.mem_cons_self)
  unfold parkSent
  dsimp only
  rw [clearLine, modLink_modLink]
  have parked := parked_lawsKept (l := l) (h := h)
    (f := fun k => { k with line := none, parkPending := false, state := .parked, control := [] }) rfl rfl rfl rfl rfl rfl up
  have state := (parkScreens_links l
    (h.modLink l fun k => { k with line := none, parkPending := false, state := .parked, control := [] })).1
  rw [Hub.modLink_links, upd_get_same] at state
  generalize (boundTo (h.modLink l fun k => { k with line := none, parkPending := false, state := .parked, control := [] })
    l).foldl parkScreen (h.modLink l fun k =>
      { k with line := none, parkPending := false, state := .parked, control := [] }) = k at parked state ⊢
  have stopped : (k.modLink l fun k => { k with rows := k.rows.map AddressRow.stopTimers }).links[l].state = .parked := by
    rw [Hub.modLink_links, upd_get_same, state]
  exact parked.trans (LawsKept.ite (fun _ => (takeWake_calm stopped).lawsKept) fun _ => .refl _)

/-! ### Packets that arrive -/

theorem upstreamFailure_lawsKept (l : Fin 6) (h : Hub) : LawsKept h (upstreamFailure l h) :=
  LawsKept.ite (fun _ => checkFailure_lawsKept l h) fun _ => .refl h

theorem noteArrives_lawsKept (l : Fin 6) (address : Byte) (payload : List Byte) (h : Hub) :
    LawsKept h (noteArrives l address payload h) :=
  LawsKept.ite (fun _ => upstreamFailure_lawsKept l h) fun _ => takePacket_lawsKept (noteTaken_lawsKept l address payload) h

theorem unlistedArrives_lawsKept (l : Fin 6) (address kind : Byte) (h : Hub) :
    LawsKept h (unlistedArrives l address kind h) :=
  LawsKept.ite (fun _ => .refl h) fun _ => takePacket_lawsKept (unlistedTaken_lawsKept l address) h

/-! ### The time base -/

theorem Link.Calm.tick (x : Link) : Link.Calm x x.tick := by
  have wait : x.tick.rollWait.isSome ↔ x.rollWait.isSome := by simp [Link.tick, Timer.tick]
  have row (a : Fin 2) : x.tick.rows[a] = x.rows[a].tick := by simp [Link.tick]
  refine ⟨fun a => by rw [row]; rfl, fun a => by rw [row]; rfl, Iff.rfl, fun law => ?_⟩
  obtain ⟨one, rolling, free, waits, park⟩ := law
  refine ⟨one, rolling, fun a offered b le => ?_, wait.trans waits, park⟩
  rw [row]
  exact free a offered b le

theorem countTick_calm (h : Hub) : Calm h (countTick h) where
  dram := id
  slots law := by
    rw [slotLaws_iff] at law ⊢
    intro i
    have capture : (countTick h).captures[i] = h.captures[i].tick := by simp [countTick]
    rw [capture]
    exact law i
  slotReaders _ _ _ := id
  plates := id
  copyReaders _ _ _ := id
  screens n := by
    have screen : (countTick h).screens[n] = h.screens[n].tick := by simp [countTick]
    rw [screen]
    exact ⟨rfl, rfl, rfl, rfl, id⟩
  buffers b := by
    have buffer : (countTick h).buffers[b] = h.buffers[b].map Lend.tick := by simp [countTick]
    rw [buffer, Option.map_map]
    rfl
  links l := by
    have link : (countTick h).links[l] = h.links[l].tick := by simp [countTick]
    rw [link]
    exact .tick _
  portA := id
  portB := id

theorem mem_timedEvents {q : TimedEvent → Prop} (starting : q ⟨startingOver, startingEnds⟩)
    (port : ∀ p, q ⟨fun h => gapDue h p, gapExpire p⟩)
    (input : ∀ i, q ⟨fun h => inputSilenceDue h i, inputSilenceExpire i⟩)
    (buffer : ∀ b, q ⟨fun h => replyTimerDue h b, replyTimerExpire b⟩)
    (screen : ∀ n, q ⟨fun h => showTimerDue h n, showTimerExpire n⟩)
    (link : ∀ l, ∀ e ∈ linkEvents l, q e) (row : ∀ l a, ∀ e ∈ rowEvents l a, q e)
    (level : q ⟨Hub.levelDue, levelTick⟩) (conversions : q ⟨Hub.conversionDue, startConversions⟩)
    (conversion : ∀ i, q ⟨fun h => conversionEnds h i, endConversionFree i⟩) (window : q ⟨Hub.windowDue, clearWindow⟩) :
    ∀ e ∈ timedEvents, q e := by
  intro e mem
  simp only [timedEvents, List.mem_append, List.mem_flatMap, List.mem_singleton, portEvents, inputEvents, bufferEvents,
    screenEvents, conversionEvents] at mem
  rcases mem with (((((((((rfl | ⟨p, -, rfl⟩) | ⟨i, -, rfl⟩) | ⟨b, -, rfl⟩) | ⟨n, -, rfl⟩) | ⟨l, -, at'⟩) | ⟨l, -, a, -, at'⟩) |
    rfl) | rfl) | ⟨i, -, rfl⟩) | rfl
  · exact starting
  · exact port p
  · exact input i
  · exact buffer b
  · exact screen n
  · exact link l e at'
  · exact row l a e at'
  · exact level
  · exact conversions
  · exact conversion i
  · exact window

theorem linkEvent_lawsKept (l : Fin 6) : ∀ e ∈ linkEvents l, ∀ h, LawsKept h (e.fire h) := by
  intro e mem
  simp only [linkEvents, List.mem_cons, List.not_mem_nil, or_false] at mem
  rcases mem with rfl | rfl | rfl | rfl | rfl
  · exact fun h => (holdExpire_calm l h).lawsKept
  · exact fun h => (attemptExpire_calm l h).lawsKept
  · exact fun h => (retryExpire_calm l h).lawsKept
  · exact fun h => (warmExpire_calm l h).lawsKept
  · exact rollExpire_lawsKept l

theorem rowEvent_lawsKept (l : Fin 6) (a : Fin 2) : ∀ e ∈ rowEvents l a, ∀ h, LawsKept h (e.fire h) := by
  intro e mem
  simp only [rowEvents, List.mem_cons, List.not_mem_nil, or_false] at mem
  rcases mem with rfl | rfl | rfl
  · exact fun h => (silenceLinkExpire_calm l a h).lawsKept
  · exact pollWaitExpire_lawsKept l a
  · exact fun h => (lostPollExpire_calm l a h).lawsKept

theorem timedEvent_lawsKept : ∀ e ∈ timedEvents, ∀ h, LawsKept h (e.fire h) :=
  mem_timedEvents (fun h => (startingEnds_calm h).lawsKept) (fun p h => (gapExpire_calm p h).lawsKept)
    (fun i h => (inputSilenceExpire_calm i h).lawsKept) replyTimerExpire_lawsKept showTimerExpire_lawsKept linkEvent_lawsKept
    rowEvent_lawsKept (fun h => (levelTick_calm h).lawsKept) (fun h => (startConversions_calm h).lawsKept)
    (fun i h => (endConversionFree_calm i h).lawsKept) fun h => (clearWindow_calm h).lawsKept

theorem takeOverdue_lawsKept (h : Hub) : LawsKept h (takeOverdue h) := by
  have taken (events : List TimedEvent) (known : ∀ e ∈ events, e ∈ timedEvents) (h : Hub) :
      LawsKept h (events.foldl takeDue h) := by
    induction events generalizing h with
    | nil => exact .refl h
    | cons e events ih =>
      have first : LawsKept h (takeDue h e) := LawsKept.ite
        (fun _ => (timedEvent_lawsKept e (known e List.mem_cons_self) h).trans (settle_lawsKept _)) fun _ => .refl h
      exact first.trans (ih (fun e' mem => known e' (List.mem_cons_of_mem e mem)) _)
  exact taken timedEvents (fun _ => id) h

theorem tickArrives_lawsKept (h : Hub) : LawsKept h (tickArrives h) :=
  (takeOverdue_lawsKept h).trans (countTick_calm _).lawsKept

end Sys2Proof.Machine

/-! O55 to O59: the laws, kept by every step. -/

namespace Sys2Proof.Machine

theorem grant_lawsKept (h : Hub) : LawsKept h ((grantOnce h).getD h) := by
  rcases granted : grantOnce h with _ | k
  · exact .refl h
  · exact grantOnce_lawsKept granted

/-- Every command completes with an effect that keeps the laws. -/
theorem exec_keeps (c : Instr) (s : State) : ∃ f, exec c s = complete f s ∧ ∀ h, LawsKept h (f h) := by
  cases c with
  | powerOn a1 a2 b1 b2 => exact ⟨_, rfl, powersOn_lawsKept a1 a2 b1 b2⟩
  | startingEnd => exact ⟨_, rfl, fun h => (startingEnds_calm h).lawsKept⟩
  | timeBaseTick => exact ⟨_, rfl, tickArrives_lawsKept⟩
  | frameStart input => exact ⟨_, rfl, fun h => (frameStarts_calm input h).lawsKept⟩
  | line input pixels => exact ⟨_, rfl, fun h => (lineEnds_calm input pixels h).lawsKept⟩
  | frameEnd input => exact ⟨_, rfl, fun h => (frameEnds_calm input h).lawsKept⟩
  | silenceTimerExpiry input => exact ⟨_, rfl, fun h => (inputSilenceExpire_calm input h).lawsKept⟩
  | frameArrival port kind tag body => exact ⟨_, rfl, frameArrives_lawsKept port _⟩
  | lineError port fault => exact ⟨_, rfl, fun h => (lineFaults_calm port fault h).lawsKept⟩
  | gapTimerExpiry port => exact ⟨_, rfl, fun h => (gapExpire_calm port h).lawsKept⟩
  | controlFrameTransmitted port => exact ⟨_, rfl, frameSent_lawsKept port⟩
  | badKind port kind tag => exact ⟨_, rfl, badKindArrives_lawsKept port kind tag⟩
  | plateData port tag plate tile headerCheck =>
    exact ⟨_, rfl, fun h => (plateDataArrives_calm port tag plate tile headerCheck h).lawsKept⟩
  | plateDataEnd port lastCheckByte => exact ⟨_, rfl, fun h => (plateDataEnds_calm port lastCheckByte h).lawsKept⟩
  | commitDone plate => exact ⟨_, rfl, fun h => (commitDone_calm plate h).lawsKept⟩
  | hubAsk | hubReset | lineSet | noticeSet | inputSetEnable | inputSetDisable | inputAsk
  | plateOpen | plateCommit | plateDrop | plateAsk | screenBind | screenUnbind | screenAsk
  | layoutSet | fillSet | paceSetScreen | paceSetGroup | groupSet | claim | yieldScreen
  | seize | returnScreen | linkSetEnable | linkSetDisable | linkReset | linkPark
  | linkWake | linkAsk | levelSet | curveSet | lightAsk =>
    exact ⟨_, rfl, frameArrives_lawsKept _ _⟩
  | paceGateOpens screen =>
    exact ⟨fun h => if paceOpen h.screens[screen] then startScreen h screen else h, rfl, fun h =>
      LawsKept.ite (fun _ => startScreen_lawsKept h screen) fun _ => .refl h⟩
  | groupPaceGateOpens group =>
    exact ⟨fun h => if groupPaceOpen h.groups[group] then startGroup h group else h, rfl, fun h =>
      LawsKept.ite (fun _ => startGroup_lawsKept h group) fun _ => .refl h⟩
  | cycleStart screen => exact ⟨fun h => startScreen h screen, rfl, fun h => startScreen_lawsKept h screen⟩
  | jointStart group => exact ⟨fun h => startGroup h group, rfl, fun h => startGroup_lawsKept h group⟩
  | bufferGrant => exact ⟨fun h => (grantOnce h).getD h, rfl, grant_lawsKept⟩
  | loadEnd buffer => exact ⟨_, rfl, loadEnds_lawsKept buffer⟩
  | tileTransmitted link => exact ⟨_, rfl, tileTransmitted_lawsKept link⟩
  | showTransmitted link => exact ⟨_, rfl, showTransmitted_lawsKept link⟩
  | rollTransmitted link => exact ⟨_, rfl, rollTransmitted_lawsKept link⟩
  | pollTransmitted link => exact ⟨_, rfl, pollTransmitted_lawsKept link⟩
  | parkTransmitted link => exact ⟨_, rfl, parkTransmitted_lawsKept link⟩
  | taken link address tile signature =>
    exact ⟨_, rfl, takePacket_lawsKept (takenTaken_lawsKept link address tile signature)⟩
  | refused link address tile reason =>
    exact ⟨_, rfl, takePacket_lawsKept (refusedTaken_lawsKept link address tile reason)⟩
  | replyTimerExpiry buffer => exact ⟨_, rfl, replyTimerExpire_lawsKept buffer⟩
  | gatheringEnd screen =>
    exact ⟨fun h => showIfReady (endGathering h screen) screen, rfl, fun h =>
      (endGathering_lawsKept h screen).trans (showIfReady_lawsKept _ screen)⟩
  | cutEnd screen => exact ⟨fun h => endCut h screen, rfl, fun h => endCut_lawsKept h screen⟩
  | groupRelease group => exact ⟨fun h => releaseGroup h group, rfl, fun h => releaseGroup_lawsKept h group⟩
  | shown link address number => exact ⟨_, rfl, takePacket_lawsKept (shownTaken_lawsKept link address number)⟩
  | showTimerExpiry screen => exact ⟨_, rfl, showTimerExpire_lawsKept screen⟩
  | loss link address => exact ⟨_, rfl, takePacket_lawsKept (lossTaken_lawsKept link address)⟩
  | upstreamCheckFailure link => exact ⟨_, rfl, upstreamFailure_lawsKept link⟩
  | checkWindowClear => exact ⟨_, rfl, fun h => (clearWindow_calm h).lawsKept⟩
  | holdTimerExpiry link => exact ⟨_, rfl, fun h => (holdExpire_calm link h).lawsKept⟩
  | lock link rate => exact ⟨_, rfl, lockReported_lawsKept link rate⟩
  | attemptTimerExpiry link => exact ⟨_, rfl, fun h => (attemptExpire_calm link h).lawsKept⟩
  | retryTimerExpiry link => exact ⟨_, rfl, fun h => (retryExpire_calm link h).lawsKept⟩
  | lossOfLock link => exact ⟨_, rfl, lockLost_lawsKept link⟩
  | hello link address identity credit columns rows =>
    exact ⟨_, rfl, takePacket_lawsKept (helloTaken_lawsKept link address identity credit columns rows)⟩
  | rollWaitExpiry link => exact ⟨_, rfl, rollExpire_lawsKept link⟩
  | silenceTimerExpiryLink link row => exact ⟨_, rfl, fun h => (silenceLinkExpire_calm link row h).lawsKept⟩
  | pollWaitExpiry link row => exact ⟨_, rfl, pollWaitExpire_lawsKept link row⟩
  | lostPollTimerExpiry link row => exact ⟨_, rfl, fun h => (lostPollExpire_calm link row h).lawsKept⟩
  | state link address credit => exact ⟨_, rfl, takePacket_lawsKept (stateTaken_lawsKept link address credit)⟩
  | note link address payload => exact ⟨_, rfl, noteArrives_lawsKept link address payload⟩
  | wakeLineChange link asserted => exact ⟨_, rfl, fun h => (wakeLineChanged_calm link asserted h).lawsKept⟩
  | warmUpTimerExpiry link => exact ⟨_, rfl, fun h => (warmExpire_calm link h).lawsKept⟩
  | levelTick => exact ⟨_, rfl, fun h => (levelTick_calm h).lawsKept⟩
  | conversionStart => exact ⟨_, rfl, fun h => (startConversions_calm h).lawsKept⟩
  | conversionEnd input result => exact ⟨_, rfl, fun h => (endConversion_calm input result h).lawsKept⟩
  | byteEvent port byte parityBit stopBit => exact ⟨_, rfl, fun h => (byteArrives_calm port byte _ h).lawsKept⟩
  | levelOrBlankTransmitted link => exact ⟨_, rfl, levelOrBlankTransmitted_lawsKept link⟩
  | packetOfNoListedKind link address kind => exact ⟨_, rfl, unlistedArrives_lawsKept link address kind⟩

theorem complete_keeps {f : Hub → Hub} (keeps : ∀ h, LawsKept h (f h)) {s t : State} (completed : complete f s = .next t) :
    LawsKept s.hub t.hub := by
  have after : t.hub = settle (f s.hub) := by
    rw [complete, Host.Outcome.next.injEq] at completed
    rw [← completed]
  rw [after]
  exact .trans (keeps s.hub) (settle_lawsKept (f s.hub))

theorem step_keeps {s t : State} (stepped : step s = .next t) : LawsKept s.hub t.hub := by
  unfold step at stepped
  split at stepped
  · cases stepped
    exact .refl _
  · next c rest _ =>
    obtain ⟨f, effect, keeps⟩ := exec_keeps c { s with pending := rest }
    rw [effect] at stepped
    exact complete_keeps (s := { s with pending := rest }) keeps stepped

/-- Settles O55, by the relation that every step keeps the laws. -/
theorem memoryStaysCanonical : Obligations.MemoryStaysCanonical := fun _ _ wf stepped => (step_keeps stepped).dram wf

/-- Settles O56, by the relation that every step keeps the laws. -/
theorem screenLawsKept : Obligations.ScreenLawsKept :=
  ⟨fun _ _ law stepped => (step_keeps stepped).seized law, fun _ _ law stepped => (step_keeps stepped).pool law⟩

/-- Settles O57, by the relation that every step keeps the laws. -/
theorem slotAndQueueLawsKept : Obligations.SlotAndQueueLawsKept := by
  refine ⟨fun _ _ filling newest stepped => (step_keeps stepped).slots ⟨filling, newest⟩, ?_⟩
  rintro _ _ ⟨portA, portB⟩ stepped
  exact ⟨(step_keeps stepped).portA portA, (step_keeps stepped).portB portB⟩

/-- Settles O58, by the relation that every step keeps the laws. -/
theorem deliveryLawsKept : Obligations.DeliveryLawsKept := fun _ _ laws stepped => (step_keeps stepped).delivery laws

/-- Settles O59, by the relation that every step keeps the laws. -/
theorem readerLawsKept : Obligations.ReaderLawsKept := fun _ _ laws stepped => (step_keeps stepped).readers laws

end Sys2Proof.Machine

/-! O1 to O4, O19, O60: single steps, check values, power-on, notices, and the laws after a reset. -/

namespace Sys2Proof.Machine

/-- Settles O1, by the definition of a step. -/
theorem stepTakesTheFrontCommand : Obligations.StepTakesTheFrontCommand := by
  refine ⟨fun c rest s pending => ?_, fun s pending => ?_⟩
  · rw [step, pending]
  · rw [step, pending]

/-- Settles O2, by the form of every meaning. -/
theorem everyCommandCompletes : Obligations.EveryCommandCompletes := by
  intro c s
  obtain ⟨f, effect, -⟩ := exec_keeps c s
  exact ⟨_, effect, rfl⟩

/-- Settles O3, by evaluation of the three registers over the digits. -/
theorem checkValues : Obligations.CheckValues := by
  refine ⟨?_, ?_, ?_, fun _ => rfl, fun _ => ⟨rfl, rfl⟩⟩
  · decide +kernel
  · decide +kernel
  · decide +kernel

/-! ### Power-on and Starting (R183, R184) -/

/-- R184: Starting ends when its ticks are counted. -/
theorem startingOver_iff {h : Hub} : startingOver h = true ↔ h.starting = true ∧ 20 ≤ h.ticks := by
  rw [startingOver, Bool.and_eq_true, decide_eq_true_iff]
  rfl

theorem startingEnds_over {h : Hub} (starting : h.starting = true) (ticks : 20 ≤ h.ticks) :
    startingEnds h = notify [.b] .ready [h.cause.code, h.portB.rate.code]
      (notify [.a] .ready [h.cause.code, h.portA.rate.code] { h with starting := false }) := by
  rw [startingEnds, if_pos (startingOver_iff.2 ⟨starting, ticks⟩)]
  rfl

theorem startingEnds_early {h : Hub} (early : h.starting = false ∨ h.ticks < 20) : startingEnds h = h := by
  refine if_neg fun ended => ?_
  obtain ⟨starting, ticks⟩ := startingOver_iff.1 ended
  rcases early with begun | few
  · exact absurd starting (Bool.eq_false_iff.1 begun)
  · exact absurd ticks (Nat.not_le.2 few)

/-- Settles O4, by whether Starting is over. -/
theorem powerOnAndStarting : Obligations.PowerOnAndStarting := by
  refine ⟨⟨fun a1 a2 b1 b2 s => complete_completes (f := powersOn a1 a2 b1 b2) rfl rfl, rfl, rfl, rfl, rfl⟩,
    fun s starting ticks => ?_, fun s early => ?_⟩
  · exact complete_completes (f := startingEnds) rfl (startingEnds_over starting ticks)
  · exact complete_completes (f := startingEnds) rfl (startingEnds_early early)

/-! ### Notices (R168) -/

theorem offer_masked {x : PortState} {k : NoticeKind} (body : List Byte) (masked : x.mask.getLsbD k.bit = false) :
    x.offer k body = x := if_pos (by rw [masked]; rfl)

theorem offer_full {x : PortState} {k : NoticeKind} (body : List Byte) (open' : x.mask.getLsbD k.bit = true)
    (full : x.notices.length = 32) : x.offer k body = { x with lost := true } := by
  rw [PortState.offer, if_neg (by rw [open']; nofun)]
  exact if_pos full.ge

theorem offer_room {x : PortState} {k : NoticeKind} (body : List Byte) (open' : x.mask.getLsbD k.bit = true)
    (room : x.notices.length < 32) :
    x.offer k body =
      { x with notices := x.notices ++ [{ kind := k.code, tag := 0, body := flag x.lost :: body }], lost := false } := by
  rw [PortState.offer, if_neg (by rw [open']; nofun)]
  exact if_neg (Nat.not_le.2 room)

/-- R168: each port of a list without duplicates is offered the notice once. -/
theorem notify_each {ports : List Port} (k : NoticeKind) (body : List Byte) (h : Hub) (nodup : ports.Nodup) :
    notify ports k body h =
      { h with
        portA := if .a ∈ ports then h.portA.offer k body else h.portA
        portB := if .b ∈ ports then h.portB.offer k body else h.portB } := by
  induction ports generalizing h with
  | nil => rfl
  | cons p ports ih =>
    obtain ⟨fresh, rest⟩ := List.nodup_cons.1 nodup
    have first : notify (p :: ports) k body h = notify ports k body (offer k body h p) := rfl
    rw [first, ih _ rest]
    cases p with
    | a => simp [fresh, offer, Hub.modPort]
    | b => simp [fresh, offer, Hub.modPort]

/-- Settles O19, by the parts of the definition of an offer. -/
theorem noticeOffered : Obligations.NoticeOffered := by
  refine ⟨fun ports k body h => notify_each k body h, fun p => ⟨rfl, rfl⟩, fun k => by cases k <;> rfl, rfl,
    fun p kind tag r data h => rfl, fun x k body => ⟨offer_masked body, offer_full body, offer_room body⟩⟩

/-! ### The part after a reset (R183) -/

/-- The laws of R183 at every reset. -/
theorem reset_laws (cause : ResetCause) (rateA rateB : LineRate) (wakeLines : Vector Bool 6) {h : Hub}
    (reset : h = Hub.reset cause rateA rateB wakeLines) :
    h.dram.wf = true ∧ seizedOwnedByB h ∧ poolLaw h ∧ fillingLaw h ∧ newestLaw h ∧ queuesBounded h ∧ noFrameWaits h ∧
      readerLaws h ∧ deliveryLaws h := by
  subst reset
  exact ⟨reset_memory_wf _ _ _ _, reset_seizedOwnedByB _ _ _ _, reset_poolLaw _ _ _ _, reset_fillingLaw _ _ _ _,
    reset_newestLaw _ _ _ _, ⟨PortState.reset_bounded _, PortState.reset_bounded _⟩, ⟨rfl, rfl⟩,
    reset_readerLaws _ _ _ _, reset_deliveryLaws _ _ _ _⟩

theorem reset_freeEntries (cause : ResetCause) (rateA rateB : LineRate) (wakeLines : Vector Bool 6) :
    freeEntries (Hub.reset cause rateA rateB wakeLines) = 8192 := by
  unfold freeEntries
  simp only [reset_screen]
  decide

theorem reset_curve (cause : ResetCause) (rateA rateB : LineRate) (wakeLines : Vector Bool 6) (g : Fin 4) :
    (Hub.reset cause rateA rateB wakeLines).curves[g] = Curve.reset := by
  simp [Hub.reset]

theorem reset_group (cause : ResetCause) (rateA rateB : LineRate) (wakeLines : Vector Bool 6) (g : Fin 4) :
    (Hub.reset cause rateA rateB wakeLines).groups[g] = Group.reset := by
  simp [Hub.reset]

theorem reset_light (cause : ResetCause) (rateA rateB : LineRate) (wakeLines : Vector Bool 6) (i : Fin 2) :
    (Hub.reset cause rateA rateB wakeLines).lights[i] = LightInput.reset := by
  simp [Hub.reset]

/-- Settles O60, block by block of the state after a reset. -/
theorem lawsHoldAtReset : Obligations.LawsHoldAtReset := by
  refine ⟨rfl, fun cause rateA rateB wakeLines h reset => ?_⟩
  have laws := reset_laws cause rateA rateB wakeLines reset
  subst reset
  refine ⟨⟨rfl, rfl, rfl, rfl, rfl, rfl, rfl, rfl, fun _ => rfl, reset_freeEntries _ _ _ _⟩, fun i => ?_, fun p => ?_,
    fun n => ?_, fun g => ?_, reset_buffer _ _ _ _, rfl, fun l => ?_, fun p rate rateAt rateBt => ?_, laws⟩
  · exact ⟨reset_capture _ _ _ _ i, reset_light _ _ _ _ i, fun k => reset_slot _ _ _ _ i k⟩
  · have plate := reset_plate cause rateA rateB wakeLines p
    refine ⟨congrArg Plate.size plate, congrArg Plate.live plate, congrArg Plate.version plate, fun c => ?_⟩
    exact reset_copy _ _ _ _ p c
  · exact reset_screen _ _ _ _ n
  · exact ⟨reset_group _ _ _ _ g, reset_curve _ _ _ _ g⟩
  · exact reset_link _ _ _ _ l
  · cases p with
    | a => exact rateAt rfl ▸ rfl
    | b => exact rateBt rfl ▸ rfl

end Sys2Proof.Machine

/-! O6, O7, O9, O10, O11: the picture inputs. -/

namespace Sys2Proof.Machine

/-! ### Frame starts (R9, R10) -/

/-- R9: the frame takes the free slot. -/
theorem acceptFrame_stored {h : Hub} {i : Fin 2} {k : Fin 3} {z : Size} (size : h.captures[i].size = some z)
    (free : freeSlot h i = some k) :
    acceptFrame i h =
      { h with
        captures := upd h.captures i fun c =>
          { c with
            state := .filling, silence := some 100, filling := some k, lines := 0,
            running := List.replicate z.columns 0xFFFFFFFF }
        slots := upd h.slots i fun v => upd v k fun _ =>
          { state := .filling, number := none, size := some z,
            signatures := List.replicate (z.columns * z.rows) none, readers := ScreenSet.empty } } := by
  have found : freeSlot (h.modCapture i fun c => { c with silence := some Config.silenceTicks }) i = some k := free
  unfold acceptFrame
  dsimp only
  rw [found]
  dsimp only
  unfold beginFilling Hub.modSlot Hub.modCapture
  simp only [upd_upd, upd_get_same, size, Option.getD_some]
  rfl

/-- R13: the frame is dropped. -/
theorem acceptFrame_dropped {h : Hub} {i : Fin 2} (full : freeSlot h i = none) :
    acceptFrame i h =
      if h.captures[i].dropArmed then
        notify (ownerOrBoth h.captures[i].port) .dropped
          ([byteOfFin i] ++ be16 (h.captures[i].drops + 1) ++ optional 4 be32 (newestNumber h i))
          (h.modCapture i fun c =>
            { c with state := .waiting, silence := some 100, drops := c.drops + 1, dropArmed := false })
      else h.modCapture i fun c =>
        { c with state := .waiting, silence := some 100, drops := c.drops + 1, dropArmed := false } := by
  have found : freeSlot (h.modCapture i fun c => { c with silence := some Config.silenceTicks }) i = none := full
  unfold acceptFrame
  dsimp only
  rw [found]
  dsimp only
  unfold dropFrame inputPorts Hub.modCapture
  simp only [upd_upd, upd_get_same]
  rfl

/-- Settles O6, by the state of the input and whether a slot is free. -/
theorem frameStart : Obligations.FrameStart := by
  have starts {s : State} {i : Fin 2} {h : Hub} (eq : frameStarts i s.hub = h) : Completes (.frameStart i) s h :=
    complete_completes (f := frameStarts i) rfl eq
  refine ⟨fun h i k z => acceptFrame_stored, fun h i => acceptFrame_dropped, fun s i waiting => starts ?_,
    fun s i filling => starts ?_, fun s i silent => starts ?_, fun s i off => starts ?_, fun h i => ?_⟩
  · rw [frameStarts, waiting]
  · rw [frameStarts, filling]
  · rw [frameStarts, silent]
    rfl
  · rw [frameStarts, off]
  · obtain ⟨first, none⟩ := freeSlot_first h i
    exact ⟨first, none, rfl⟩

/-! ### Tears (R8) -/

theorem tear_filling {h : Hub} {i : Fin 2} {k : Fin 3} (r : TearReason) (filling : h.captures[i].filling = some k) :
    tear i r h =
      notify (ownerOrBoth h.captures[i].port) .torn ([byteOfFin i, r.code] ++ be32 h.captures[i].frames)
        { h with
          captures := upd h.captures i fun c =>
            { c with filling := none, lines := 0, running := [], torn := c.torn + 1 }
          slots := upd h.slots i fun v => upd v k fun _ => Slot.free } := by
  unfold tear inputPorts
  simp only [filling, Hub.modSlot, Hub.modCapture, upd_get_same]

section
variable {s : State} {i : Fin 2} {pixels : List Colour}

theorem line_completes {h : Hub} (eq : lineEnds i pixels s.hub = h) : Completes (.line i pixels) s h :=
  complete_completes (f := lineEnds i pixels) rfl eq

theorem lineEnds_unopened {h : Hub} (closed : h.captures[i].filling = none) : lineEnds i pixels h = h := by
  unfold lineEnds
  rw [closed]

/-- R11: a line of the frame that is open. -/
theorem lineEnds_open {h : Hub} {k : Fin 3} {z : Size} (filling : h.captures[i].filling = some k)
    (size : h.captures[i].size = some z) :
    lineEnds i pixels h =
      if pixels.length ≠ 40 * z.columns then setInput i .waiting (tear i .length h)
      else if 40 * z.rows ≤ h.captures[i].lines then setInput i .waiting (tear i .long h)
      else acceptLine i k z.columns pixels h := by
  unfold lineEnds
  rw [filling, size]

end

/-- Settles O7, by the length of the line and the number of lines before it. -/
theorem tears : Obligations.Tears := by
  refine ⟨fun h i k r => tear_filling r, fun s i pixels => ⟨fun k z filling size => ⟨fun length => ?_, fun length long => ?_⟩,
    fun closed => line_completes (lineEnds_unopened closed)⟩⟩
  · exact line_completes (by rw [lineEnds_open filling size, if_pos length, setInput])
  · exact line_completes (by rw [lineEnds_open filling size, if_neg (not_not.2 length), if_pos long, setInput])

/-! ### Frame ends (R12) -/

theorem closeFrame_eq (i : Fin 2) (k : Fin 3) (h : Hub) :
    closeFrame i k h =
      { h with
        captures := upd h.captures i fun c =>
          { c with
            state := .waiting, frames := h.captures[i].frames + 1, filling := none, lines := 0, running := [] }
        slots := upd h.slots i fun v =>
          upd (v.map Slot.superseded) k fun x =>
            { x with state := .newest, number := some (h.captures[i].frames + 1) } } := by
  unfold closeFrame Hub.modSlot Hub.modCapture
  simp only [upd_upd]

/-- R12: the end of the frame that is open. -/
theorem frameEnds_open {h : Hub} {i : Fin 2} {k : Fin 3} {z : Size} (filling : h.captures[i].filling = some k)
    (size : h.captures[i].size = some z) :
    frameEnds i h =
      if h.captures[i].lines = 40 * z.rows then closeFrame i k h else setInput i .waiting (tear i .short h) := by
  unfold frameEnds
  rw [filling, size]

/-- Settles O9, by the number of lines of the frame. -/
theorem frameEnd : Obligations.FrameEnd := by
  intro s i
  have ends {h : Hub} (eq : frameEnds i s.hub = h) : Completes (.frameEnd i) s h :=
    complete_completes (f := frameEnds i) rfl eq
  refine ⟨fun k z filling size => ⟨fun full => ends ?_, fun short => ends ?_⟩, fun closed => ends ?_⟩
  · rw [frameEnds_open filling size, if_pos full, closeFrame_eq]
    have counted : upd s.hub.captures i (fun c =>
        { c with
          state := .waiting, frames := s.hub.captures[i].frames + 1, filling := none, lines := 0, running := [] }) =
        upd s.hub.captures i fun c =>
          { c with state := .waiting, frames := c.frames + 1, filling := none, lines := 0, running := [] } :=
      upd_congr rfl
    rw [counted]
    rfl
  · rw [frameEnds_open filling size, if_neg short, setInput]
  · unfold frameEnds
    rw [closed]

/-! ### Silence (R7) -/

theorem becomeSilent_eq (h : Hub) (i : Fin 2) :
    becomeSilent i h =
      notify (ownerOrBoth h.captures[i].port) .silent ([byteOfFin i, 0] ++ be16 (h.captures[i].silences + 1))
        (h.modCapture i fun c => { c with state := .silent, silence := none, silences := c.silences + 1 }) := by
  unfold becomeSilent sendSilent inputPorts
  simp only [Hub.modCapture_captures, upd_get_same]

theorem Timer.due_iff {t : Timer} : t.due = true ↔ t = some 0 := beq_iff_eq

theorem inputSilenceDue_iff {h : Hub} {i : Fin 2} :
    inputSilenceDue h i = true ↔
      (h.captures[i].state = .waiting ∨ h.captures[i].state = .filling) ∧ h.captures[i].silence = some 0 := by
  simp only [inputSilenceDue, Bool.and_eq_true, Bool.or_eq_true, beq_iff_eq, Timer.due_iff]

/-- Settles O10, by whether a frame is open. -/
theorem inputSilence : Obligations.InputSilence := by
  refine ⟨becomeSilent_eq, fun s i due => ⟨fun waiting => ?_, fun filling => ?_⟩⟩
  · refine complete_completes (f := inputSilenceExpire i) rfl ?_
    rw [inputSilenceExpire, if_pos (inputSilenceDue_iff.2 ⟨.inl waiting, due⟩), if_neg (by rw [waiting]; nofun)]
  · refine complete_completes (f := inputSilenceExpire i) rfl ?_
    rw [inputSilenceExpire, if_pos (inputSilenceDue_iff.2 ⟨.inr filling, due⟩), if_pos filling]

/-! ### INPUT-SET (R4 to R6) -/

@[simp] theorem hunting_captures (p : Port) (h : Hub) : (h.hunting p).captures = h.captures := Hub.modPort_captures h p _

theorem within_of {lo hi : Nat} {b : Byte} (low : lo ≤ b.toNat) (high : b.toNat ≤ hi) : within lo hi b = true := by
  simp [within, low, high]

/-- R173 step 3: every field of a request is in range. -/
theorem plainBad_eq_none {checks : List Bool} (all : ∀ c ∈ checks, c = true) : plainBad checks = none := by
  have found : checks.findIdx? (fun ok => !ok) = none := by
    rw [List.findIdx?_eq_none_iff]
    intro c mem
    rw [all c mem]
    rfl
  rw [plainBad, firstBad, found]
  rfl

theorem Layout.names_iff {l : Layout} {src : Source} : l.names src = true ↔ ∃ v ∈ l, v.source = src := by
  simp only [Layout.names, List.any_eq_true, beq_iff_eq]

/-- R5, R33: a source that a layout of the screen names. -/
theorem Screen.references_iff {x : Screen} {src : Source} :
    x.references src = true ↔
      (∃ v ∈ x.layout, v.source = src) ∨ (∃ v ∈ x.pendingLayout.getD [], v.source = src) ∨
        ∃ v ∈ (x.seize.map (·.layout)).getD [], v.source = src := by
  have pending : (x.pendingLayout.map (·.names src)).getD false = true ↔ ∃ v ∈ x.pendingLayout.getD [], v.source = src := by
    rcases x.pendingLayout with _ | l
    · simp
    · exact Layout.names_iff
  have seized : (x.seize.map (·.layout.names src)).getD false = true ↔
      ∃ v ∈ (x.seize.map (·.layout)).getD [], v.source = src := by
    rcases x.seize with _ | r
    · simp
    · exact Layout.names_iff
  rw [Screen.references, Bool.or_eq_true, Bool.or_eq_true, Layout.names_iff, pending, seized, or_assoc]

theorem bound_iff {x : Screen} : x.bound = true ↔ x.state ≠ .unbound := by rw [Screen.bound, bne_iff_ne]

theorem referencing_eq (h : Hub) (src : Source) :
    referencing h src = allScreens.filter fun n =>
      decide (h.screens[n].state ≠ .unbound ∧
        ((∃ v ∈ h.screens[n].layout, v.source = src) ∨ (∃ v ∈ h.screens[n].pendingLayout.getD [], v.source = src) ∨
          ∃ v ∈ (h.screens[n].seize.map (·.layout)).getD [], v.source = src)) := by
  refine List.filter_congr fun n _ => ?_
  rw [Bool.eq_iff_iff, Bool.and_eq_true, bound_iff, Screen.references_iff, decide_eq_true_iff]

theorem referencing_hunting (p : Port) (h : Hub) (src : Source) : referencing (h.hunting p) src = referencing h src := by
  rw [referencing, hunting_screens]
  rfl

theorem resize_eq {h : Hub} {i : Fin 2} (p : Port) (z : Size) (filling : h.captures[i].state ≠ .filling) :
    resize i p z h =
      { h with
        captures := upd h.captures i fun c =>
          { c with size := some z, frames := 0, state := .waiting, port := some p, silence := some 100 }
        slots := h.slots.set i (Vector.replicate 3 Slot.free) } := by
  unfold resize beginWaiting Hub.modCapture
  simp only [if_neg filling, upd_upd]
  rfl

theorem resize_state (i : Fin 2) (p : Port) (z : Size) (h : Hub) : (resize i p z h).captures[i].state = .waiting := by
  rw [resize, beginWaiting, Hub.modCapture_captures, upd_get_same]

section
variable {p : Port} {i : Fin 2} {z : Size} {h : Hub}

theorem enableInput_off (size : h.captures[i].size = some z) (off : h.captures[i].state = .off) :
    enableInput p i z h =
      (h.modCapture i fun c => { c with state := .waiting, port := some p, silence := some 100 }).done
        [byteOfFin i, 1] := by
  unfold enableInput enableSameSize beginWaiting
  simp only [if_pos size, if_pos off, Hub.modCapture_captures, upd_get_same]
  rfl

theorem enableInput_on (size : h.captures[i].size = some z) (on : h.captures[i].state ≠ .off) :
    enableInput p i z h =
      (h.modCapture i fun c => { c with port := some p }).done [byteOfFin i, h.captures[i].state.code] := by
  unfold enableInput enableSameSize
  simp only [if_pos size, if_neg on, Hub.modCapture_captures, upd_get_same]

theorem enableInput_resized (size : h.captures[i].size ≠ some z) (unused : referencing h (.surface i) = []) :
    enableInput p i z h = (resize i p z h).done [byteOfFin i, 1] := by
  unfold enableInput surfaceUsers
  simp only [if_neg size, unused, resize_state]
  rfl

theorem enableInput_busy (size : h.captures[i].size ≠ some z) (used : referencing h (.surface i) ≠ []) :
    enableInput p i z h = h.refuse .busy [byteOfFin i, byteOf (referencing h (.surface i)).length] := by
  unfold enableInput surfaceUsers
  rw [if_neg size, if_pos used]

theorem disableInputRequest_eq :
    disableInputRequest i h =
      ((if h.captures[i].state = .filling then tear i .disable h else h).modCapture i fun c =>
        { c with state := .off, silence := none, port := none }).done [byteOfFin i, 0] := by
  unfold disableInputRequest disableInput
  simp only [Hub.modCapture_captures, upd_get_same]
  rfl

end

theorem perform_inputSet_enable (p : Port) (tag input columns rows : Byte) (h : Hub) :
    perform p tag (.inputSet input 1 columns rows) h = enableInput p (inputOf input) (sizeOf columns rows) h := by
  rw [perform, if_pos rfl]

theorem perform_inputSet_disable (p : Port) (tag input columns rows : Byte) (h : Hub) :
    perform p tag (.inputSet input 0 columns rows) h = disableInputRequest (inputOf input) h := by
  rw [perform, if_neg (by decide)]

section
variable {s : State} {p : Port} {input columns rows : Byte} (tag : Byte)

theorem inputSetEnable_completes (atOnce : handlesAtOnce p s.hub = true) (inRange : input.toNat ≤ 1)
    (columnsLow : 1 ≤ columns.toNat) (columnsHigh : columns.toNat ≤ 64) (rowsLow : 1 ≤ rows.toNat)
    (rowsHigh : rows.toNat ≤ 36) {x : Answer}
    (answer : enableInput p (inputOf input) (sizeOf columns rows) (s.hub.hunting p) = x) :
    Completes (.inputSetEnable p tag input columns rows) s (queueAnswer p 0x10 tag x) := by
  rw [← answer, ← perform_inputSet_enable p tag]
  refine request_completes (r := .inputSet input 1 columns rows) rfl atOnce trivial (plainBad_eq_none fun c mem => ?_)
  simp only [↓reduceIte, List.cons_append, List.nil_append, List.mem_cons, List.not_mem_nil, or_false] at mem
  rcases mem with rfl | rfl | rfl | rfl
  · exact within_of (Nat.zero_le _) inRange
  · rfl
  · exact within_of columnsLow columnsHigh
  · exact within_of rowsLow rowsHigh

theorem inputSetDisable_completes (atOnce : handlesAtOnce p s.hub = true) (inRange : input.toNat ≤ 1) {x : Answer}
    (answer : disableInputRequest (inputOf input) (s.hub.hunting p) = x) :
    Completes (.inputSetDisable p tag input columns rows) s (queueAnswer p 0x10 tag x) := by
  rw [← answer, ← perform_inputSet_disable p tag input columns rows]
  refine request_completes (r := .inputSet input 0 columns rows) rfl atOnce trivial (plainBad_eq_none fun c mem => ?_)
  have other : ¬(0 : Byte) = 1 := by decide
  simp only [if_neg other, List.append_nil, List.mem_cons, List.not_mem_nil, or_false] at mem
  rcases mem with rfl | rfl
  · exact within_of (Nat.zero_le _) inRange
  · rfl

end

/-- Settles O11, by the size, the state and the users of the input. -/
theorem inputSet : Obligations.InputSet := by
  refine ⟨fun s p tag input columns rows atOnce inRange => ⟨fun cl ch rl rh => ?_, ?_⟩, referencing_eq,
    fun h i p z filling => resize_eq p z filling⟩
  · have completes {x : Answer} := inputSetEnable_completes tag atOnce inRange cl ch rl rh (x := x)
    refine ⟨fun size => ⟨fun off => ?_, fun on => ?_⟩, fun size => ⟨fun unused => ?_, fun used => ?_⟩⟩
    · have enabled := completes (enableInput_off (by rwa [hunting_captures]) (by rwa [hunting_captures]))
      rwa [queueAnswer_done] at enabled
    · have enabled := completes (enableInput_on (by rwa [hunting_captures]) (by rwa [hunting_captures]))
      rwa [queueAnswer_done, hunting_captures] at enabled
    · have resized := completes (enableInput_resized (by rwa [hunting_captures])
        ((referencing_hunting p s.hub _).trans unused))
      rwa [queueAnswer_done] at resized
    · have refused := completes (enableInput_busy (by rwa [hunting_captures])
        (by rwa [referencing_hunting]))
      rwa [queueAnswer_refuse, referencing_hunting] at refused
  · have disabled := inputSetDisable_completes (columns := columns) (rows := rows) tag atOnce inRange disableInputRequest_eq
    rwa [queueAnswer_done, hunting_captures] at disabled

end Sys2Proof.Machine

/-! O8: an accepted line of a picture (R11). -/

namespace Sys2Proof.Machine

/-! ### The bytes of a line -/

theorem Colour.bytes_length (x : Colour) : x.bytes.length = 3 := rfl

/-- R11: 40 pixels of 3 bytes each. -/
theorem lineBytes_length {pixels : List Colour} {w c : Nat} (length : pixels.length = 40 * w) (lt : c < w) :
    (lineBytes pixels c).length = 120 := by
  rw [lineBytes, flatMap_length_const Colour.bytes_length, List.length_take, List.length_drop, length]
  omega

/-- The strip of a tile column lies in the tile of that column. -/
theorem lineAddress_inj {i : Fin 2} {k : Fin 3} {w y c d j e : Nat} (jLow : j < 120) (eLow : e < 120)
    (same : lineAddress i k w y c + j = lineAddress i k w y d + e) : c = d ∧ j = e := by
  unfold lineAddress Config.tileBytes at same
  omega

section
variable (i : Fin 2) (k : Fin 3) (w y : Nat) (pixels : List Colour)

/-- The first strips of a line, stored. -/
def writeStrips (n : Nat) (m : Memory) : Memory :=
  (List.range n).foldl (fun m c => m.writeBytes (lineAddress i k w y c) (lineBytes pixels c)) m

theorem writeLine_eq (m : Memory) : writeLine i k w y pixels m = writeStrips i k w y pixels w m := rfl

theorem writeStrips_succ (n : Nat) (m : Memory) :
    writeStrips i k w y pixels (n + 1) m =
      (writeStrips i k w y pixels n m).writeBytes (lineAddress i k w y n) (lineBytes pixels n) := by
  rw [writeStrips, List.range_succ, List.foldl_append]
  rfl

theorem writeStrips_wf (n : Nat) {m : Memory} (wf : m.wf = true) : (writeStrips i k w y pixels n m).wf = true := by
  induction n with
  | zero => exact wf
  | succ n ih =>
    rw [writeStrips_succ]
    exact Memory.writeBytes_wf ih _ _

variable {i k w y pixels}

theorem writeStrips_outside {n : Nat} (le : n ≤ w) (length : pixels.length = 40 * w) {m : Memory} {a : Nat}
    (out : ∀ c < n, ∀ j < 120, a ≠ lineAddress i k w y c + j) : (writeStrips i k w y pixels n m).read a = m.read a := by
  induction n with
  | zero => rfl
  | succ n ih =>
    rw [writeStrips_succ, Memory.read_writeBytes_outside, ih (by omega) fun c lt => out c (by omega)]
    rw [lineBytes_length length (by omega)]
    by_contra inside
    exact out n (by omega) (a - lineAddress i k w y n) (by omega) (by omega)

theorem writeStrips_inside {n : Nat} (le : n ≤ w) (length : pixels.length = 40 * w) {m : Memory} (wf : m.wf = true)
    {c j : Nat} (column : c < n) (byte : j < 120) :
    (writeStrips i k w y pixels n m).read (lineAddress i k w y c + j) = (lineBytes pixels c).getD j 0 := by
  induction n with
  | zero => omega
  | succ n ih =>
    have strip := lineBytes_length (pixels := pixels) (w := w) (c := n) length (by omega)
    rw [writeStrips_succ]
    by_cases last : c = n
    · subst last
      have bound : j < (lineBytes pixels c).length := by omega
      rw [Memory.read_writeBytes_inside (writeStrips_wf i k w y pixels c wf) _ _ j bound, List.getD_eq_getElem _ _ bound]
    · rw [Memory.read_writeBytes_outside, ih (by omega) (by omega)]
      rw [strip]
      by_contra inside
      refine last (lineAddress_inj (w := w) (y := y) (i := i) (k := k) (e := lineAddress i k w y c + j - lineAddress i k w y n)
        byte (by omega) (by omega)).1

end

/-! ### What an accepted line does -/

section
variable (i : Fin 2) (k : Fin 3) (w : Nat) (pixels : List Colour) (h : Hub)

theorem acceptLine_dram : (acceptLine i k w pixels h).dram = writeLine i k w h.captures[i].lines pixels h.dram := by
  unfold acceptLine
  dsimp only
  split <;> rfl

theorem acceptLine_rest :
    acceptLine i k w pixels h =
      { h with
        captures := (acceptLine i k w pixels h).captures, slots := (acceptLine i k w pixels h).slots
        dram := (acceptLine i k w pixels h).dram } := by
  unfold acceptLine
  dsimp only
  split <;> rfl

theorem acceptLine_captures :
    (acceptLine i k w pixels h).captures = upd h.captures i fun c =>
      { c with
        lines := h.captures[i].lines + 1
        running :=
          if h.captures[i].lines % 40 = 39 then List.replicate w signatureStart
          else runSignatures h.captures[i].running pixels } := by
  unfold acceptLine
  dsimp only
  split
  · rfl
  · rfl

theorem acceptLine_slots :
    (acceptLine i k w pixels h).slots =
      if h.captures[i].lines % 40 = 39 then
        upd h.slots i fun v => upd v k fun s =>
          { s with
            signatures :=
              enterRow w (h.captures[i].lines / 40) (runSignatures h.captures[i].running pixels) s.signatures }
      else h.slots := by
  unfold acceptLine
  dsimp only
  split
  · rfl
  · rfl

theorem acceptLine_slots_other {j : Fin 2} {m : Fin 3} (ne : j ≠ i ∨ m ≠ k) :
    (acceptLine i k w pixels h).slots[j][m] = h.slots[j][m] := by
  rw [acceptLine_slots]
  by_cases ends : h.captures[i].lines % 40 = 39
  · rw [if_pos ends]
    by_cases here : j = i
    · subst here
      rw [upd_get_same, upd_get_other _ _ (ne.resolve_left fun away => away rfl).symm]
    · rw [upd_get_other _ _ (Ne.symm here)]
  · rw [if_neg ends]

theorem acceptLine_slot :
    (acceptLine i k w pixels h).slots[i][k] =
      { h.slots[i][k] with
        signatures :=
          if h.captures[i].lines % 40 = 39 then
            enterRow w (h.captures[i].lines / 40) (runSignatures h.captures[i].running pixels) h.slots[i][k].signatures
          else h.slots[i][k].signatures } := by
  rw [acceptLine_slots]
  by_cases ends : h.captures[i].lines % 40 = 39
  · rw [if_pos ends, if_pos ends, upd_get_same, upd_get_same]
  · rw [if_neg ends, if_neg ends]

end

/-- R11: the entry of a row of tiles in the finished signatures. -/
theorem enterRow_get (w row : Nat) (running : List Signature) {table : List (Option Signature)} {t : Nat}
    (lt : t < table.length) :
    (enterRow w row running table)[t]? =
      if row * w ≤ t ∧ t < row * w + w then some ((running[t - row * w]?).map (~~~ ·)) else table[t]? := by
  rw [enterRow, List.getElem?_mapIdx, List.getElem?_eq_getElem lt, Option.map_some]
  split <;> rfl

theorem line_accepted {s : State} {i : Fin 2} {k : Fin 3} {z : Size} {pixels : List Colour}
    (filling : s.hub.captures[i].filling = some k) (size : s.hub.captures[i].size = some z)
    (length : pixels.length = 40 * z.columns) (lines : s.hub.captures[i].lines < 40 * z.rows) :
    Completes (.line i pixels) s (acceptLine i k z.columns pixels s.hub) :=
  line_completes (by rw [lineEnds_open filling size, if_neg (not_not.2 length), if_neg (Nat.not_le.2 lines)])

/-- Settles O8, by the strips of the line and by whether it ends a row of tiles. -/
theorem lineAccepted : Obligations.LineAccepted := by
  refine ⟨fun s i k z pixels wf filling size length lines => ?_, fun pixels c => rfl,
    fun s i k z pixels filling size length lines => ?_⟩
  · refine ⟨_, line_accepted filling size length lines, ?_, fun c column j byte => ?_, fun a out => ?_, fun j ne => ?_,
      fun m ne => acceptLine_slots_other i k _ _ _ (.inr ne), acceptLine_rest i k _ _ _, ?_, ?_⟩
    · rw [acceptLine_captures, upd_get_same]
    · rw [acceptLine_dram, writeLine_eq]
      exact writeStrips_inside le_rfl length wf column byte
    · rw [acceptLine_dram, writeLine_eq]
      exact writeStrips_outside le_rfl length out
    · refine ⟨?_, Vector.ext fun m lt => acceptLine_slots_other i k _ _ _ (m := ⟨m, lt⟩) (.inl ne)⟩
      rw [acceptLine_captures, upd_get_other _ _ ne.symm]
    · rw [acceptLine_captures, upd_get_same]
    · rw [acceptLine_slot]
  · refine ⟨_, line_accepted filling size length lines, ?_, fun t lt r row => ?_⟩
    · rw [acceptLine_captures, upd_get_same]
      rfl
    · subst row
      rw [acceptLine_slot]
      by_cases ends : s.hub.captures[i].lines % 40 = 39
      · simp only [ends, true_and, if_true]
        rw [enterRow_get _ _ _ lt, runSignatures, List.getElem?_mapIdx, Option.map_map]
        rfl
      · simp only [ends, false_and, if_false]

end Sys2Proof.Machine

/-! O12, O13, O14: bytes and frames that arrive at a control port. -/

namespace Sys2Proof.Machine

/-! ### Faults outside an accepted write-through frame (R162) -/

/-- R26, R27: the reception is not that of an accepted write-through frame. -/
def Reception.unaccepted (r : Reception) : Prop := ∀ pl c t, r.through ≠ some (.accepted pl c t)

theorem Reception.unaccepted_of_none {r : Reception} (none : r.through = none) : r.unaccepted := fun _ _ _ accepted => by
  cases none.symm.trans accepted

theorem abandon_unaccepted {r : Reception} (un : r.unaccepted) (p : Port) (e : ErrorClass) (h : Hub) :
    abandon p e r h = lineError p e h := by
  unfold abandon
  split
  · next through => exact absurd through (un _ _ _)
  · rfl
  · rfl

/-! ### A byte, by the receiver of its port (R160, R161) -/

theorem setReception_eq (p : Port) (r : Reception) (h : Hub) :
    setReception p r h = h.modPort p fun x => { x with receiver := .receiving r, gap := some 2 } := rfl

section
variable {p : Port} {b : Byte} {good : Bool} {r : Reception} {h : Hub}

theorem byteArrives_starting (starting : h.starting = true) : byteArrives p b good h = h := if_pos starting

theorem byteArrives_begins (started : h.starting = false) (hunting : (h.port p).receiver = .hunting) :
    byteArrives p 0xC3 true h = setReception p Reception.start h := by
  rw [byteArrives, if_neg (by rw [started]; nofun), hunting]
  exact if_pos ⟨rfl, rfl⟩

theorem byteArrives_discarded (started : h.starting = false) (hunting : (h.port p).receiver = .hunting)
    (other : good = false ∨ b ≠ 0xC3) : byteArrives p b good h = h := by
  rw [byteArrives, if_neg (by rw [started]; nofun), hunting]
  refine if_neg fun begins => ?_
  rcases other with bad | ne
  · rw [bad] at begins
    exact absurd begins.1 nofun
  · exact ne begins.2

theorem byteArrives_good (started : h.starting = false) (receiver : (h.port p).receiver = .receiving r) :
    byteArrives p b true h = receiveByte p b r h := by
  rw [byteArrives, if_neg (by rw [started]; nofun), receiver]
  exact if_pos rfl

theorem byteArrives_bad (started : h.starting = false) (receiver : (h.port p).receiver = .receiving r) :
    byteArrives p b false h = abandon p .framing r h := by
  rw [byteArrives, if_neg (by rw [started]; nofun), receiver]
  exact if_neg nofun

/-! ### A good byte inside a frame, by its place (R161) -/

theorem receiveByte_firstCheck (position : r.position = .check) (got : r.got = 0) :
    receiveByte p b r h = setReception p { r with firstCheck := b, got := 1 } h := by
  rw [receiveByte, position]
  exact if_pos got

theorem receiveByte_lastCheck (position : r.position = .check) (got : r.got = 1) :
    receiveByte p b r h = frameEndsAt p b r h := by
  rw [receiveByte, position]
  exact if_neg (by rw [got]; nofun)

theorem receiveByte_tooLong (position : r.position = .length) (got : r.got = 1) (long : 4803 < r.length + b.toNat) :
    receiveByte p b r h = abandon p .length r h := by
  rw [receiveByte, position]
  exact (if_neg (by rw [got]; nofun)).trans (if_pos long)

theorem receiveByte_badKind (position : r.position = .kind) (long : 256 < r.length) (kind : b ≠ 0x21) :
    receiveByte p b r h = abandon p .length r h := by
  rw [receiveByte, position]
  exact if_pos ⟨long, kind⟩

theorem isThrough_iff : r.isThrough = true ↔ r.kind = 0x21 ∧ r.length = 4803 := by
  rw [Reception.isThrough, Bool.and_eq_true, beq_iff_eq, beq_iff_eq]

/-- R161: a byte of the body of a write-through frame. -/
theorem receiveByte_through (position : r.position = .body) (kind : r.kind = 0x21) (length : r.length = 4803) :
    receiveByte p b r h = throughByte p b r h := by
  rw [receiveByte, position]
  exact if_pos (isThrough_iff.2 ⟨kind, length⟩)

/-- R161: a byte of the body of an ordinary frame. -/
theorem receiveByte_ordinary (position : r.position = .body) (ordinary : ¬(r.kind = 0x21 ∧ r.length = 4803)) :
    receiveByte p b r h = setReception p ({ r.cover b with body := r.body ++ [b] } : Reception).nextBody h := by
  rw [receiveByte, position]
  exact if_neg fun through => ordinary (isThrough_iff.1 through)

theorem nextBody_eq (r : Reception) (position : r.position = .body) :
    r.nextBody =
      { r with
        position := if r.got + 1 = r.length then .check else .body
        got := if r.got + 1 = r.length then 0 else r.got + 1 } := by
  unfold Reception.nextBody
  split
  · rfl
  · rw [← position]

/-- R161: the reception after a byte that is taken by its place. -/
def Reception.next (b : Byte) (r : Reception) : Reception :=
  match r.position with
  | .length =>
    { r with
      length := if r.got = 0 then b.toNat * 256 else r.length + b.toNat
      position := if r.got = 0 then .length else .kind
      got := if r.got = 0 then 1 else 0
      crc := crc16Byte r.crc b, headerCrc := crc8Byte r.headerCrc b }
  | .kind => { r with kind := b, position := .tag, crc := crc16Byte r.crc b, headerCrc := crc8Byte r.headerCrc b }
  | .tag =>
    { r with
      tag := b, position := if r.length = 0 then .check else .body, got := 0, crc := crc16Byte r.crc b,
      headerCrc := crc8Byte r.headerCrc b }
  | .body =>
    { r with
      body := r.body ++ [b]
      position := if r.got + 1 = r.length then .check else .body
      got := if r.got + 1 = r.length then 0 else r.got + 1
      crc := crc16Byte r.crc b
      headerCrc := if r.kind = 0x21 ∧ r.length = 4803 then crc8Byte r.headerCrc b else r.headerCrc }
  | .check => { r with firstCheck := b, got := 1 }

/-- R161: the places at which the byte is no fault and no judgement is due. -/
structure Reception.takes (b : Byte) (r : Reception) : Prop where
  length : r.position = .length → r.got = 0 ∨ r.length + b.toNat ≤ 4803
  kind : r.position = .kind → r.length ≤ 256 ∨ b = 0x21
  body : r.position = .body → r.kind = 0x21 → r.length = 4803 → r.got < 2
  check : r.position = .check → r.got = 0

theorem receiveByte_next (takes : r.takes b) : receiveByte p b r h = setReception p (r.next b) h := by
  obtain ⟨lengths, kinds, bodies, checks⟩ := takes
  rcases position : r.position with _ | _ | _ | _ | _
  · rw [receiveByte, Reception.next, position]
    by_cases first : r.got = 0
    · simp only [if_pos first]
      rw [← position]
      rfl
    · have fits := (lengths position).resolve_left first
      simp only [if_neg first, if_neg (Nat.not_lt.2 fits)]
      rfl
  · have fits : ¬(256 < r.length ∧ b ≠ 0x21) := fun ⟨long, ne⟩ =>
      (kinds position).elim (fun short => Nat.not_lt.2 short long) ne
    rw [receiveByte, Reception.next, position]
    exact if_neg fits
  · rw [receiveByte, Reception.next, position]
    rfl
  · have next : r.next b =
        ({ r with
          body := r.body ++ [b], crc := crc16Byte r.crc b
          headerCrc := if r.kind = 0x21 ∧ r.length = 4803 then crc8Byte r.headerCrc b else r.headerCrc } :
            Reception).nextBody := by
      rw [nextBody_eq _ (by exact position), Reception.next, position]
    rw [next]
    by_cases through : r.kind = 0x21 ∧ r.length = 4803
    · have early := bodies position through.1 through.2
      rw [receiveByte_through position through.1 through.2, throughByte, if_pos early, if_pos through]
      rfl
    · rw [receiveByte_ordinary position through, if_neg through]
      rfl
  · rw [receiveByte_firstCheck position (checks position), Reception.next, position]

/-- R26: the header of a write-through frame is complete and its check does not match. -/
theorem throughByte_mismatch (got : r.got = 2) (wrong : b ≠ r.headerCrc) :
    throughByte p b r h = abandon p .header r h := by
  rw [throughByte, if_neg (by omega), if_pos got, if_neg wrong]

/-- R26: the header of a write-through frame matches, and is judged. -/
theorem throughByte_header (got : r.got = 2) (length : r.length = 4803) (right : b = r.headerCrc) :
    throughByte p b r h =
      setReception p
        { r with
          got := 3, crc := crc16Byte r.crc b
          through := some (takeHeader p r.tag (r.body.getD 0 0) (r.body.getD 1 0) h).1 }
        (takeHeader p r.tag (r.body.getD 0 0) (r.body.getD 1 0) h).2 := by
  rw [throughByte, if_neg (by omega), if_pos got, if_pos right]
  dsimp only
  rw [Reception.nextBody, if_neg (by dsimp only [Reception.cover]; omega)]
  dsimp only [Reception.cover]
  rw [got]

/-! ### The verdict on a header, on the port (R26) -/

theorem headerDropped {plate tile : Byte} (tag : Byte) (verdict : judgeHeader p plate tile h = .dropped)
    (next : WriteThrough → Reception) :
    setReception p (next (takeHeader p tag plate tile h).1) (takeHeader p tag plate tile h).2 =
      h.modPort p fun x =>
        { x with receiver := .receiving (next .ignored), gap := some 2, dropped := x.dropped + 1 } := by
  rw [takeHeader, verdict]
  dsimp only
  rw [setReception, modPort_modPort]
  rfl

theorem headerRefused {plate tile : Byte} {e : Result} (tag : Byte) (verdict : judgeHeader p plate tile h = .refused e)
    (next : WriteThrough → Reception) :
    setReception p (next (takeHeader p tag plate tile h).1) (takeHeader p tag plate tile h).2 =
      h.modPort p fun x =>
        { x with
          receiver := .receiving (next .ignored), gap := some 2
          replies := x.replies ++ [{ kind := 0xA1, tag := tag, body := [e.code, plate, tile] }] } := by
  rw [takeHeader, verdict]
  dsimp only
  rw [setReception, reply, modPort_modPort]
  rfl

theorem headerAccepted {plate tile : Byte} {pl : Fin 16} {c : Fin 2} {t : Nat} (tag : Byte)
    (verdict : judgeHeader p plate tile h = .accepted pl c t) (next : WriteThrough → Reception) :
    setReception p (next (takeHeader p tag plate tile h).1) (takeHeader p tag plate tile h).2 =
      h.modPort p fun x =>
        { x with
          receiver := .receiving (next (.accepted pl c t)), gap := some 2
          handling := some (.plateData tag pl tile) } := by
  rw [takeHeader, verdict]
  dsimp only
  rw [setReception, setHandling, modPort_modPort]
  rfl

end

theorem characterGood_iff {b : Byte} {parityBit stopBit : Bool} :
    characterGood b parityBit stopBit = true ↔
      stopBit = true ∧
        (((List.finRange 8).filter fun i => b.getLsbD i.val).length + if parityBit then 1 else 0) % 2 = 0 := by
  rw [characterGood, Bool.and_eq_true, decide_eq_true_iff, and_comm]

section
variable {s : State} {p : Port} {b : Byte} {parityBit stopBit : Bool} {r : Reception}

theorem byteEvent_completes {h : Hub} (eq : byteArrives p b (characterGood b parityBit stopBit) s.hub = h) :
    Completes (.byteEvent p b parityBit stopBit) s h :=
  complete_completes (f := byteArrives p b (characterGood b parityBit stopBit)) rfl eq

theorem goodByte_completes {h : Hub} (started : s.hub.starting = false)
    (receiver : (s.hub.port p).receiver = .receiving r) (good : characterGood b parityBit stopBit = true)
    (eq : receiveByte p b r s.hub = h) : Completes (.byteEvent p b parityBit stopBit) s h :=
  byteEvent_completes (by rw [good, byteArrives_good started receiver, eq])

theorem badByte_completes {h : Hub} (started : s.hub.starting = false)
    (receiver : (s.hub.port p).receiver = .receiving r) (bad : characterGood b parityBit stopBit = false)
    (eq : abandon p .framing r s.hub = h) : Completes (.byteEvent p b parityBit stopBit) s h :=
  byteEvent_completes (by rw [bad, byteArrives_bad started receiver, eq])

end

/-- R161: the CRC of a refused or dropped write-through frame is checked, and no reply follows. -/
theorem frameEndsAt_ignored {p : Port} {b : Byte} {r : Reception} (ignored : r.through = some .ignored) (h : Hub) :
    frameEndsAt p b r h = if of16 r.firstCheck b = r.crc then h.hunting p else lineError p .crc h := by
  have un : r.unaccepted := fun _ _ _ accepted => by cases ignored.symm.trans accepted
  rw [frameEndsAt, abandon_unaccepted un, ignored]
  rfl

theorem frameEndsAt_ordinary {p : Port} {b : Byte} {r : Reception} (ordinary : r.through = none) (h : Hub) :
    frameEndsAt p b r h =
      if of16 r.firstCheck b = r.crc then arrival p { kind := r.kind, tag := r.tag, body := r.body } (h.hunting p)
      else lineError p .crc h := by
  rw [frameEndsAt, abandon_unaccepted (Reception.unaccepted_of_none ordinary), ordinary]
  rfl

/-- Settles O12, by the receiver of the port and the place of the byte in its frame. -/
theorem bytesWhileHunting : Obligations.BytesWhileHunting := by
  refine ⟨fun b parityBit stopBit => characterGood_iff, fun s p b parityBit stopBit => ⟨fun starting => ?_,
    fun started hunting => ⟨fun good begins => ?_, fun other => ?_⟩, fun r started receiver un bad => ?_,
    fun r started receiver position got good => ?_, fun r started receiver position got ignored good => ?_,
    fun r started receiver through good => ⟨fun q next length kind body check => ?_, fun position got long => ?_,
      fun position long kind => ?_, fun position kind length got => ⟨fun wrong => ?_,
        fun right plate tile verdict next hplate htile hverdict hnext => ?_⟩⟩⟩⟩
  · exact byteEvent_completes (byteArrives_starting starting)
  · subst begins
    exact byteEvent_completes (by rw [good, byteArrives_begins started hunting, setReception_eq])
  · exact byteEvent_completes (byteArrives_discarded started hunting other)
  · exact badByte_completes started receiver bad (abandon_unaccepted un p _ _)
  · exact goodByte_completes started receiver good (receiveByte_firstCheck position got)
  · have ends := receiveByte_lastCheck (p := p) (b := b) (h := s.hub) position got
    rw [frameEndsAt_ignored ignored] at ends
    exact ⟨fun right => goodByte_completes started receiver good (ends.trans (if_pos right)),
      fun wrong => goodByte_completes started receiver good (ends.trans (if_neg wrong))⟩
  · have taken : q = r.next b := next.trans (by unfold Reception.next; cases r.position <;> rfl)
    rw [taken]
    exact goodByte_completes started receiver good (receiveByte_next ⟨length, kind, body, check⟩)
  · refine goodByte_completes started receiver good ?_
    rw [receiveByte_tooLong position got long, abandon_unaccepted (Reception.unaccepted_of_none through)]
  · refine goodByte_completes started receiver good ?_
    rw [receiveByte_badKind position long kind, abandon_unaccepted (Reception.unaccepted_of_none through)]
  · refine goodByte_completes started receiver good ?_
    rw [receiveByte_through position kind length, throughByte_mismatch got wrong,
      abandon_unaccepted (Reception.unaccepted_of_none through)]
  · subst hplate htile hverdict
    have taken := (receiveByte_through position kind length).trans (throughByte_header (p := p) (h := s.hub) got length right)
    refine ⟨fun dropped => ?_, fun e refused => ?_, fun pl c t accepted => ?_⟩
    · refine goodByte_completes started receiver good (taken.trans ?_)
      rw [hnext]
      exact headerDropped r.tag dropped fun w => { r with got := 3, crc := crc16Byte r.crc b, through := some w }
    · refine goodByte_completes started receiver good (taken.trans ?_)
      rw [hnext]
      exact headerRefused r.tag refused fun w => { r with got := 3, crc := crc16Byte r.crc b, through := some w }
    · refine goodByte_completes started receiver good (taken.trans ?_)
      rw [hnext]
      exact headerAccepted r.tag accepted fun w => { r with got := 3, crc := crc16Byte r.crc b, through := some w }

/-! ### Pixels of plate data (R27) -/

theorem throughByte_accepted {p : Port} {b : Byte} {r : Reception} {pl : Fin 16} {c : Fin 2} {t : Nat} (got : 3 ≤ r.got)
    (accepted : r.through = some (.accepted pl c t)) (h : Hub) :
    throughByte p b r h = setReception p (r.cover b).nextBody (writePixel pl c t (r.got - 3) b h) := by
  rw [throughByte, if_neg (by omega), if_neg (by omega), accepted]

theorem throughByte_ignored {p : Port} {b : Byte} {r : Reception} (got : 3 ≤ r.got) (ignored : r.through = some .ignored)
    (h : Hub) : throughByte p b r h = setReception p (r.cover b).nextBody h := by
  rw [throughByte, if_neg (by omega), if_neg (by omega), ignored]

/-- Settles O13, by the verdict that the frame bears. -/
theorem pixelByteStored : Obligations.PixelByteStored := by
  intro s p b parityBit stopBit r q started receiver position kind length got good hq
  have next : (r.cover b).nextBody = q := by
    rw [nextBody_eq (r.cover b) position, hq, ← length]
    rfl
  refine ⟨fun pl c t address wf accepted haddress => ?_, fun ignored => ?_⟩
  · refine ⟨s.hub.dram.write address b, goodByte_completes started receiver good ?_, Memory.read_write_same wf _ _,
      fun a ne => Memory.read_write_other _ _ ne⟩
    rw [receiveByte_through position kind length, throughByte_accepted got accepted, next, haddress]
    rfl
  · refine goodByte_completes started receiver good ?_
    rw [receiveByte_through position kind length, throughByte_ignored got ignored, next, setReception_eq]

/-! ### Frames that arrive (R163, R164) -/

theorem beginsAtOnce_iff {x : PortState} :
    beginsAtOnce x = true ↔ x.handling = none ∧ x.input = [] ∧ 0 < x.freePlaces := by
  simp only [beginsAtOnce, Bool.and_eq_true, Option.isNone_iff_eq_none, List.isEmpty_iff, decide_eq_true_eq, and_assoc]

theorem takesFrames_iff {p : Port} {h : Hub} :
    takesFrames p h = true ↔ h.starting = false ∧ ∀ r, (h.port p).receiver = .receiving r → r.through = none := by
  rw [takesFrames, Bool.and_eq_true, Bool.not_eq_true', Bool.not_eq_true']
  refine and_congr_right fun _ => ?_
  unfold PortState.inThrough
  split
  · next hunting => exact iff_of_true rfl fun r receiving => by cases hunting.symm.trans receiving
  · next r receiving =>
    refine ⟨fun none r' same => ?_, fun none => ?_⟩
    · cases receiving.symm.trans same
      exact Option.not_isSome_iff_eq_none.1 (by rw [none]; nofun)
    · rw [none r receiving]
      rfl

theorem ordinaryFrame_iff {f : Frame} :
    ordinaryFrame f = true ↔ f.body.length ≤ 256 ∨ f.kind = 0x21 ∧ f.body.length < 4803 := by
  simp only [ordinaryFrame, Bool.or_eq_true, Bool.and_eq_true, decide_eq_true_eq, beq_iff_eq]

section
variable {h : Hub} {p : Port}

theorem arrival_queued (f : Frame) (room : (h.port p).input.length < 4) :
    arrival p f h = h.modPort p fun x => { x with input := x.input ++ [f] } := if_pos room

theorem arrival_overrun (f : Frame) (full : 4 ≤ (h.port p).input.length) (place : 0 < (h.port p).freePlaces) :
    arrival p f h = (reply p f.kind f.tag .overrun [] h).modPort p fun x => { x with overruns := x.overruns + 1 } :=
  (if_neg (Nat.not_lt.2 full)).trans (if_pos place)

theorem arrival_dropped (f : Frame) (full : 4 ≤ (h.port p).input.length) (none : (h.port p).freePlaces = 0) :
    arrival p f h = h.modPort p fun x => { x with dropped := x.dropped + 1 } :=
  (if_neg (Nat.not_lt.2 full)).trans (if_neg (by rw [none]; exact Nat.lt_irrefl 0))

theorem frameArrives_ignored {f : Frame} (out : takesFrames p h = false ∨ ordinaryFrame f = false) :
    frameArrives p f h = h := by
  refine if_neg fun taken => ?_
  rw [Bool.and_eq_true] at taken
  rcases out with no | no
  · rw [no] at taken
    exact absurd taken.1 nofun
  · rw [no] at taken
    exact absurd taken.2 nofun

theorem frameArrives_waits {f : Frame} (takes : takesFrames p h = true) (waits : beginsAtOnce (h.port p) = false)
    (ordinary : ordinaryFrame f = true) : frameArrives p f h = arrival p f (h.hunting p) := by
  unfold frameArrives
  rw [takes, ordinary]
  refine (if_pos rfl).trans (if_neg ?_)
  have port : (h.modPort p PortState.hunt).port p = (h.port p).hunt := Hub.modPort_port_same _ _ _
  rw [port, beginsAtOnce_hunt, waits]
  nofun

end

theorem freePlaces_hunting (p : Port) (h : Hub) : ((h.hunting p).port p).freePlaces = (h.port p).freePlaces := by
  rw [port_hunting]
  rfl

theorem input_hunting (p : Port) (h : Hub) : ((h.hunting p).port p).input = (h.port p).input := by
  rw [port_hunting]
  rfl

/-- Settles O14, by whether the port takes the frame, begins it, queues it, or has a place to refuse it. -/
theorem frameArrival : Obligations.FrameArrival := by
  refine ⟨fun h p x hx => ⟨?_, beginsAtOnce_iff, hx ▸ takesFrames_iff, hx ▸ rfl⟩, fun f => ordinaryFrame_iff,
    fun h p f => ⟨arrival_queued f, arrival_overrun f, arrival_dropped f⟩,
    fun s p b parityBit stopBit r started receiver position got ordinary good => ?_, fun s p kind tag body out => ?_,
    fun s p kind tag body takes waits ordinary => ?_⟩
  · rw [PortState.freePlaces, PortState.reserved]
    rcases x.handling with _ | handling
    · rfl
    · cases handling <;> rfl
  · have ends := receiveByte_lastCheck (p := p) (b := b) (h := s.hub) position got
    rw [frameEndsAt_ordinary ordinary] at ends
    exact ⟨fun right => goodByte_completes started receiver good (ends.trans (if_pos right)),
      fun wrong => goodByte_completes started receiver good (ends.trans (if_neg wrong))⟩
  · exact complete_completes (f := frameArrives p { kind := kind, tag := tag, body := body }) rfl (frameArrives_ignored out)
  · have arrives {h : Hub} (eq : arrival p { kind := kind, tag := tag, body := body } (s.hub.hunting p) = h) :
        Completes (.frameArrival p kind tag body) s h :=
      complete_completes (f := frameArrives p { kind := kind, tag := tag, body := body }) rfl
        ((frameArrives_waits takes waits ordinary).trans eq)
    refine ⟨fun room => arrives (arrival_queued _ ?_), fun full place => arrives (arrival_overrun _ ?_ ?_),
      fun full none => arrives (arrival_dropped _ ?_ ?_)⟩
    · rwa [input_hunting]
    · rwa [input_hunting]
    · rwa [freePlaces_hunting]
    · rwa [input_hunting]
    · rwa [freePlaces_hunting]

end Sys2Proof.Machine

/-! O15 to O18: frames of bad form, line errors, broken plate data, and the end of a control frame. -/

namespace Sys2Proof.Machine

/-! ### The first field out of range (R173 step 3) -/

/-- The position of the first check that fails, counted from `k`. -/
def badFrom : Nat → List Bool → Option Nat
  | _, [] => none
  | k, ok :: checks => if ok then badFrom (k + 1) checks else some k

theorem badFrom_shift (k : Nat) (checks : List Bool) :
    badFrom (k + 1) checks = (checks.findIdx? fun ok => !ok).map (· + (k + 1)) := by
  induction checks generalizing k with
  | nil => rfl
  | cons ok checks ih =>
    rw [badFrom, List.findIdx?_cons, ih]
    cases ok
    · simp
    · simp [Option.map_map, Function.comp_def, Nat.add_assoc, Nat.add_comm 1]

theorem firstBad_eq (checks : List Bool) : firstBad checks = badFrom 1 checks := (badFrom_shift 0 checks).symm

theorem plainBad_eq (checks : List Bool) : plainBad checks = (badFrom 1 checks).map fun f => (f, 255) := by
  rw [plainBad, firstBad_eq]
  rfl

theorem within_zero {hi : Nat} {b : Byte} : within 0 hi b = true ↔ ¬hi < b.toNat := by
  simp [within]

theorem within_one {hi : Nat} {b : Byte} : within 1 hi b = true ↔ ¬(b = 0 ∨ hi < b.toNat) := by
  have zero : b = 0 ↔ b.toNat = 0 := by rw [← BitVec.toNat_inj]; rfl
  simp only [within, Bool.and_eq_true, decide_eq_true_eq, zero]
  omega

theorem byte_eq_one_iff {b : Byte} : b = 1 ↔ b.toNat = 1 := by rw [← BitVec.toNat_inj]; rfl

theorem byte_eq_zero_iff {b : Byte} : b = 0 ↔ b.toNat = 0 := by rw [← BitVec.toNat_inj]; rfl

theorem plainBad_single (hi : Nat) (a : Byte) :
    plainBad [within 0 hi a] = if hi < a.toNat then some (1, 255) else none := by
  rw [plainBad_eq, badFrom, badFrom]
  by_cases high : hi < a.toNat
  · rw [if_neg (by rw [within_zero, not_not]; exact high), if_pos high]
    rfl
  · rw [if_pos (within_zero.2 high), if_neg high]
    rfl

section
variable (a b c d e f : Byte) (x : Half) (identity : Identity) (colour : Colour) (views : List RawView)

theorem noticeSet_badField : (Request.noticeSet x).badField = if 16384 ≤ x.toNat then some (1, 255) else none := by
  simp only [Request.badField, plainBad_eq, badFrom, decide_eq_true_eq, ← Nat.not_le, ite_not]
  split <;> rfl

theorem inputSet_badField : (Request.inputSet a b c d).badField =
    if 1 < a.toNat then some (1, 255) else if 1 < b.toNat then some (2, 255)
    else if b = 1 ∧ (c = 0 ∨ 64 < c.toNat) then some (3, 255)
    else if b = 1 ∧ (d = 0 ∨ 36 < d.toNat) then some (4, 255) else none := by
  rw [Request.badField, plainBad_eq]
  by_cases enable : b = 1
  · simp only [if_true, List.cons_append, List.nil_append, badFrom, within_zero, within_one, ite_not, enable,
      true_and, apply_ite (Option.map fun f => (f, 255)), Option.map_some, Option.map_none]
  · simp only [List.append_nil, badFrom, within_zero, ite_not, enable, false_and, if_false,
      apply_ite (Option.map fun f => (f, 255)), Option.map_some, Option.map_none]

theorem plateOpen_badField : (Request.plateOpen a b c).badField =
    if 15 < a.toNat then some (1, 255) else if b = 0 ∨ 8 < b.toNat then some (2, 255)
    else if c = 0 ∨ 8 < c.toNat then some (3, 255) else none := by
  simp only [Request.badField, plainBad_eq, badFrom, within_zero, within_one, ite_not,
    apply_ite (Option.map fun f => (f, 255)), Option.map_some, Option.map_none]

theorem screenBind_badField : (Request.screenBind a b identity c d colour).badField =
    if 7 < a.toNat then some (1, 255) else if 5 < b.toNat then some (2, 255)
    else if c = 0 ∨ 64 < c.toNat then some (4, 255) else if d = 0 ∨ 36 < d.toNat then some (5, 255) else none := by
  simp only [Request.badField, plainBad_eq, badFrom, within_zero, within_one, ite_not, if_true,
    apply_ite (Option.map fun f => (f, 255)), Option.map_some, Option.map_none]

theorem layoutSet_badField : (Request.layoutSet a b x views).badField =
    if 7 < a.toNat then some (1, 255) else if 1 < b.toNat then some (2, 255) else badViews 0 views := by
  simp only [Request.badField, plainBad_eq, badFrom, within_zero, ite_not, apply_ite (Option.map fun f => (f, 255)),
    Option.map_some, Option.map_none, apply_ite (Option.or · (badViews 0 views)), Option.some_or, Option.none_or]

theorem groupSet_badField : (Request.groupSet a b c).badField =
    if 7 < a.toNat then some (1, 255) else if 1 < b.toNat ∨ b = 1 ∧ 3 < c.toNat then some (2, 255) else none := by
  have second : (within 0 1 b && (b != 1 || within 0 3 c)) = true ↔ ¬(1 < b.toNat ∨ b = 1 ∧ 3 < c.toNat) := by
    rw [Bool.and_eq_true, Bool.or_eq_true, within_zero, within_zero, bne_iff_ne, not_or, not_and_or]
  simp only [Request.badField, plainBad_eq, badFrom, within_zero, second, ite_not,
    apply_ite (Option.map fun f => (f, 255)), Option.map_some, Option.map_none]

theorem paceSet_badField : (Request.paceSet a b x).badField =
    if 1 < a.toNat then some (1, 255)
    else if (if a = 0 then 7 < b.toNat else 3 < b.toNat) then some (2, 255)
    else if 1000 < x.toNat then some (3, 255) else none := by
  have second : (if a = 0 then within 0 7 b else within 0 3 b) = true ↔
      ¬(if a = 0 then 7 < b.toNat else 3 < b.toNat) := by
    split <;> exact within_zero
  simp only [Request.badField, plainBad_eq, badFrom, within_zero, second, decide_eq_true_eq, ← Nat.not_lt, ite_not,
    apply_ite (Option.map fun f => (f, 255)), Option.map_some, Option.map_none]

theorem seize_badField : (Request.seize a views).badField =
    if 7 < a.toNat then some (1, 255) else badViews 0 views := by
  simp only [Request.badField, plainBad_eq, badFrom, within_zero, ite_not, apply_ite (Option.map fun f => (f, 255)),
    Option.map_some, Option.map_none, apply_ite (Option.or · (badViews 0 views)), Option.some_or, Option.none_or]

theorem linkSet_badField : (Request.linkSet a b c d e f).badField =
    if 5 < a.toNat then some (1, 255) else if 1 < b.toNat then some (2, 255)
    else if b = 1 ∧ 2 < c.toNat then some (3, 255) else if b = 1 ∧ 1 < d.toNat then some (4, 255)
    else if b = 1 ∧ 1 < e.toNat then some (5, 255) else if b = 1 ∧ 3 < f.toNat then some (6, 255) else none := by
  rw [Request.badField, plainBad_eq]
  by_cases enable : b = 1
  · simp only [if_true, List.cons_append, List.nil_append, badFrom, within_zero, ite_not, enable, true_and,
      apply_ite (Option.map fun f => (f, 255)), Option.map_some, Option.map_none]
  · simp only [List.append_nil, badFrom, within_zero, ite_not, enable, false_and, if_false,
      apply_ite (Option.map fun f => (f, 255)), Option.map_some, Option.map_none]

theorem levelSet_badField : (Request.levelSet a b c d e f).badField =
    if 7 < a.toNat then some (1, 255) else if 1 < b.toNat then some (2, 255)
    else if 1 < e.toNat then some (5, 255) else if 3 < f.toNat then some (6, 255) else none := by
  simp only [Request.badField, plainBad_eq, badFrom, within_zero, ite_not, if_true,
    apply_ite (Option.map fun f => (f, 255)), Option.map_some, Option.map_none]

end

theorem badViews_cons (k : Nat) (v : RawView) (views : List RawView) :
    badViews k (v :: views) =
      if 1 < v.source.toNat ∧ (v.source.toNat < 0x10 ∨ 0x1F < v.source.toNat) then some (1, k)
      else if 63 < v.originColumn.toNat then some (2, k) else if 35 < v.originRow.toNat then some (3, k)
      else if v.columns = 0 ∨ 64 < v.columns.toNat then some (4, k)
      else if v.rows = 0 ∨ 36 < v.rows.toNat then some (5, k) else if 63 < v.placeColumn.toNat then some (6, k)
      else if 35 < v.placeRow.toNat then some (7, k) else badViews (k + 1) views := by
  have source : (decide (v.source.toNat ≤ 1) || within 0x10 0x1F v.source) = true ↔
      ¬(1 < v.source.toNat ∧ (v.source.toNat < 0x10 ∨ 0x1F < v.source.toNat)) := by
    simp only [within, Bool.or_eq_true, Bool.and_eq_true, decide_eq_true_eq]
    omega
  have chosen : badViews k (v :: views) = (firstBad (RawView.checks v)).elim (badViews (k + 1) views) fun f =>
      some (f, k) := by
    rw [badViews]
    cases firstBad (RawView.checks v) <;> rfl
  rw [chosen, firstBad_eq]
  simp only [RawView.checks, badFrom, source, within_zero, within_one, ite_not,
    apply_ite (Option.elim · (badViews (k + 1) views) fun f => some (f, k)), Option.elim_some, Option.elim_none]

section
variable {curve : Byte} {points : List RawPoint}

theorem curveSet_badField : (Request.curveSet curve points).badField =
    if 3 < curve.toNat then some (1, 255) else badPoint points := by
  rw [Request.badField, plainBad_single]
  split <;> rfl

theorem badPoint_none (good : ∀ p ∈ points, p.reading.toNat ≤ 1023) : badPoint points = none := by
  rw [badPoint, List.findIdx?_eq_none_iff.2 fun p mem => by simpa using good p mem]
  rfl

theorem badPoint_first {k : Nat} {p : RawPoint} (at' : points[k]? = some p) (bad : 1023 < p.reading.toNat)
    (before : ∀ j < k, ∀ q, points[j]? = some q → q.reading.toNat ≤ 1023) : badPoint points = some (2, k) := by
  obtain ⟨lt, here⟩ := List.getElem?_eq_some_iff.1 at'
  have found : points.findIdx? (fun p => decide (1023 < p.reading.toNat)) = some k := by
    rw [List.findIdx?_eq_some_iff_getElem]
    refine ⟨lt, by rw [here]; exact decide_eq_true bad, fun j jlt => ?_⟩
    have good := before j jlt _ (List.getElem?_eq_getElem (jlt.trans lt))
    simpa using good
  rw [badPoint, found]
  rfl

end

/-! ### Form (R173 steps 1 and 2) -/

section
variable {p : Port} {f : Frame} {h : Hub}

theorem handleFrame_error {x : Result} (error : parse f.kind f.body = .error x) :
    handleFrame p f h = reply p f.kind f.tag x [] h := by rw [handleFrame, error]

theorem handleFrame_ok {r : Request} (ok : parse f.kind f.body = .ok r) :
    handleFrame p f h = handleRequest p f.tag r h := by rw [handleFrame, ok]

theorem parse_badKind {kind : Byte} (body : List Byte) (unknown : requestKind kind = none) :
    parse kind body = .error .badKind := by rw [parse, unknown]

theorem parse_badLength {kind : Byte} {body : List Byte} {k : RequestKind} (known : requestKind kind = some k)
    (length : parseBody k body = none) : parse kind body = .error .badLength := by rw [parse, known]; simp only [length]

end

theorem handleRequest_badField {r : Request} {field item : Nat} (bad : r.badField = some (field, item)) (p : Port)
    (tag : Byte) (h : Hub) :
    handleRequest p tag r h = reply p r.kind.code tag .badValue [byteOf field, byteOf item] h := by
  rw [handleRequest, judge, bad]
  rfl

theorem queueAnswer_some {x : Answer} {r : Result} {data : List Byte} (replied : x.reply = some (r, data)) (p : Port)
    (kind tag : Byte) : queueAnswer p kind tag x = reply p kind tag r data x.hub := by rw [queueAnswer, replied]

theorem queueAnswer_none {x : Answer} (silent : x.reply = none) (p : Port) (kind tag : Byte) :
    queueAnswer p kind tag x = x.hub := by rw [queueAnswer, silent]

/-- Settles O15, by the form of the frame and the first field out of range. -/
theorem formAndRangeRefused : Obligations.FormAndRangeRefused := by
  have arrives {s : State} {p : Port} {kind tag : Byte} {body : List Byte} {h : Hub}
      (atOnce : handlesAtOnce p s.hub = true) (ordinary : ordinaryFrame { kind := kind, tag := tag, body := body } = true)
      (eq : handleFrame p { kind := kind, tag := tag, body := body } (s.hub.hunting p) = h) :
      Completes (.frameArrival p kind tag body) s h :=
    complete_completes (f := frameArrives p { kind := kind, tag := tag, body := body }) rfl
      ((frameArrives_handled atOnce ordinary).trans eq)
  refine ⟨fun s p kind tag body atOnce ordinary => ⟨fun unknown => ⟨?_, ?_⟩, fun k known length => ?_⟩,
    fun s p kind tag body r atOnce ordinary ok => arrives atOnce ordinary (handleFrame_ok ok),
    fun p f h => ⟨fun x => handleFrame_error, fun r => handleFrame_ok⟩,
    fun r p tag h a inRange ha => ?_, fun r p tag h field item bad => handleRequest_badField bad p tag h,
    fun a b c d e f x identity colour views => ?_, fun k v views => ⟨rfl, badViews_cons k v views⟩,
    fun curve points => ⟨fun high => ?_, fun low good => ?_, fun k p low at' bad before => ?_⟩⟩
  · exact arrives atOnce ordinary (handleFrame_error (parse_badKind body unknown))
  · refine complete_completes (f := badKindArrives p kind tag) rfl ?_
    rw [badKindArrives, if_pos (by rw [unknown]; rfl),
      frameArrives_handled atOnce (ordinaryFrame_iff.2 (.inl (Nat.zero_le _))),
      handleFrame_error (parse_badKind [] unknown)]
  · exact arrives atOnce ordinary (handleFrame_error (parse_badLength known length))
  · subst ha
    rw [handleRequest_inRange inRange]
    exact ⟨fun silent => queueAnswer_none silent p _ tag, fun x data replied => queueAnswer_some replied p _ tag⟩
  · refine ⟨rfl, rfl, rfl, plainBad_single 3 a, noticeSet_badField x, inputSet_badField a b c d, plainBad_single 1 a,
      plateOpen_badField a b c, ?_, screenBind_badField a b c d identity colour, ?_, layoutSet_badField a b x views,
      groupSet_badField a b c, paceSet_badField a b x, seize_badField a views, linkSet_badField a b c d e f, ?_,
      levelSet_badField a b c d e f⟩
    · rintro r (rfl | rfl | rfl) <;> exact plainBad_single 15 a
    · rintro r (rfl | rfl | rfl | rfl | rfl | rfl) <;> exact plainBad_single 7 a
    · rintro r (rfl | rfl | rfl | rfl) <;> exact plainBad_single 5 a
  · rw [curveSet_badField, if_pos high]
  · rw [curveSet_badField, if_neg (Nat.not_lt.2 low), badPoint_none good]
  · rw [curveSet_badField, if_neg (Nat.not_lt.2 low), badPoint_first at' bad before]

end Sys2Proof.Machine

/-! O16, O17, O18: line errors, broken plate data, and the end of a control frame. -/

namespace Sys2Proof.Machine

/-! ### The count of an error and its notice (R162) -/

/-- R162: the port after a counted error, with its notice disarmed. -/
def PortState.counted (e : ErrorClass) (x : PortState) : PortState :=
  { x with
    receiver := .hunting, gap := none, errorArmed := false
    framingErrors := if e = .framing then x.framingErrors + 1 else x.framingErrors
    gapErrors := if e = .gap then x.gapErrors + 1 else x.gapErrors
    lengthErrors := if e = .length then x.lengthErrors + 1 else x.lengthErrors
    crcErrors := if e = .crc then x.crcErrors + 1 else x.crcErrors
    headerErrors := if e = .header then x.headerErrors + 1 else x.headerErrors }

theorem countError_disarmed (x : PortState) (e : ErrorClass) :
    { x.hunt.countError e with errorArmed := false } = x.counted e := by
  cases e <;> rfl

theorem errorCount_counted (x : PortState) (e : ErrorClass) : (x.counted e).errorCount e = x.errorCount e + 1 := by
  cases e <;> rfl

theorem errorCount_hunt (x : PortState) (e : ErrorClass) : (x.hunt.countError e).errorCount e = (x.counted e).errorCount e := by
  cases e <;> rfl

theorem countError_armed (x : PortState) (e : ErrorClass) : (x.hunt.countError e).errorArmed = x.errorArmed := by
  cases e <;> rfl

/-- R162: the error is counted, and reported where its notice is armed. -/
theorem reportError_eq (x : PortState) (e : ErrorClass) :
    (x.hunt.countError e).reportError e =
      if x.errorArmed = true then (x.counted e).offer .lineError (e.code :: be16 ((x.counted e).errorCount e))
      else x.counted e := by
  rw [PortState.reportError, countError_armed, errorCount_hunt, countError_disarmed]
  by_cases armed : x.errorArmed = true
  · rw [if_pos armed, if_pos armed]
  · rw [if_neg armed, if_neg armed, ← countError_disarmed]
    have disarmed : (x.hunt.countError e).errorArmed = false := (countError_armed x e).trans (Bool.eq_false_iff.2 armed)
    rw [← disarmed]

theorem modPort_congr {p : Port} {h : Hub} {f g : PortState → PortState} (same : f (h.port p) = g (h.port p)) :
    h.modPort p f = h.modPort p g := by
  cases p
  · exact congrArg (fun x => ({ h with portA := x } : Hub)) same
  · exact congrArg (fun x => ({ h with portB := x } : Hub)) same

theorem notify_single (p : Port) (k : NoticeKind) (body : List Byte) (h : Hub) :
    notify [p] k body h = h.modPort p fun x => x.offer k body := rfl

theorem lineError_eq (p : Port) (e : ErrorClass) (h : Hub) {k : Hub} (hk : k = h.modPort p (PortState.counted e)) :
    lineError p e h =
      if (h.port p).errorArmed = true then notify [p] .lineError (e.code :: be16 ((k.port p).errorCount e)) k else k := by
  have port : k.port p = (h.port p).counted e := by rw [hk, Hub.modPort_port_same]
  rw [lineError, port, notify_single, hk, modPort_modPort]
  by_cases armed : (h.port p).errorArmed = true
  · rw [if_pos armed]
    exact modPort_congr (by rw [reportError_eq, if_pos armed])
  · rw [if_neg armed]
    exact modPort_congr (by rw [reportError_eq, if_neg armed])

/-- R167: an offer changes the queue of notices and the lost flag alone. -/
theorem offer_eq (x : PortState) (k : NoticeKind) (body : List Byte) :
    x.offer k body = { x with notices := (x.offer k body).notices, lost := (x.offer k body).lost } := by
  unfold PortState.offer
  split
  · rfl
  · split <;> rfl

/-- What a line error leaves of its port. -/
theorem lineError_port (p : Port) (e : ErrorClass) (h : Hub) :
    (lineError p e h).port p =
      { (h.port p).counted e with
        notices := ((lineError p e h).port p).notices, lost := ((lineError p e h).port p).lost } := by
  have port : (lineError p e h).port p = ((h.port p).hunt.countError e).reportError e := Hub.modPort_port_same _ _ _
  rw [port, reportError_eq]
  split
  · exact offer_eq _ _ _
  · rfl

theorem lineError_notices (p : Port) (e : ErrorClass) (h : Hub) :
    ((lineError p e h).port p).notices =
      if (h.port p).errorArmed = true then
        (((h.port p).counted e).offer .lineError (e.code :: be16 ((h.port p).errorCount e + 1))).notices
      else (h.port p).notices := by
  have port : (lineError p e h).port p = ((h.port p).hunt.countError e).reportError e := Hub.modPort_port_same _ _ _
  rw [port, reportError_eq, errorCount_counted]
  split <;> rfl

theorem errorCount_of_port {x y : PortState} {notices : List Frame} {lost : Bool} (e : ErrorClass)
    (same : y = { x with notices := notices, lost := lost }) : y.errorCount e = x.errorCount e := by
  rw [same]
  cases e <;> rfl

/-! ### Faults by their place (R161) -/

theorem canFail_crc {r : Reception} : r.canFail .crc = true ↔ r.position = .check ∧ r.got = 1 := by
  rw [Reception.canFail, Bool.and_eq_true, beq_iff_eq, beq_iff_eq]

theorem canFail_length {r : Reception} :
    r.canFail .length = true ↔
      r.position = .length ∧ r.got = 1 ∧ 4548 < r.length ∨ r.position = .kind ∧ 256 < r.length := by
  have long : 4803 < r.length + 255 ↔ 4548 < r.length := by omega
  simp only [Reception.canFail, Bool.or_eq_true, Bool.and_eq_true, beq_iff_eq, decide_eq_true_eq, and_assoc, long]

section
variable {s : State} {p : Port} {r : Reception}

theorem lineFault_completes {f : LineFault} {h : Hub} (receiver : (s.hub.port p).receiver = .receiving r)
    (can : r.canFail f = true) (eq : abandon p (faultClass f) r s.hub = h) : Completes (.lineError p f) s h := by
  refine complete_completes (f := lineFaults p f) rfl (.trans ?_ eq)
  rw [lineFaults, receiver]
  exact if_pos can

theorem gap_completes {h : Hub} (receiver : (s.hub.port p).receiver = .receiving r) (due : (s.hub.port p).gap = some 0)
    (eq : abandon p .gap r s.hub = h) : Completes (.gapTimerExpiry p) s h := by
  refine complete_completes (f := gapExpire p) rfl (.trans ?_ eq)
  rw [gapExpire, receiver]
  exact if_pos (Timer.due_iff.2 due)

theorem lineFaults_elsewhere {f : LineFault} {h : Hub}
    (cannot : ∀ r, (h.port p).receiver = .receiving r → r.canFail f = false) : lineFaults p f h = h := by
  unfold lineFaults
  split
  · rfl
  · next r receiver => exact if_neg (by rw [cannot r receiver]; nofun)

end

/-- Settles O16, by the place of the fault and whether the notice is armed. -/
theorem lineErrorCounted : Obligations.LineErrorCounted := by
  refine ⟨fun s p f cannot => complete_completes (f := lineFaults p f) rfl (lineFaults_elsewhere cannot),
    fun s p r receiver un => ⟨fun f can => ?_, ⟨rfl, canFail_crc, canFail_length, rfl, rfl, rfl⟩, fun due => ?_,
      fun e k hk => lineError_eq p e s.hub hk, fun x => ⟨rfl, rfl, rfl, rfl, rfl⟩, fun e => ?_⟩⟩
  · exact lineFault_completes receiver can (abandon_unaccepted un p _ _)
  · exact gap_completes receiver due (abandon_unaccepted un p _ _)
  · have port := lineError_port p e s.hub
    have notices := lineError_notices p e s.hub
    refine ⟨by rw [port]; rfl, by rw [port]; rfl, ?_, by rw [port]; rfl, by rw [port]; rfl, fun disarmed => ?_,
      fun armed masked room => ?_⟩
    · rw [errorCount_of_port e port, errorCount_counted]
    · rw [notices, if_neg (by rw [disarmed]; nofun)]
    · rw [notices, if_pos armed]
      exact congrArg PortState.notices (offer_room (x := (s.hub.port p).counted e) (k := .lineError) _ masked room)

/-! ### The reply to plate data (R27, R28) -/

section
variable {p : Port} {pl : Fin 16} {c : Fin 2} {t : Nat} {tag tile : Byte} {q : Fin 16} {h : Hub}

theorem dataTag_eq (handling : (h.port p).handling = some (.plateData tag q tile)) : dataTag h p = tag := by
  rw [dataTag, handling]

theorem answerData_damaged (reason : Byte) (handling : (h.port p).handling = some (.plateData tag q tile)) :
    answerData p pl c t (some reason) h = h.modPort p fun x =>
      { x with
        handling := none
        replies := x.replies ++
          [{ kind := 0xA1, tag := tag,
             body := [0x0B, byteOfFin pl, byteOf t, byteOf h.plates[pl].copies[c].outstanding, reason] }] } := by
  rw [answerData, dataTag_eq handling, setHandling, reply, modPort_modPort]
  rfl

theorem answerData_done (handling : (h.port p).handling = some (.plateData tag q tile)) :
    answerData p pl c t none h = h.modPort p fun x =>
      { x with
        handling := none
        replies := x.replies ++
          [{ kind := 0xA1, tag := tag,
             body := [0, byteOfFin pl, byteOf t, byteOf h.plates[pl].copies[c].outstanding] }] } := by
  rw [answerData, dataTag_eq handling, setHandling, reply, modPort_modPort]
  rfl

theorem abandon_framing {r : Reception} (accepted : r.through = some (.accepted pl c t)) :
    abandon p .framing r h = lineError p .framing (dataBroken p pl c t damagedFraming h) := by
  rw [abandon, accepted]

theorem abandon_gap {r : Reception} (accepted : r.through = some (.accepted pl c t)) :
    abandon p .gap r h = lineError p .gap (dataBroken p pl c t damagedGap h) := by
  rw [abandon, accepted]

theorem abandon_crc {r : Reception} (accepted : r.through = some (.accepted pl c t)) :
    abandon p .crc r h = lineError p .crc (dataMismatch p pl c t h) := by
  rw [abandon, accepted]

theorem dataBroken_eq (reason : Byte) (handling : (h.port p).handling = some (.plateData tag q tile)) {k : Hub}
    (hk : k = h.modCopy pl c fun x => { x with damaged := x.damaged.set (Fin.ofNat 64 t) true }) :
    dataBroken p pl c t reason h = k.modPort p fun x =>
      { x with
        handling := none
        replies := x.replies ++
          [{ kind := 0xA1, tag := tag,
             body := [0x0B, byteOfFin pl, byteOf t, byteOf k.plates[pl].copies[c].outstanding, reason] }] } := by
  subst hk
  exact answerData_damaged reason (by rwa [modCopy_port])

end

/-- Settles O17, by the kind of the fault. -/
theorem brokenPlateData : Obligations.BrokenPlateData := by
  intro s p r pl c t tag tile k answered receiver accepted handling hk hanswered
  have broken (reason : Byte) : dataBroken p pl c t reason s.hub = answered reason :=
    (dataBroken_eq reason handling hk).trans (hanswered reason).symm
  have gap : abandon p .gap r s.hub = lineError p .gap (answered 1) := by rw [abandon_gap accepted, broken, damagedGap]
  have framing : abandon p .framing r s.hub = lineError p .framing (answered 2) := by
    rw [abandon_framing accepted, broken, damagedFraming]
  exact ⟨fun due => gap_completes receiver due gap, lineFault_completes receiver rfl framing,
    fun b parityBit stopBit started bad => badByte_completes started receiver bad framing⟩

/-! ### The end of a control frame (R166, R169, R171) -/

section
variable {h : Hub} {p : Port} {f : Frame}

theorem isLineSetDone_iff : f.isLineSetDone = true ↔ f.kind = 0x83 ∧ f.body.head? = some 0 := by
  rw [Frame.isLineSetDone, Bool.and_eq_true, beq_iff_eq, beq_iff_eq]

theorem isHubResetDone_iff : f.isHubResetDone = true ↔ f.kind = 0x82 ∧ f.body.head? = some 0 := by
  rw [Frame.isHubResetDone, Bool.and_eq_true, beq_iff_eq, beq_iff_eq]

theorem frameSent_none (line : (h.port p).line = none) : frameSent p h = h := by rw [frameSent, line]

theorem frameSent_other (line : (h.port p).line = some f) (lineSet : f.isLineSetDone = false)
    (hubReset : f.isHubResetDone = false) : frameSent p h = h.modPort p fun x => { x with line := none } := by
  rw [frameSent, line]
  dsimp only
  rw [lineSet, hubReset]
  rfl

theorem changeRate_eq (x : PortState) :
    x.changeRate = { x.hunt with rate := x.pendingRate.getD x.rate, pendingRate := none } := by
  rcases pending : x.pendingRate with _ | r
  · have same : { x.hunt with rate := x.rate, pendingRate := x.pendingRate } = x.hunt := rfl
    rw [PortState.changeRate, pending, ← same, pending]
    rfl
  · rw [PortState.changeRate, pending]
    rfl

theorem frameSent_lineSet (line : (h.port p).line = some f) (lineSet : f.isLineSetDone = true) :
    frameSent p h = h.modPort p fun x =>
      { x with
        line := none, receiver := .hunting, gap := none, rate := x.pendingRate.getD x.rate, pendingRate := none } := by
  rw [frameSent, line]
  dsimp only
  rw [if_pos lineSet, modPort_modPort]
  exact modPort_congr (changeRate_eq _)

theorem frameSent_hubReset (line : (h.port p).line = some f) (lineSet : f.isLineSetDone = false)
    (hubReset : f.isHubResetDone = true) (handling : (h.port p).handling = some .hubReset) :
    frameSent p h =
      { Hub.reset .hubReset h.portA.rate h.portB.rate (h.links.map (·.wakeLine)) with free := h.free } := by
  have kept : ((h.modPort p fun x => { x with line := none }).port p).handling = some .hubReset := by
    rw [Hub.modPort_port_same]
    exact handling
  rw [frameSent, line]
  dsimp only
  rw [lineSet, hubReset, kept]
  cases p <;> rfl

end

/-- Settles O18, by the frame on the line. -/
theorem controlFrameSent : Obligations.ControlFrameSent := by
  have sent {s : State} {p : Port} {h : Hub} (eq : frameSent p s.hub = h) : Completes (.controlFrameTransmitted p) s h :=
    complete_completes (f := frameSent p) rfl eq
  exact ⟨fun s p line => sent (frameSent_none line), fun f => ⟨isLineSetDone_iff, isHubResetDone_iff⟩,
    fun s p f line => ⟨fun lineSet hubReset => sent (frameSent_other line lineSet hubReset),
      fun lineSet => sent (frameSent_lineSet line lineSet),
      fun lineSet hubReset handling => sent (frameSent_hubReset line lineSet hubReset handling)⟩⟩

end Sys2Proof.Machine

/-! O24, O25: the header and the end of plate data. -/

namespace Sys2Proof.Machine

/-! ### The judgement of a header (R26 steps 2 to 6) -/

theorem lineSetUnsent_iff {x : PortState} :
    x.lineSetUnsent = true ↔ (∃ f ∈ x.replies, f.kind = 0x83 ∧ f.body.head? = some 0) ∨
      ∃ f, x.line = some f ∧ f.kind = 0x83 ∧ f.body.head? = some 0 := by
  have sending : (x.line.map Frame.isLineSetDone).getD false = true ↔
      ∃ f, x.line = some f ∧ f.kind = 0x83 ∧ f.body.head? = some 0 := by
    rcases x.line with _ | f
    · simp
    · simp [isLineSetDone_iff]
  rw [PortState.lineSetUnsent, Bool.or_eq_true, sending, List.any_eq_true]
  simp only [isLineSetDone_iff]

section
variable {h : Hub} {p : Port} {plate tile : Byte}

theorem judgeHeader_dropped (full : (h.port p).freePlaces = 0) : judgeHeader p plate tile h = .dropped := if_pos full

theorem judgeHeader_busy (place : 0 < (h.port p).freePlaces)
    (busy : (h.port p).input ≠ [] ∨ (h.port p).handling ≠ none ∨ (h.port p).lineSetUnsent = true) :
    judgeHeader p plate tile h = .refused .busy := by
  refine (if_neg (by omega)).trans (if_pos ?_)
  simpa only [Bool.or_eq_true, Bool.not_eq_true', List.isEmpty_eq_false_iff, Option.isSome_iff_ne_none, or_assoc]
    using busy

theorem judgeHeader_plate (place : 0 < (h.port p).freePlaces) (input : (h.port p).input = [])
    (handling : (h.port p).handling = none) (lineSet : (h.port p).lineSetUnsent = false) :
    judgeHeader p plate tile h = judgePlate p plate tile h := by
  refine (if_neg (by omega)).trans (if_neg ?_)
  rw [input, handling, lineSet]
  nofun

theorem judgePlate_badValue (high : 16 ≤ plate.toNat) : judgePlate p plate tile h = .refused .badValue := if_pos high

theorem judgePlate_notOwner (low : plate.toNat ≤ 15) (writer : writerPort (plateOf plate) ≠ p) :
    judgePlate p plate tile h = .refused .notOwner := by
  rw [judgePlate, if_neg (by omega)]
  exact if_pos writer

theorem judgePlate_wrongState (low : plate.toNat ≤ 15) (writer : writerPort (plateOf plate) = p)
    (state : h.plates[plateOf plate].copies[workCopy h.plates[plateOf plate]].state ≠ .loading) :
    judgePlate p plate tile h = .refused .wrongState := by
  rw [judgePlate, if_neg (by omega)]
  exact (if_neg (not_not.2 writer)).trans (if_pos state)

theorem judgePlate_tile {z : Size} (low : plate.toNat ≤ 15) (writer : writerPort (plateOf plate) = p)
    (state : h.plates[plateOf plate].copies[workCopy h.plates[plateOf plate]].state = .loading)
    (size : h.plates[plateOf plate].copies[workCopy h.plates[plateOf plate]].size = some z) :
    judgePlate p plate tile h =
      if z.columns * z.rows ≤ tile.toNat then .refused .badValue
      else .accepted (plateOf plate) (workCopy h.plates[plateOf plate]) tile.toNat := by
  rw [judgePlate, if_neg (by omega)]
  refine (if_neg (not_not.2 writer)).trans ((if_neg (not_not.2 state)).trans ?_)
  have tiles : (h.plates[plateOf plate].copies[workCopy h.plates[plateOf plate]].size.map Size.tiles).getD 0 =
      z.columns * z.rows := by rw [size]; rfl
  rw [← tiles]
  rfl

end

/-! ### The first eight bytes of PLATE-DATA, one by one (R161) -/

theorem setReception_hunting (p : Port) (r : Reception) (h : Hub) :
    setReception p r (h.modPort p PortState.hunt) = setReception p r h := by
  rw [setReception, modPort_modPort]
  rfl

theorem setReception_setReception (p : Port) (r q : Reception) (h : Hub) :
    setReception p q (setReception p r h) = setReception p q h := by
  rw [setReception, setReception, modPort_modPort]
  rfl

theorem lineError_setReception (p : Port) (e : ErrorClass) (r : Reception) (h : Hub) :
    lineError p e (setReception p r h) = lineError p e h := by
  rw [lineError, setReception, modPort_modPort]
  rfl

theorem setReception_port (p : Port) (r : Reception) (h : Hub) :
    (setReception p r h).port p = { h.port p with receiver := .receiving r, gap := some 2 } :=
  Hub.modPort_port_same _ _ _

theorem judgeHeader_setReception (p : Port) (plate tile : Byte) (r : Reception) (h : Hub) :
    judgeHeader p plate tile (setReception p r h) = judgeHeader p plate tile h := by
  cases p <;> rfl

theorem setReception_starting (p : Port) (r : Reception) (h : Hub) : (setReception p r h).starting = h.starting :=
  Hub.modPort_starting h p _

theorem byteArrives_next {p : Port} {b : Byte} {r : Reception} {h : Hub} (started : h.starting = false)
    (takes : r.takes b) : byteArrives p b true (setReception p r h) = setReception p (r.next b) h := by
  rw [byteArrives_good ((setReception_starting p r h).trans started) (by rw [setReception_port]),
    receiveByte_next takes, setReception_setReception]

/-- R26: the reception of a write-through frame after its header bytes, before their check. -/
def Reception.header (tag plate tile : Byte) : Reception :=
  { position := .body, got := 2, length := 4803, kind := 0x21, tag := tag, body := [plate, tile],
    crc := crc16 [0x12, 0xC3, 0x21, tag, plate, tile], headerCrc := crc8 [0x12, 0xC3, 0x21, tag, plate, tile],
    firstCheck := 0, through := none }

/-- R161: the reception after the first bytes of a write-through frame. -/
def Reception.lengthOf (bytes : List Byte) (position : FramePosition) (got length : Nat) (kind tag : Byte)
    (body : List Byte) : Reception :=
  { position := position, got := got, length := length, kind := kind, tag := tag, body := body, crc := crc16 bytes,
    headerCrc := crc8 bytes, firstCheck := 0, through := none }

theorem lengthOf_kind :
    (Reception.lengthOf [0x12, 0xC3] .kind 0 4803 0 0 []).next 0x21 =
      .lengthOf [0x12, 0xC3, 0x21] .tag 0 4803 0x21 0 [] := by
  simp only [Reception.next, Reception.lengthOf, crc16, crc8, List.foldl_cons, List.foldl_nil]

theorem lengthOf_tag (tag : Byte) :
    (Reception.lengthOf [0x12, 0xC3, 0x21] .tag 0 4803 0x21 0 []).next tag =
      .lengthOf [0x12, 0xC3, 0x21, tag] .body 0 4803 0x21 tag [] := by
  have long : ¬(4803 = 0) := by decide
  simp only [Reception.next, Reception.lengthOf, long, if_false, crc16, crc8, List.foldl_cons, List.foldl_nil]

theorem lengthOf_body {bytes body : List Byte} {got : Nat} (early : got + 1 ≠ 4803) (tag b : Byte) :
    (Reception.lengthOf bytes .body got 4803 0x21 tag body).next b =
      .lengthOf (bytes ++ [b]) .body (got + 1) 4803 0x21 tag (body ++ [b]) := by
  simp only [Reception.next, Reception.lengthOf, early, if_false, and_self, if_true, crc16, crc8, List.foldl_append,
    List.foldl_cons, List.foldl_nil]

/-- R161: the eight bytes of the event, up to the header check. -/
theorem headerBytes (p : Port) (tag plate tile : Byte) {h : Hub} (started : h.starting = false) :
    [0xC3, 0x12, 0xC3, 0x21, tag, plate, tile].foldl (fun h b => byteArrives p b true h) (h.modPort p PortState.hunt) =
      setReception p (Reception.header tag plate tile) h := by
  have first : byteArrives p 0xC3 true (h.modPort p PortState.hunt) =
      setReception p (.lengthOf [] .length 0 0 0 0 []) h := by
    rw [byteArrives_begins (by rw [Hub.modPort_starting]; exact started) (by rw [Hub.modPort_port_same]; rfl),
      setReception_hunting]
    rfl
  have second : byteArrives p 0x12 true (setReception p (.lengthOf [] .length 0 0 0 0 []) h) =
      setReception p (.lengthOf [0x12] .length 1 4608 0 0 []) h :=
    byteArrives_next started ⟨fun _ => .inl rfl, nofun, nofun, nofun⟩
  have third : byteArrives p 0xC3 true (setReception p (.lengthOf [0x12] .length 1 4608 0 0 []) h) =
      setReception p (.lengthOf [0x12, 0xC3] .kind 0 4803 0 0 []) h :=
    byteArrives_next started ⟨fun _ => .inr (by decide), nofun, nofun, nofun⟩
  have fourth : byteArrives p 0x21 true (setReception p (.lengthOf [0x12, 0xC3] .kind 0 4803 0 0 []) h) =
      setReception p (.lengthOf [0x12, 0xC3, 0x21] .tag 0 4803 0x21 0 []) h := by
    refine (byteArrives_next started ?_).trans ?_
    · exact ⟨nofun, fun _ => .inr rfl, nofun, nofun⟩
    · rw [lengthOf_kind]
  have fifth : byteArrives p tag true (setReception p (.lengthOf [0x12, 0xC3, 0x21] .tag 0 4803 0x21 0 []) h) =
      setReception p (.lengthOf [0x12, 0xC3, 0x21, tag] .body 0 4803 0x21 tag []) h := by
    refine (byteArrives_next started ?_).trans ?_
    · exact ⟨nofun, nofun, nofun, nofun⟩
    · rw [lengthOf_tag]
  have sixth : byteArrives p plate true (setReception p (.lengthOf [0x12, 0xC3, 0x21, tag] .body 0 4803 0x21 tag []) h) =
      setReception p (.lengthOf [0x12, 0xC3, 0x21, tag, plate] .body 1 4803 0x21 tag [plate]) h := by
    refine (byteArrives_next started ?_).trans ?_
    · exact ⟨nofun, nofun, fun _ _ _ => Nat.zero_lt_two, nofun⟩
    · rw [lengthOf_body (by decide)]
      simp only [List.cons_append, List.nil_append, Nat.zero_add]
  have seventh : byteArrives p tile true
      (setReception p (.lengthOf [0x12, 0xC3, 0x21, tag, plate] .body 1 4803 0x21 tag [plate]) h) =
        setReception p (.header tag plate tile) h := by
    refine (byteArrives_next started ?_).trans ?_
    · exact ⟨nofun, nofun, fun _ _ _ => Nat.one_lt_two, nofun⟩
    · rw [lengthOf_body (by decide)]
      simp only [List.cons_append, List.nil_append, Nat.reduceAdd, Reception.header, Reception.lengthOf]
  simp only [List.foldl_cons, List.foldl_nil, first, second, third, fourth, fifth, sixth, seventh]

theorem plateDataArrives_ignored {p : Port} {h : Hub} (takes : takesFrames p h = false) (tag plate tile check : Byte) :
    plateDataArrives p tag plate tile check h = h := if_neg (by rw [takes]; nofun)

/-- R26: the header of PLATE-DATA and the byte of its check. -/
theorem plateDataArrives_header {p : Port} {h : Hub} (takes : takesFrames p h = true) (tag plate tile check : Byte) :
    plateDataArrives p tag plate tile check h =
      throughByte p check (.header tag plate tile) (setReception p (.header tag plate tile) h) := by
  have started := (takesFrames_iff.1 takes).1
  have bytes : [0xC3, 0x12, 0xC3, 0x21, tag, plate, tile, check] = [0xC3, 0x12, 0xC3, 0x21, tag, plate, tile] ++ [check] :=
    rfl
  rw [plateDataArrives, if_pos takes, bytes, List.foldl_append, headerBytes p tag plate tile started]
  have checked : byteArrives p check true (setReception p (.header tag plate tile) h) =
      receiveByte p check (.header tag plate tile) (setReception p (.header tag plate tile) h) :=
    byteArrives_good ((setReception_starting _ _ _).trans started) (by rw [setReception_port])
  exact checked.trans (receiveByte_through rfl rfl rfl)

section
variable {s : State} {p : Port} {tag plate tile check : Byte}

theorem plateData_completes {h : Hub} (eq : plateDataArrives p tag plate tile check s.hub = h) :
    Completes (.plateData p tag plate tile check) s h :=
  complete_completes (f := plateDataArrives p tag plate tile check) rfl eq

end

/-- The verdict of a header after a reception, on the port that the reception left. -/
theorem modPort_setReception (p : Port) (r : Reception) (f : PortState → PortState) (h : Hub) :
    (setReception p r h).modPort p f = h.modPort p fun x => f { x with receiver := .receiving r, gap := some 2 } :=
  modPort_modPort h p _ f

/-- Settles O24, by the verdict on the header. -/
theorem plateDataHeader : Obligations.PlateDataHeader := by
  refine ⟨fun x => lineSetUnsent_iff, fun h p plate tile => ⟨judgeHeader_dropped, fun place => ⟨judgeHeader_busy place,
    fun input handling lineSet => ?_⟩⟩, fun s p tag plate tile check takes =>
      plateData_completes (plateDataArrives_ignored takes tag plate tile check), fun s p tag plate tile check takes => ?_⟩
  · rw [judgeHeader_plate place input handling lineSet]
    refine ⟨judgePlate_badValue, judgePlate_notOwner, ?_⟩
    rintro low writer c rfl
    refine ⟨judgePlate_wrongState low writer, fun z state size => ?_⟩
    rw [judgePlate_tile low writer state size]
    exact ⟨fun high => if_pos high, fun inside => if_neg (Nat.not_le.2 inside)⟩
  · have arrives := plateDataArrives_header takes tag plate tile check
    refine ⟨fun wrong => plateData_completes ?_, fun right verdict next hverdict hnext => ?_⟩
    · rw [arrives, throughByte_mismatch rfl wrong, abandon_unaccepted (Reception.unaccepted_of_none rfl),
        lineError_setReception]
    · subst hverdict
      have judged := judgeHeader_setReception p plate tile (.header tag plate tile) s.hub
      have taken := arrives.trans (throughByte_header rfl rfl right)
      have reception (w : WriteThrough) : next w = .receiving
          { Reception.header tag plate tile with
            got := 3, crc := crc16Byte (Reception.header tag plate tile).crc check, through := some w } := by
        rw [hnext w, right]
        rfl
      simp only [reception]
      refine ⟨fun dropped => ?_, fun r refused => ?_, fun pl c t accepted => ?_⟩
      · have out := headerDropped tag (judged.trans dropped) fun w =>
          { Reception.header tag plate tile with
            got := 3, crc := crc16Byte (Reception.header tag plate tile).crc check, through := some w }
        exact plateData_completes (taken.trans (out.trans (modPort_setReception _ _ _ _)))
      · have out := headerRefused tag (judged.trans refused) fun w =>
          { Reception.header tag plate tile with
            got := 3, crc := crc16Byte (Reception.header tag plate tile).crc check, through := some w }
        exact plateData_completes (taken.trans (out.trans (modPort_setReception _ _ _ _)))
      · have out := headerAccepted tag (judged.trans accepted) fun w =>
          { Reception.header tag plate tile with
            got := 3, crc := crc16Byte (Reception.header tag plate tile).crc check, through := some w }
        exact plateData_completes (taken.trans (out.trans (modPort_setReception _ _ _ _)))

/-! ### The end of plate data (R27) -/

section
variable {p : Port} {pl : Fin 16} {c : Fin 2} {t : Nat} {tag tile : Byte} {q : Fin 16} {h : Hub}

theorem dataGood_eq (handling : (h.port p).handling = some (.plateData tag q tile)) {k : Hub}
    (hk : k = h.modCopy pl c fun x =>
      { x with written := x.written.set (Fin.ofNat 64 t) true, damaged := x.damaged.set (Fin.ofNat 64 t) false }) :
    dataGood p pl c t h = k.modPort p fun x =>
      { x with
        handling := none
        replies := x.replies ++
          [{ kind := 0xA1, tag := tag,
             body := [0, byteOfFin pl, byteOf t, byteOf k.plates[pl].copies[c].outstanding] }] } := by
  subst hk
  exact answerData_done (by rwa [modCopy_port])

theorem dataMismatch_eq (handling : (h.port p).handling = some (.plateData tag q tile)) {k : Hub}
    (hk : k = h.modCopy pl c fun x =>
      { x with written := x.written.set (Fin.ofNat 64 t) true, damaged := x.damaged.set (Fin.ofNat 64 t) true }) :
    dataMismatch p pl c t h = k.modPort p fun x =>
      { x with
        handling := none
        replies := x.replies ++
          [{ kind := 0xA1, tag := tag,
             body := [0x0B, byteOfFin pl, byteOf t, byteOf k.plates[pl].copies[c].outstanding, 0] }] } := by
  subst hk
  exact answerData_damaged damagedCrc (by rwa [modCopy_port])

end

theorem frameEndsAt_accepted {p : Port} {b : Byte} {r : Reception} {pl : Fin 16} {c : Fin 2} {t : Nat}
    (accepted : r.through = some (.accepted pl c t)) (h : Hub) :
    frameEndsAt p b r h =
      if of16 r.firstCheck b = r.crc then dataGood p pl c t (h.hunting p)
      else lineError p .crc (dataMismatch p pl c t h) := by
  rw [frameEndsAt, abandon_crc accepted, accepted]
  rfl

theorem atThroughEnd_iff {r : Reception} :
    r.atThroughEnd = true ↔ r.position = .check ∧ r.got = 1 ∧ ∃ pl c t, r.through = some (.accepted pl c t) := by
  unfold Reception.atThroughEnd
  rw [Bool.and_eq_true, Bool.and_eq_true, beq_iff_eq, beq_iff_eq, and_assoc]
  refine and_congr_right fun _ => and_congr_right fun _ => ?_
  split
  · next pl c t through => exact iff_of_true rfl ⟨pl, c, t, through⟩
  · next through => exact iff_of_false nofun fun ⟨_, _, _, accepted⟩ => by cases through.symm.trans accepted
  · next through => exact iff_of_false nofun fun ⟨_, _, _, accepted⟩ => by cases through.symm.trans accepted

section
variable {s : State} {p : Port} {b : Byte} {r : Reception}

theorem plateDataEnds_last {h : Hub} (receiver : (h.port p).receiver = .receiving r) (ends : r.atThroughEnd = true) :
    plateDataEnds p b h = byteArrives p b true h := by
  rw [plateDataEnds, receiver]
  exact if_pos ends

theorem plateDataEnds_elsewhere {h : Hub}
    (away : ∀ r pl c t, (h.port p).receiver = .receiving r → r.through = some (.accepted pl c t) →
      r.position ≠ .check ∨ r.got ≠ 1) : plateDataEnds p b h = h := by
  unfold plateDataEnds
  split
  · rfl
  · next r receiver =>
    refine if_neg fun ends => ?_
    obtain ⟨position, got, pl, c, t, accepted⟩ := atThroughEnd_iff.1 ends
    rcases away r pl c t receiver accepted with ne | ne
    · exact ne position
    · exact ne got

theorem plateDataEnd_completes {h : Hub} (eq : plateDataEnds p b s.hub = h) : Completes (.plateDataEnd p b) s h :=
  complete_completes (f := plateDataEnds p b) rfl eq

end

/-- Settles O25, by whether the CRC matches. -/
theorem plateDataEnds_holds : Obligations.PlateDataEnds := by
  refine ⟨fun s p b r pl c t tag tile parityBit stopBit started receiver position got accepted handling good =>
    ⟨fun k h hk hh right => ?_, fun k h hk hh => ⟨?_, fun wrong => ?_⟩⟩, fun s p b away =>
      plateDataEnd_completes (plateDataEnds_elsewhere away)⟩
  · have taken : byteArrives p b true s.hub = h := by
      have hunted : ((s.hub.hunting p).port p).handling = some (.plateData tag pl tile) := by
        rw [port_hunting]
        exact handling
      rw [byteArrives_good started receiver, receiveByte_lastCheck position got, frameEndsAt_accepted accepted,
        if_pos right, dataGood_eq hunted hk, hh]
    have ends := plateDataEnds_last (b := b) receiver (atThroughEnd_iff.2 ⟨position, got, pl, c, t, accepted⟩)
    exact ⟨plateDataEnd_completes (ends.trans taken), byteEvent_completes (by rw [good, taken])⟩
  · refine lineFault_completes receiver (canFail_crc.2 ⟨position, got⟩) ?_
    rw [faultClass, abandon_crc accepted, dataMismatch_eq handling hk, hh]
  · have taken : byteArrives p b true s.hub = lineError p .crc h := by
      rw [byteArrives_good started receiver, receiveByte_lastCheck position got, frameEndsAt_accepted accepted,
        if_neg wrong, dataMismatch_eq handling hk, hh]
    have ends := plateDataEnds_last (b := b) receiver (atThroughEnd_iff.2 ⟨position, got, pl, c, t, accepted⟩)
    exact ⟨plateDataEnd_completes (ends.trans taken), byteEvent_completes (by rw [good, taken])⟩

end Sys2Proof.Machine

/-! O20, O21: the requests that ask, and their reports. -/

namespace Sys2Proof.Machine

/-! ### Answers of requests -/

section
variable {c : Instr} {s : State} {p : Port} {tag : Byte} {r : Request}

/-- R173: a request in range is answered Done. -/
theorem request_done {h : Hub} {data : List Byte} (meaning : exec c s = complete (requestArrives p tag r) s)
    (atOnce : handlesAtOnce p s.hub = true) (lists : r.listsFit) (inRange : r.badField = none)
    (answer : perform p tag r (s.hub.hunting p) = h.done data) : Completes c s (reply p r.kind.code tag .done data h) := by
  rw [← queueAnswer_done, ← answer]
  exact request_completes meaning atOnce lists inRange

/-- R173: a request in range is refused. -/
theorem request_refused {x : Result} {data : List Byte} (meaning : exec c s = complete (requestArrives p tag r) s)
    (atOnce : handlesAtOnce p s.hub = true) (lists : r.listsFit) (inRange : r.badField = none)
    (answer : perform p tag r (s.hub.hunting p) = (s.hub.hunting p).refuse x data) :
    Completes c s (reply p r.kind.code tag x data (s.hub.hunting p)) := by
  rw [← queueAnswer_refuse, ← answer]
  exact request_completes meaning atOnce lists inRange

/-- R173: a request in range stays in handling. -/
theorem request_silent {h : Hub} (meaning : exec c s = complete (requestArrives p tag r) s)
    (atOnce : handlesAtOnce p s.hub = true) (lists : r.listsFit) (inRange : r.badField = none)
    (answer : perform p tag r (s.hub.hunting p) = h.noReply) : Completes c s h := by
  rw [← queueAnswer_noReply p r.kind.code tag h, ← answer]
  exact request_completes meaning atOnce lists inRange

end

theorem plainBad_low {hi : Nat} {a : Byte} (low : a.toNat ≤ hi) : plainBad [within 0 hi a] = none := by
  rw [plainBad_single, if_neg (Nat.not_lt.2 low)]

/-! ### Screens as a byte (R174) -/

theorem foldl_add_eq {α : Type} (f : α → Nat) (k : Nat) (l : List α) :
    l.foldl (fun acc a => acc + f a) k = k + (l.map f).sum := by
  induction l generalizing k with
  | nil => rfl
  | cons a l ih => rw [List.foldl_cons, ih, List.map_cons, List.sum_cons, Nat.add_assoc]

theorem screensByte_eq (l : List (Fin 8)) : screensByte l = byteOf (l.map fun n => 2 ^ n.val).sum := by
  rw [screensByte, foldl_add_eq, Nat.zero_add]

theorem sum_filter_eq {α : Type} (p : α → Bool) (f : α → Nat) (l : List α) :
    (l.map fun a => if p a then f a else 0).sum = ((l.filter p).map f).sum := by
  induction l with
  | nil => rfl
  | cons a l ih => by_cases h : p a <;> simp [h, ih]

theorem screenSet_byte (s : ScreenSet) :
    s.byte = byteOf ((allScreens.filter fun n => s[n]).map fun n => 2 ^ n.val).sum := by
  rw [ScreenSet.byte, foldl_add_eq, Nat.zero_add, sum_filter_eq (fun n : Fin 8 => s[n])]
  rfl

theorem groupRunning_eq (x : Group) : groupRunning x = (x.running != ScreenSet.empty) := by
  rw [groupRunning, Bool.eq_iff_iff, Bool.not_eq_true', ← Bool.not_eq_true, bne_iff_ne, ne_eq,
    ScreenSet.isEmpty_eq_true, ScreenSet.eq_empty]

/-! ### HUB-ASK (R185) -/

theorem hubReport_eq (h : Hub) (p : Port) :
    hubReport h p =
      ([h.portA, h.portB].flatMap portReport) ++ [flag (h.port p).errorArmed] ++
        be16 (BitVec.ofNat 16 (8192 - (allScreens.map fun n => h.screens[n].entries.length).sum)) ++
        [byteOf (allBuffers.filter fun b => h.buffers[b].isNone).length] ++
        allGroups.flatMap fun g =>
          [byteOf ((allScreens.filter fun n => h.screens[n].group == some g).map fun n => 2 ^ n.val).sum] ++
            be16 (BitVec.ofNat 16 h.groups[g].pace) ++
            [flag (h.groups[g].running != ScreenSet.empty),
              byteOf ((allScreens.filter fun n => h.groups[g].running[n]).map fun n => 2 ^ n.val).sum] := by
  have group (g : Fin 4) : groupReport h g =
      [byteOf ((allScreens.filter fun n => h.screens[n].group == some g).map fun n => 2 ^ n.val).sum] ++
        be16 (BitVec.ofNat 16 h.groups[g].pace) ++
        [flag (h.groups[g].running != ScreenSet.empty),
          byteOf ((allScreens.filter fun n => h.groups[g].running[n]).map fun n => 2 ^ n.val).sum] := by
    rw [groupReport, screensByte_eq, groupRunning_eq, screenSet_byte]
    rfl
  rw [hubReport, List.flatMap_congr fun g _ => group g, List.flatMap_cons, List.flatMap_cons, List.flatMap_nil,
    List.append_nil]
  rfl

/-- Settles O20, request by request. -/
theorem hubRequests : Obligations.HubRequests := by
  refine ⟨fun s p tag atOnce => ⟨?_, ?_, ?_, fun rate low => ?_, fun kinds low => ?_⟩, fun h p => ?_⟩
  · exact request_done (r := .hubAsk) rfl atOnce trivial rfl rfl
  · rintro rfl
    exact request_done (r := .hubReset) rfl atOnce trivial rfl (by rw [perform, resetHub, if_pos rfl]; rfl)
  · rintro rfl
    exact request_refused (r := .hubReset) rfl atOnce trivial rfl (by rw [perform, resetHub, if_neg (by decide)])
  · exact request_done (r := .lineSet rate) rfl atOnce trivial (plainBad_low low) rfl
  · refine request_done (r := .noticeSet kinds) rfl atOnce trivial ?_ rfl
    rw [noticeSet_badField, if_neg (Nat.not_le.2 low)]
  · rw [hubReport_eq]
    congr 4
    refine List.flatMap_congr fun x _ => ?_
    rw [portReport, optionalByte]
    cases x.pendingRate <;> rfl

end Sys2Proof.Machine

/-! O21: INPUT-ASK, PLATE-ASK, SCREEN-ASK, LINK-ASK, LIGHT-ASK and their reports. -/

namespace Sys2Proof.Machine

theorem slotReport_eq (x : Slot) : slotReport x =
    [x.state.code] ++ optional 4 be32 x.number ++ [byteOf (allScreens.filter fun n => x.readers[n]).length] := rfl

theorem copyReport_eq (c : PlateCopy) : copyReport c =
    [c.state.code] ++ optional 2 (fun z => [byteOf z.columns, byteOf z.rows]) c.size ++
      [if c.state = .loading then byteOf c.outstanding else 0] ++
      (byteOf ((List.finRange 64).filter fun t => c.damaged[t]).length ::
        ((List.finRange 64).filter fun t => c.damaged[t]).map byteOfFin) ++
      [byteOf (allScreens.filter fun n => c.readers[n]).length] := by
  have outstanding : byteOf c.reportedOutstanding = if c.state = .loading then byteOf c.outstanding else 0 := by
    rw [PlateCopy.reportedOutstanding, apply_ite byteOf]
    rfl
  rw [copyReport, outstanding, counted, ← List.map_eq_flatMap]
  rfl

theorem writerPort_code (p : Fin 16) : portCode (some (writerPort p)) = if p.val < 8 then 1 else 2 := by
  rw [writerPort]
  split <;> rfl

theorem plateReport_eq (h : Hub) (p : Fin 16) : plateReport h p =
    [byteOfFin p, if p.val < 8 then 1 else 2] ++
      optional 2 (fun z => [byteOf z.columns, byteOf z.rows]) h.plates[p].size ++
      optional 1 (fun c => [byteOfFin c]) h.plates[p].live ++ be16 h.plates[p].version ++
      [byteOf ((allScreens.filter fun n =>
        h.screens[n].bound && h.screens[n].references (.plate p)).map fun n => 2 ^ n.val).sum] ++
      allCopies.flatMap fun c =>
        [h.plates[p].copies[c].state.code] ++
          optional 2 (fun z => [byteOf z.columns, byteOf z.rows]) h.plates[p].copies[c].size ++
          [if h.plates[p].copies[c].state = .loading then byteOf h.plates[p].copies[c].outstanding else 0] ++
          (byteOf ((List.finRange 64).filter fun t => h.plates[p].copies[c].damaged[t]).length ::
            ((List.finRange 64).filter fun t => h.plates[p].copies[c].damaged[t]).map byteOfFin) ++
          [byteOf (allScreens.filter fun n => h.plates[p].copies[c].readers[n]).length] := by
  rw [plateReport, writerPort_code, screensByte_eq, List.flatMap_congr fun c _ => copyReport_eq _]
  rfl

theorem screenReport_unbound {h : Hub} {n : Fin 8} (unbound : h.screens[n].bound = false) :
    screenReport h n = [byteOfFin n, 0] := by
  have state : h.screens[n].state = .unbound := by simpa [Screen.bound] using unbound
  rw [screenReport, unbound, state]
  rfl

theorem counts_eq (x : Screen) : (([.absent, .held, .behind, .sending] : List EntryState).flatMap fun e =>
      be16 (BitVec.ofNat 16 (x.entries.filter fun y => y.state == e).length)) =
        be16Of (countEntries x .absent) ++ be16Of (countEntries x .held) ++ be16Of (countEntries x .behind) ++
          be16Of (countEntries x .sending) := by
  rw [List.flatMap_cons, List.flatMap_cons, List.flatMap_cons, List.flatMap_cons, List.flatMap_nil, List.append_nil,
    List.append_assoc, List.append_assoc]
  rfl
theorem boundReport_eq {x : Screen} {l : Fin 6} {identity : Identity} {z : Size} {fill : Colour} (link : x.link = some l)
    (identityAt : x.identity = some identity) (size : x.size = some z) (fillAt : x.fill = some fill) :
    boundReport x =
      [byteOfFin l] ++ be48 identity ++ [byteOf z.columns, byteOf z.rows] ++
        [fill.red, fill.green, fill.blue] ++ optional 3 (fun c => [c.red, c.green, c.blue]) x.pendingFill ++
        [portCode x.owner, flag x.seize.isSome] ++ be16 x.stamp ++ [flag x.pendingFlag] ++ layoutBytes x.layout ++
        pendingReport x.pendingLayout ++
        optional 1 (fun g => [byteOfFin g]) x.group ++ be16 (BitVec.ofNat 16 x.pace) ++ [byteOf x.failures] ++
        be16 x.present ++ optional 1 (fun c => [c.code]) x.engine.cycle ++
        (([.absent, .held, .behind, .sending] : List EntryState).flatMap fun e =>
          be16 (BitVec.ofNat 16 (x.entries.filter fun y => y.state == e).length)) ++
        (allInputs.flatMap fun i => optional 4 be32 x.lastFrames[i]) ++ platesReport x := by
  rw [counts_eq]
  unfold boundReport
  simp only [link, identityAt, size, fillAt, Option.getD_some, ← List.append_assoc]
  rfl

theorem pendingReport_eq (v : Option Layout) : pendingReport v =
    (match v with | none => [0] | some v => 1 :: byteOf v.length :: v.flatMap View.bytes : List Byte) := by
  cases v <;> rfl

theorem rowReport_eq (h : Hub) (l : Fin 6) (a : Fin 2) : rowReport h l a =
    (match h.links[l].rows[a].assignment with
      | .unassigned => [0, 0, 0, 0, 0, 0, 0, 0]
      | .screen n => [1, byteOfFin n] ++ be48 (h.screens[n].identity.getD 0)
      | .stranger identity => [2, 0] ++ be48 identity) ++
      optional 1 (fun c => [byteOf c]) h.links[l].rows[a].credit ++
      List.replicate 2 (byteOf (outstandingCredit h l a)) := by
  rw [rowReport]
  cases h.links[l].rows[a].assignment <;> rfl

theorem stage_rate_eq (k : Link) : optionalByte id (stageOf k.state) ++ optionalByte LinkRate.code (attemptRate k) =
    (match k.state with
      | .training .hold => [1, 0, 0, 0]
      | .training (.attempt r) => [1, 1, 1, r.code]
      | _ => [0, 0, 0, 0]) := by
  rw [attemptRate]
  rcases k.state with _ | (_ | r) | _ | _ | _ | _ | _ <;> rfl

theorem toList_eq_map {α : Type} {n : Nat} (v : Vector α n) : v.toList = (List.finRange n).map fun i => v[i] := by
  refine List.ext_getElem ?_ fun i _ _ => ?_
  · rw [Vector.length_toList, List.length_map, List.length_finRange]
  · rw [Vector.getElem_toList, List.getElem_map, List.getElem_finRange]
    rfl

theorem lightReport_eq (h : Hub) : lightReport h =
    (allInputs.flatMap fun i =>
      optional 2 (fun r => be16 (r.setWidth 16)) h.lights[i].reading ++ [flag h.lights[i].conversion.isSome]) ++
      (allGroups.flatMap fun k => (List.finRange 8).flatMap fun i =>
        be16 (h.curves[k][i].reading.setWidth 16) ++ [h.curves[k][i].level]) ++
      allScreens.flatMap fun n =>
        [h.screens[n].level.mode.code, h.screens[n].level.target, h.screens[n].level.current,
          h.screens[n].level.step, byteOfFin h.screens[n].level.input, byteOfFin h.screens[n].level.curve] := by
  rw [lightReport, toList_eq_map h.curves, List.flatMap_map]
  simp only [toList_eq_map, List.flatMap_map]
  rfl

theorem linkReport_eq (h : Hub) (l : Fin 6) : linkReport h l =
    [byteOfFin l, flag h.links[l].enabled, h.links[l].state.code] ++
      (optionalByte id (stageOf h.links[l].state) ++ optionalByte LinkRate.code (attemptRate h.links[l])) ++
      [h.links[l].configuredCap.code, h.links[l].currentCap.code] ++
      optional 1 (fun r => [r.code]) h.links[l].rate ++
      [h.links[l].wakeMode.code, flag h.links[l].autoWake, h.links[l].warmUp.code, flag h.links[l].wakeLine,
        flag h.links[l].parkPending] ++
      (allRows.flatMap fun a => rowReport h l a) ++ [byteOf h.links[l].checkFailures] ++ be16 h.links[l].strays ++
      be16 h.links[l].protocolFaults ++ be16 h.links[l].strangerPackets := by
  rw [linkReport]
  simp only [List.append_assoc]
  rfl

/-- Settles O21, report by report. -/
theorem askRequests : Obligations.AskRequests := by
  refine ⟨fun s p tag b atOnce => ⟨fun low => ?_, fun low => ?_, fun low => ?_, fun low => ?_, ?_⟩,
    fun α zeros encode x => ⟨rfl, rfl⟩, fun v => ?_, ?_, ?_, ?_, ?_, lightReport_eq, ?_⟩
  · exact request_done (r := .inputAsk b) rfl atOnce trivial (plainBad_low low) rfl
  · exact request_done (r := .plateAsk b) rfl atOnce trivial (plainBad_low low) rfl
  · exact request_done (r := .screenAsk b) rfl atOnce trivial (plainBad_low low) rfl
  · exact request_done (r := .linkAsk b) rfl atOnce trivial (plainBad_low low) rfl
  · exact request_done (r := .lightAsk) rfl atOnce trivial rfl rfl
  · rw [View.bytes]
    cases v.source <;> rfl
  · rintro h i c rfl
    exact inputReport.eq_1 h i
  · rintro h p x rfl
    exact plateReport_eq h p
  · rintro h n x rfl
    refine ⟨screenReport_unbound, fun l identity z fill bound link identityAt size fillAt => ?_⟩
    rw [screenReport, if_pos bound, boundReport_eq link identityAt size fillAt, pendingReport_eq]
    simp only [List.append_assoc]
    rfl
  · rintro h l k rfl
    rw [linkReport_eq, stage_rate_eq, List.flatMap_congr fun a _ => rowReport_eq h l a]
    rfl
  · exact ⟨rfl, rfl, rfl, rfl, rfl, fun _ => rfl, rfl, rfl, rfl, rfl, rfl, rfl, rfl⟩

end Sys2Proof.Machine

/-! O22, O23: PLATE-OPEN, PLATE-COMMIT, PLATE-DROP, and the end of a commit. -/

namespace Sys2Proof.Machine

@[simp] theorem hunting_plates (p : Port) (h : Hub) : (h.hunting p).plates = h.plates := Hub.modPort_plates h p _

/-! ### The writer, the work copy and the use of a plate (R21, R22) -/

theorem writerPort_a_iff (p : Fin 16) : writerPort p = .a ↔ p.val < 8 := by
  unfold writerPort
  split
  · next low => exact iff_of_true rfl low
  · next high => exact iff_of_false nofun high

theorem outstanding_eq {x : PlateCopy} {z : Size} (size : x.size = some z) :
    x.outstanding = ((List.finRange 64).filter fun t =>
      decide (t.val < z.columns * z.rows ∧ (x.written[t] = false ∨ x.damaged[t] = true))).length := by
  rw [PlateCopy.outstanding, size]
  refine congrArg List.length (List.filter_congr fun t _ => ?_)
  rw [Bool.eq_iff_iff, Bool.and_eq_true, decide_eq_true_iff, decide_eq_true_iff, Bool.or_eq_true, Bool.not_eq_true']
  rfl

theorem plateInUse_iff (h : Hub) (p : Fin 16) : plateInUse h p = true ↔
    referencing h (.plate p) ≠ [] ∨ ∃ (c : Fin 2) (n : Fin 8), h.plates[p].copies[c].readers[n] = true := by
  have read (c : Fin 2) : (!h.plates[p].copies[c].readers.isEmpty) = true ↔
      ∃ n : Fin 8, h.plates[p].copies[c].readers[n] = true := by
    rw [Bool.not_eq_true', ← Bool.not_eq_true, ScreenSet.isEmpty_eq_true, not_forall]
    simp only [Bool.not_eq_false]
  rw [plateInUse, useSet, Bool.or_eq_true, List.any_eq_true, Bool.not_eq_true', ← Bool.not_eq_true, List.isEmpty_iff]
  refine or_congr_right ⟨fun ⟨c, _, at'⟩ => ⟨c, (read c).1 at'⟩, fun ⟨c, at'⟩ => ⟨c, ?_, (read c).2 at'⟩⟩
  exact List.mem_finRange c

theorem plateInUse_hunting (p : Port) (h : Hub) (pl : Fin 16) : plateInUse (h.hunting p) pl = plateInUse h pl := by
  rw [Bool.eq_iff_iff, plateInUse_iff, plateInUse_iff, referencing_hunting, hunting_plates]

theorem asWriter_writer {p : Port} {pl : Fin 16} {f : Hub → Answer} {h : Hub} (writer : writerPort pl = p) :
    asWriter p pl f h = f h := if_pos writer

theorem asWriter_other {p : Port} {pl : Fin 16} {f : Hub → Answer} {h : Hub} (other : writerPort pl ≠ p) :
    asWriter p pl f h = h.refuse .notOwner [portCode (some (writerPort pl))] := if_neg other

theorem plateOpen_inRange {plate columns rows : Byte} (lp : plate.toNat ≤ 15) (lc : 1 ≤ columns.toNat)
    (hc : columns.toNat ≤ 8) (lr : 1 ≤ rows.toNat) (hr : rows.toNat ≤ 8) :
    (Request.plateOpen plate columns rows).badField = none := by
  have positive {b : Byte} (low : 1 ≤ b.toNat) : b ≠ 0 := by
    rintro rfl
    exact absurd low (by decide)
  rw [plateOpen_badField, if_neg (Nat.not_lt.2 lp), if_neg (not_or.2 ⟨positive lc, Nat.not_lt.2 hc⟩),
    if_neg (not_or.2 ⟨positive lr, Nat.not_lt.2 hr⟩)]

/-! ### The three requests (R172) -/

section
variable {h : Hub} {p : Port} {tag : Byte} {pl : Fin 16} {z : Size} {c : Fin 2}

theorem openPlate_done (work : c = workCopy h.plates[pl])
    (state : h.plates[pl].copies[c].state = .empty ∨ h.plates[pl].copies[c].state = .loading) :
    openPlate pl z h = (h.modCopy pl c fun x =>
      { x with
        state := .loading, size := some z, written := TileSet.empty, damaged := TileSet.empty,
        signatures := [] }).done [byteOfFin pl, byteOfFin c] := by
  subst work
  exact if_pos state

theorem openPlate_busy (work : c = workCopy h.plates[pl])
    (state : h.plates[pl].copies[c].state = .retired ∨ h.plates[pl].copies[c].state = .committing) :
    openPlate pl z h = h.refuse .busy [byteOfFin pl] := by
  subst work
  refine if_neg ?_
  rcases state with e | e <;> simp only [e] <;> decide

theorem commitPlate_wrongState (work : c = workCopy h.plates[pl]) (state : h.plates[pl].copies[c].state ≠ .loading) :
    commitPlate p tag pl h = h.refuse .wrongState [byteOfFin pl, h.plates[pl].copies[c].state.code] := by
  subst work
  exact if_pos state

theorem commitPlate_incomplete (work : c = workCopy h.plates[pl]) (state : h.plates[pl].copies[c].state = .loading)
    (missing : h.plates[pl].copies[c].outstanding ≠ 0) :
    commitPlate p tag pl h =
      h.refuse .incomplete [byteOfFin pl, byteOf h.plates[pl].copies[c].outstanding] := by
  subst work
  exact (if_neg (not_not.2 state)).trans (if_pos missing)

theorem commitPlate_begins (work : c = workCopy h.plates[pl]) (state : h.plates[pl].copies[c].state = .loading)
    (full : h.plates[pl].copies[c].outstanding = 0) :
    commitPlate p tag pl h = ((h.modCopy pl c fun x => { x with state := .committing }).modPort p fun x =>
      { x with handling := some (.plateCommit tag pl) }).noReply := by
  subst work
  exact (if_neg (not_not.2 state)).trans (if_neg (not_not.2 full))

theorem dropPlate_busy (used : plateInUse h pl = true) : dropPlate pl h = h.refuse .busy [byteOfFin pl] := if_pos used

theorem dropPlate_done (unused : plateInUse h pl = false) :
    dropPlate pl h = (h.modPlate pl fun x =>
      { x with size := none, live := none, copies := Vector.replicate 2 PlateCopy.empty }).done [byteOfFin pl] :=
  if_neg (Bool.eq_false_iff.1 unused)

end

/-- Settles O22, request by request: the writer check, then the work copy's state. -/
theorem plateRequests : Obligations.PlateRequests := by
  refine ⟨fun s p tag plate atOnce low other => ?_, fun h p => ?_, ?_, ?_⟩
  · exact ⟨request_refused (r := .plateCommit plate) rfl atOnce trivial (plainBad_low low) (asWriter_other other),
      request_refused (r := .plateDrop plate) rfl atOnce trivial (plainBad_low low) (asWriter_other other)⟩
  · refine ⟨writerPort_a_iff p, fun none => by rw [workCopy, none], fun c live e => ?_, fun c z => outstanding_eq,
      plateInUse_iff h p⟩
    exact workCopy_ne_live h.plates[p] (e ▸ live)
  · intro s p tag plate columns rows c atOnce lp lc hc lr hr work
    have inRange := plateOpen_inRange lp lc hc lr hr
    rw [← hunting_plates p s.hub] at work
    simp only [← hunting_plates p s.hub]
    refine ⟨fun other => ?_, fun writer => ⟨fun state => ?_, fun state => ?_⟩⟩
    · exact request_refused (r := .plateOpen plate columns rows) rfl atOnce trivial inRange (asWriter_other other)
    · exact request_done (r := .plateOpen plate columns rows) rfl atOnce trivial inRange
        ((asWriter_writer writer).trans (openPlate_done work state))
    · exact request_refused (r := .plateOpen plate columns rows) rfl atOnce trivial inRange
        ((asWriter_writer writer).trans (openPlate_busy work state))
  · intro s tag plate c p atOnce low writer work
    have commit {h : Answer} (answer : commitPlate p tag (plateOf plate) (s.hub.hunting p) = h) :
        perform p tag (.plateCommit plate) (s.hub.hunting p) = h := (asWriter_writer writer.symm).trans answer
    have drop {h : Answer} (answer : dropPlate (plateOf plate) (s.hub.hunting p) = h) :
        perform p tag (.plateDrop plate) (s.hub.hunting p) = h := (asWriter_writer writer.symm).trans answer
    rw [← hunting_plates p s.hub] at work
    simp only [← hunting_plates p s.hub]
    refine ⟨fun state => ?_, fun state => ⟨fun missing => ?_, fun full => ?_⟩, fun used => ?_, fun unused => ?_⟩
    · exact request_refused (r := .plateCommit plate) rfl atOnce trivial (plainBad_low low)
        (commit (commitPlate_wrongState work state))
    · exact request_refused (r := .plateCommit plate) rfl atOnce trivial (plainBad_low low)
        (commit (commitPlate_incomplete work state missing))
    · exact request_silent (r := .plateCommit plate) rfl atOnce trivial (plainBad_low low)
        (commit (commitPlate_begins work state full))
    · rw [← plateInUse_hunting p] at used
      exact request_refused (r := .plateDrop plate) rfl atOnce trivial (plainBad_low low) (drop (dropPlate_busy used))
    · rw [← plateInUse_hunting p] at unused
      exact request_done (r := .plateDrop plate) rfl atOnce trivial (plainBad_low low) (drop (dropPlate_done unused))

/-! ### COMMIT-DONE (R24) -/

theorem commitTag_iff (h : Hub) (pl : Fin 16) (tag : Byte) :
    commitTag h pl = some tag ↔ (h.port (writerPort pl)).handling = some (.plateCommit tag pl) := by
  refine ⟨handling_of_commitTag, fun handling => ?_⟩
  rw [commitTag, handling]
  exact if_pos rfl

theorem commitDone_none {h : Hub} {pl : Fin 16} (none : commitTag h pl = none) : commitDone pl h = h := by
  rw [commitDone, none]

theorem commitDone_eq {h : Hub} {pl : Fin 16} {tag : Byte} (committing : commitTag h pl = some tag) :
    commitDone pl h = (commitCopy pl h).modPort (writerPort pl) fun x =>
      { x with
        handling := none
        replies := x.replies ++
          [{ kind := 0xA2, tag := tag,
             body := 0 :: ([byteOfFin pl] ++ be16 (commitCopy pl h).plates[pl].version ++
               [byteOfFin (workCopy h.plates[pl])]) }] } := by
  rw [commitDone, committing]
  exact modPort_modPort _ _ _ _

theorem modPlate_version (h : Hub) (pl : Fin 16) (table : List (Option Signature)) (z : Option Size) :
    (h.modPlate pl (Plate.committed table z)).plates[pl].version = h.plates[pl].version + 1 :=
  congrArg Plate.version (upd_get_same h.plates pl _)

theorem Plate.committed_work (table : List (Option Signature)) (size : Option Size) (x : Plate) :
    (x.committed table size).copies[workCopy x] =
      { x.copies[workCopy x] with state := .live, signatures := table } := by
  rw [Plate.committed, upd_get_same]
  rcases hl : x.live with _ | old
  · rfl
  · have ne : old ≠ workCopy x := by
      rintro rfl
      exact workCopy_ne_live x hl
    rw [upd_get_other _ _ ne]

/-- Settles O23, through the plate that `commitCopy` leaves. -/
theorem commitDone_holds : Obligations.CommitDone := by
  refine ⟨commitTag_iff, fun s pl none => complete_completes (f := commitDone pl) rfl (commitDone_none none), ?_⟩
  rintro s pl tag c z committing rfl size
  have committed := commitCopy_eq pl s.hub
  rw [size, Option.map_some, Option.getD_some] at committed
  generalize htable : copySignatures s.hub.dram pl (workCopy s.hub.plates[pl]) z.tiles = table at committed
  refine ⟨(s.hub.plates[pl].committed table (some z)).copies, ?_, ?_, ?_⟩
  · refine complete_completes (f := commitDone pl) rfl ?_
    have plate : s.hub.modPlate pl (Plate.committed table (some z)) = s.hub.modPlate pl fun x =>
        { x with
          live := some (workCopy s.hub.plates[pl]), size := some z, version := x.version + 1
          copies := (s.hub.plates[pl].committed table (some z)).copies } :=
      congrArg (fun v => ({ s.hub with plates := v } : Hub)) (upd_congr rfl)
    rw [commitDone_eq committing, committed, modPlate_version, plate]
  · rw [Plate.committed_work, ← htable]
    rfl
  · rw [Plate.committed_other _ _ _ (ne_other _)]
    rfl

end Sys2Proof.Machine

/-! O26, O28, O29: SCREEN-BIND, the layout and the fill, the pace and the group. -/

namespace Sys2Proof.Machine

/-! ### SCREEN-BIND (R38, R40) -/

theorem boundTo_hunting (p : Port) (h : Hub) (l : Fin 6) : boundTo (h.hunting p) l = boundTo h l := by
  rw [boundTo, hunting_screens]
  rfl

theorem freeEntries_hunting (p : Port) (h : Hub) : freeEntries (h.hunting p) = freeEntries h := by
  rw [freeEntries, hunting_screens]
  rfl

theorem identityHolder_hunting (p : Port) (h : Hub) (l : Fin 6) (identity : Identity) :
    identityHolder (h.hunting p) l identity = identityHolder h l identity := by
  rw [identityHolder, boundTo_hunting, hunting_screens]
  rfl

theorem boundTo_eq (h : Hub) (l : Fin 6) :
    boundTo h l = allScreens.filter fun n => decide (h.screens[n].state ≠ .unbound ∧ h.screens[n].link = some l) := by
  refine List.filter_congr fun n _ => ?_
  rw [Bool.eq_iff_iff, Bool.and_eq_true, bound_iff, beq_iff_eq, decide_eq_true_iff]

theorem identityHolder_first (h : Hub) (l : Fin 6) (identity : Identity) :
    (∀ n, identityHolder h l identity = some n ↔
      (n ∈ boundTo h l ∧ h.screens[n].identity = some identity) ∧
        ∀ m < n, m ∈ boundTo h l → h.screens[m].identity ≠ some identity) ∧
      (identityHolder h l identity = none ↔ ∀ n ∈ boundTo h l, h.screens[n].identity ≠ some identity) := by
  have holder := find?_first (boundTo_ascending h l) (p := fun n => h.screens[n].identity == some identity)
    (q := fun n => n ∈ boundTo h l ∧ h.screens[n].identity = some identity) fun n => and_congr_right fun _ => beq_iff_eq
  simp only [not_and] at holder
  exact holder

section
variable {h : Hub} {p : Port} {n : Fin 8} {l : Fin 6} {identity : Identity} {z : Size} {fill : Colour}

theorem bindScreen_bound (bound : h.screens[n].state ≠ .unbound) :
    bindScreen p n l identity z fill h = h.refuse .wrongState [byteOfFin n, h.screens[n].state.code] := if_pos bound

theorem bindScreen_held {m : Fin 8} (unbound : h.screens[n].state = .unbound)
    (held : identityHolder h l identity = some m) :
    bindScreen p n l identity z fill h = h.refuse .wrongState [byteOfFin m, h.screens[m].state.code] := by
  unfold bindScreen
  simp only [unbound, not_true_eq_false, if_false, held, ne_eq]

theorem bindScreen_noRoom (unbound : h.screens[n].state = .unbound) (unheld : identityHolder h l identity = none)
    (full : 2 ≤ (boundTo h l).length ∨ freeEntries h < z.tiles) :
    bindScreen p n l identity z fill h =
      h.refuse .noRoom (be16Of (freeEntries h) ++ [byteOf (boundTo h l).length]) := by
  unfold bindScreen
  simp only [unbound, not_true_eq_false, if_false, unheld, ne_eq]
  split
  · rfl
  · next few => rw [if_pos (full.resolve_left few)]

theorem bindScreen_done (unbound : h.screens[n].state = .unbound) (unheld : identityHolder h l identity = none)
    (few : (boundTo h l).length < 2) (room : z.tiles ≤ freeEntries h) :
    bindScreen p n l identity z fill h =
      (h.modScreen n fun _ => Screen.bind p l identity z fill).done
        (byteOfFin n :: be16Of (freeEntries (h.modScreen n fun _ => Screen.bind p l identity z fill))) := by
  unfold bindScreen
  simp only [unbound, not_true_eq_false, if_false, unheld, ne_eq, if_neg (Nat.not_le.2 few), if_neg (Nat.not_lt.2 room)]

end

theorem byte_ne_zero {b : Byte} (low : 1 ≤ b.toNat) : b ≠ 0 := by
  rintro rfl
  exact absurd low (by decide)

theorem screenBind_inRange {a b c d : Byte} {identity : Identity} {colour : Colour} (la : a.toNat ≤ 7)
    (lb : b.toNat ≤ 5) (lc : 1 ≤ c.toNat) (hc : c.toNat ≤ 64) (ld : 1 ≤ d.toNat) (hd : d.toNat ≤ 36) :
    (Request.screenBind a b identity c d colour).badField = none := by
  rw [screenBind_badField, if_neg (Nat.not_lt.2 la), if_neg (Nat.not_lt.2 lb),
    if_neg (not_or.2 ⟨byte_ne_zero lc, Nat.not_lt.2 hc⟩), if_neg (not_or.2 ⟨byte_ne_zero ld, Nat.not_lt.2 hd⟩)]

/-- Settles O26, by the slot's state, the identity's holder and the room. -/
theorem screenBind : Obligations.ScreenBind := by
  refine ⟨fun h l identity => ?_, fun s p tag screen link columns rows identity fill atOnce ls ll lc hc lr hr => ?_⟩
  · obtain ⟨holder, none⟩ := identityHolder_first h l identity
    exact ⟨boundTo_eq h l, holder, none, rfl⟩
  · have inRange := screenBind_inRange (identity := identity) (colour := fill) ls ll lc hc lr hr
    simp only [← hunting_screens p s.hub, ← identityHolder_hunting p s.hub, ← boundTo_hunting p s.hub,
      ← freeEntries_hunting p s.hub]
    refine ⟨fun bound => ?_, fun unbound => ⟨fun m held => ?_, fun unheld => ⟨fun full => ?_, fun few room => ?_⟩⟩⟩
    · exact request_refused (r := .screenBind screen link identity columns rows fill) rfl atOnce trivial inRange
        (bindScreen_bound bound)
    · exact request_refused (r := .screenBind screen link identity columns rows fill) rfl atOnce trivial inRange
        (bindScreen_held unbound held)
    · exact request_refused (r := .screenBind screen link identity columns rows fill) rfl atOnce trivial inRange
        (bindScreen_noRoom unbound unheld full)
    · exact ⟨_, request_done (r := .screenBind screen link identity columns rows fill) rfl atOnce trivial inRange
        (bindScreen_done unbound unheld few room), rfl⟩

/-! ### The layout and the fill (R43 to R46) -/

/-- R136: a request of the owner. -/
theorem asOwner_hunting {h : Hub} {p : Port} {n : Fin 8} (bound : h.screens[n].bound = true)
    (owner : h.screens[n].owner = some p) (f : Hub → Answer) : asOwner p n f (h.hunting p) = f (h.hunting p) :=
  asOwner_owner (by rwa [hunting_screens]) (by rwa [hunting_screens]) f

theorem View.within_iff {v : View} {z : Size} :
    v.within z = true ↔ v.placeColumn + v.columns ≤ z.columns ∧ v.placeRow + v.rows ≤ z.rows := by
  rw [View.within, Bool.and_eq_true, decide_eq_true_iff, decide_eq_true_iff]

theorem View.blockWithin_iff {v : View} {z : Size} :
    v.blockWithin z = true ↔ v.originColumn + v.columns ≤ z.columns ∧ v.originRow + v.rows ≤ z.rows := by
  rw [View.blockWithin, Bool.and_eq_true, decide_eq_true_iff, decide_eq_true_iff]

theorem viewFits_iff {h : Hub} {n : Fin 8} {z : Size} (size : h.screens[n].size = some z) (v : View) :
    viewFits h n v = true ↔
      (v.placeColumn + v.columns ≤ z.columns ∧ v.placeRow + v.rows ≤ z.rows) ∧
        (∀ i, v.source = .surface i → ∃ w, h.captures[i].size = some w ∧
          v.originColumn + v.columns ≤ w.columns ∧ v.originRow + v.rows ≤ w.rows) ∧
        ∀ p, v.source = .plate p →
          (∀ w, h.plates[p].size = some w →
            v.originColumn + v.columns ≤ w.columns ∧ v.originRow + v.rows ≤ w.rows) ∧
          (h.plates[p].size = none → v.originColumn + v.columns ≤ 8 ∧ v.originRow + v.rows ≤ 8) := by
  rw [viewFits, size, Bool.and_eq_true, View.within_iff]
  refine and_congr_right fun _ => ?_
  rcases v.source with i | p
  · refine Iff.trans (b := ∃ w, h.captures[i].size = some w ∧
      v.originColumn + v.columns ≤ w.columns ∧ v.originRow + v.rows ≤ w.rows) ?_
      ⟨fun fits => ⟨fun _ e => by cases e; exact fits, nofun⟩, fun ⟨fits, _⟩ => fits i rfl⟩
    dsimp only
    generalize h.captures[i].size = size
    rcases size with _ | w
    · exact iff_of_false nofun nofun
    · exact View.blockWithin_iff.trans ⟨fun fits => ⟨w, rfl, fits⟩, fun ⟨_, e, fits⟩ => by cases e; exact fits⟩
  · refine Iff.trans (b := (∀ w, h.plates[p].size = some w →
        v.originColumn + v.columns ≤ w.columns ∧ v.originRow + v.rows ≤ w.rows) ∧
        (h.plates[p].size = none → v.originColumn + v.columns ≤ 8 ∧ v.originRow + v.rows ≤ 8)) ?_
      ⟨fun fits => ⟨nofun, fun _ e => by cases e; exact fits⟩, fun ⟨_, fits⟩ => fits p rfl⟩
    dsimp only
    generalize h.plates[p].size = size
    rcases size with _ | w
    · exact View.blockWithin_iff.trans ⟨fun fits => ⟨nofun, fun _ => fits⟩, fun ⟨_, fits⟩ => fits rfl⟩
    · exact View.blockWithin_iff.trans
        ⟨fun fits => ⟨fun _ e => by cases e; exact fits, nofun⟩, fun ⟨fits, _⟩ => fits w rfl⟩

theorem badView_none {h : Hub} {n : Fin 8} {v : Layout} :
    badView h n v = none ↔ ∀ w ∈ v, viewFits h n w = true := by
  simp only [badView, List.findIdx?_eq_none_iff, Bool.not_eq_false']

theorem badView_some {h : Hub} {n : Fin 8} {v : Layout} {k : Nat} :
    badView h n v = some k ↔
      (∃ w, v[k]? = some w ∧ viewFits h n w = false) ∧ ∀ j < k, ∀ w, v[j]? = some w → viewFits h n w = true := by
  rw [badView, List.findIdx?_eq_some_iff_getElem]
  simp only [Bool.not_eq_true', Bool.not_eq_false, List.getElem?_eq_some_iff]
  constructor
  · rintro ⟨hk, bad, before⟩
    exact ⟨⟨v[k], ⟨hk, rfl⟩, bad⟩, fun j hj w ⟨_, e⟩ => e ▸ before j hj⟩
  · rintro ⟨⟨w, ⟨hk, rfl⟩, bad⟩, before⟩
    exact ⟨hk, bad, fun j hj => before j hj _ ⟨hj.trans hk, rfl⟩⟩

section
variable {h : Hub} {n : Fin 8} {expected : Option Half} {v : Layout}

theorem setLayout_stale {stamp : Half} (stale : stamp ≠ h.screens[n].stamp) :
    setLayout n (some stamp) v h = h.refuse .stale (byteOfFin n :: be16 h.screens[n].stamp) := by
  refine if_pos ?_
  simpa using stale

theorem setLayout_bad {k : Nat} (current : expected = none ∨ expected = some h.screens[n].stamp)
    (bad : badView h n v = some k) : setLayout n expected v h = h.refuse .badValue [0, byteOf k] := by
  unfold setLayout
  rw [bad]
  refine if_neg ?_
  rcases current with rfl | rfl <;> simp

theorem setLayout_done (current : expected = none ∨ expected = some h.screens[n].stamp)
    (good : badView h n v = none) : setLayout n expected v h =
      (h.modScreen n fun x => { x with pendingLayout := some v, pendingFlag := true, stamp := x.stamp + 1 }).done
        (byteOfFin n :: be16 (h.screens[n].stamp + 1)) := by
  unfold setLayout
  rw [good]
  refine if_neg ?_
  rcases current with rfl | rfl <;> simp

end

theorem badView_hunting (p : Port) (h : Hub) (n : Fin 8) (v : Layout) :
    badView (h.hunting p) n v = badView h n v := by
  unfold badView viewFits
  rw [hunting_screens, hunting_captures, hunting_plates]

/-- Settles O28, by the stamp and the views. -/
theorem layoutAndFill : Obligations.LayoutAndFill := by
  refine ⟨?_, fun h n z size => ⟨viewFits_iff size, fun v => ⟨badView_none, fun k => badView_some⟩⟩⟩
  rintro s p tag screen present stamp views fill n atOnce low rfl bound owner
  refine ⟨fun lp lists fits => ?_, ?_⟩
  · have inRange : (Request.layoutSet screen present stamp views).badField = none := by
      rw [layoutSet_badField, if_neg (Nat.not_lt.2 low), if_neg (Nat.not_lt.2 lp), fits]
    have sets {x : Answer} (answer : setLayout (screenOf screen) (presentOf present stamp) (layoutOf views)
        (s.hub.hunting p) = x) : perform p tag (.layoutSet screen present stamp views) (s.hub.hunting p) = x :=
      (asOwner_hunting bound owner _).trans answer
    rw [← badView_hunting p, ← hunting_screens p s.hub]
    refine ⟨fun isPresent stale => ?_, fun current => ?_⟩
    · subst isPresent
      exact request_refused (r := .layoutSet screen 1 stamp views) rfl atOnce lists inRange
        (sets (setLayout_stale stale))
    · have expected : presentOf present stamp = none ∨
          presentOf present stamp = some (s.hub.hunting p).screens[screenOf screen].stamp := by
        unfold presentOf
        split
        · next one => exact .inr (congrArg some (current.resolve_left (one ▸ by decide)))
        · exact .inl rfl
      refine ⟨fun k bad => ?_, fun good => ?_⟩
      · exact request_refused (r := .layoutSet screen present stamp views) rfl atOnce lists inRange
          (sets (setLayout_bad expected bad))
      · exact request_done (r := .layoutSet screen present stamp views) rfl atOnce lists inRange
          (sets (setLayout_done expected good))
  · exact request_done (r := .fillSet screen fill) rfl atOnce trivial (plainBad_low low) (asOwner_hunting bound owner _)

/-! ### The pace and the group (R47, R48) -/

theorem groupSet_inRange {a b c : Byte} (la : a.toNat ≤ 7) (lb : b.toNat ≤ 1) (lc : b = 1 → c.toNat ≤ 3) :
    (Request.groupSet a b c).badField = none := by
  rw [groupSet_badField, if_neg (Nat.not_lt.2 la), if_neg]
  rintro (high | ⟨one, high⟩)
  · exact Nat.not_lt.2 lb high
  · exact Nat.not_lt.2 (lc one) high

theorem setGroup_changed {h : Hub} {n : Fin 8} {g : Option (Fin 4)} (ne : g ≠ h.screens[n].group) :
    setGroup n g h = ((leaveRunning n h).modScreen n fun x => { x with group := g }).done
      (byteOfFin n :: optionalByte byteOfFin g) := by
  rw [setGroup, changeGroup, if_neg (Ne.symm ne)]

theorem setGroup_same {h : Hub} {n : Fin 8} {g : Option (Fin 4)} (same : g = h.screens[n].group) :
    setGroup n g h = h.done (byteOfFin n :: optionalByte byteOfFin g) := by
  rw [setGroup, changeGroup, if_pos same.symm]

/-- Settles O29, request by request. -/
theorem paceAndGroup : Obligations.PaceAndGroup := by
  refine ⟨fun h n => rfl, fun s p tag b pace atOnce lp => ⟨?_, fun low => ?_⟩⟩
  · rintro n low rfl bound owner
    refine ⟨?_, fun present group lpr lg g hg => ?_⟩
    · refine request_done (r := .paceSet 0 b pace) rfl atOnce trivial ?_ ?_
      · have target : ¬(if (0 : Byte) = 0 then 7 < b.toNat else 3 < b.toNat) := by
          rw [if_pos rfl]
          exact Nat.not_lt.2 low
        rw [paceSet_badField, if_neg (by decide), if_neg target, if_neg (Nat.not_lt.2 lp)]
      · rw [perform, if_pos rfl, asOwner_hunting bound owner]
        rfl
    · have inRange := groupSet_inRange low lpr lg
      have sets {x : Answer} (answer : setGroup (screenOf b) g (s.hub.hunting p) = x) :
          perform p tag (.groupSet b present group) (s.hub.hunting p) = x := by
        rw [← answer, hg]
        exact asOwner_hunting bound owner _
      rw [← hunting_screens p s.hub]
      refine ⟨fun ne => ?_, fun same => ?_⟩
      · exact request_done (r := .groupSet b present group) rfl atOnce trivial inRange (sets (setGroup_changed ne))
      · exact request_done (r := .groupSet b present group) rfl atOnce trivial inRange (sets (setGroup_same same))
  · refine request_done (r := .paceSet 1 b pace) rfl atOnce trivial ?_ ?_
    · have target : ¬(if (1 : Byte) = 0 then 7 < b.toNat else 3 < b.toNat) := by
        rw [if_neg (by decide)]
        exact Nat.not_lt.2 low
      rw [paceSet_badField, if_neg (by decide), if_neg target, if_neg (Nat.not_lt.2 lp)]
    · rw [perform, if_neg (by decide)]
      rfl

end Sys2Proof.Machine

/-! O27: SCREEN-UNBIND. -/

namespace Sys2Proof.Machine

/-! ### The screen's part of its link and its sources (R41) -/

/-- R41: what is done of the screen of a slot before the slot is free. -/
def vacate (n : Fin 8) (h : Hub) : Hub :=
  if h.screens[n].state = .joined then blankScreen n (abort n h) else abortAtLink n h

theorem unbindScreen_eq (n : Fin 8) (h : Hub) :
    unbindScreen n h = (unboundHub n (h.screens[n].identity.getD 0) (vacate n h)).done
      (byteOfFin n :: be16Of (freeEntries (unboundHub n (h.screens[n].identity.getD 0) (vacate n h)))) := rfl

theorem vacate_joined {n : Fin 8} {h : Hub} (joined : h.screens[n].state = .joined) :
    vacate n h = blankScreen n (abort n h) := if_pos joined

theorem vacate_out {n : Fin 8} {h : Hub} (out : h.screens[n].state ≠ .joined) : vacate n h = abortAtLink n h :=
  if_neg out

theorem blankScreen_groups (n : Fin 8) (h : Hub) : (blankScreen n h).groups = h.groups := by
  unfold blankScreen
  split <;> rfl

theorem blankScreen_sources (n : Fin 8) (h : Hub) :
    (blankScreen n h).slots = h.slots ∧ (blankScreen n h).plates = h.plates := by
  unfold blankScreen
  split <;> exact ⟨rfl, rfl⟩

theorem blankScreen_link (n : Fin 8) (h : Hub) (l : Fin 6) :
    (blankScreen n h).links[l] = { h.links[l] with control := (blankScreen n h).links[l].control } := by
  unfold blankScreen
  split
  · rw [handPacket, Hub.modLink_links, upd_get]
    split <;> rfl
  · rfl

theorem blankScreen_rows (n : Fin 8) (h : Hub) (l : Fin 6) : (blankScreen n h).links[l].rows = h.links[l].rows := by
  rw [blankScreen_link]

theorem blankScreen_control {n : Fin 8} {h : Hub} {l : Fin 6} {a : Fin 2} (address : addressOf h n = some (l, a)) :
    (blankScreen n h).links[l].control = h.links[l].control ++ [.blank a (h.screens[n].fill.getD default)] := by
  rw [blankScreen, address]
  dsimp only
  rw [handPacket, Hub.modLink_links, upd_get_same]

theorem abortAtLink_sources (n : Fin 8) (h : Hub) :
    (abortAtLink n h).slots = h.slots ∧ (abortAtLink n h).plates = h.plates ∧ (abortAtLink n h).buffers = h.buffers ∧
      (abortAtLink n h).groups = h.groups := by
  unfold abortAtLink
  split <;> exact ⟨rfl, rfl, rfl, rfl⟩

theorem abortAtLink_row {n : Fin 8} {h : Hub} {l : Fin 6} {a : Fin 2}
    (other : h.links[l].rows[a].assignment ≠ .screen n) : (abortAtLink n h).links[l].rows[a] = h.links[l].rows[a] := by
  by_cases here : ∃ b, addressOf h n = some (l, b)
  · obtain ⟨b, address⟩ := here
    have ne : b ≠ a := by
      rintro rfl
      exact other ((addressOf_iff h n l b).1 address).2.1
    rw [abortAtLink_link address]
    exact upd_get_other _ _ ne
  · rw [abortAtLink_other fun b address => here ⟨b, address⟩]

/-- R79: the screen's address stands at its abort. -/
theorem abort_address {n : Fin 8} {h : Hub} {l : Fin 6} {a : Fin 2} (address : addressOf h n = some (l, a)) :
    addressOf (abort n h) n = some (l, a) := by
  obtain ⟨link, row, first⟩ := (addressOf_iff h n l a).1 address
  have assignment (b : Fin 2) := (((abort_aborted n h).links l).2.1 b).1
  refine (addressOf_iff _ n l a).2 ⟨?_, (assignment a).trans row, fun b hb => ?_⟩
  · rw [abort_screen]
    exact link
  · rw [assignment b]
    exact first b hb

theorem vacate_rest (n : Fin 8) (h : Hub) : Rest h (vacate n h) := by
  rcases eq_or_ne h.screens[n].state .joined with joined | out
  · rw [vacate_joined joined]
    exact (abort_rest n h).trans (blankScreen_rest n _)
  · rw [vacate_out out]
    exact abortAtLink_rest n h

theorem vacate_engine (n : Fin 8) (h : Hub) :
    (vacate n h).screens[n].engine.paceCount = h.screens[n].engine.paceCount := by
  rcases eq_or_ne h.screens[n].state .joined with joined | out
  · rw [vacate_joined joined, blankScreen_screens, abort_screen]
    rfl
  · rw [vacate_out out, abortAtLink_screens]

theorem vacate_groups (n : Fin 8) (h : Hub) (g : Fin 4) :
    ({ (vacate n h).groups[g] with running := (vacate n h).groups[g].running.set n false } : Group) =
      { h.groups[g] with running := h.groups[g].running.set n false } := by
  rcases eq_or_ne h.screens[n].state .joined with joined | out
  · rw [vacate_joined joined, blankScreen_groups, abort_groups]
    simp
  · rw [vacate_out out]
    obtain ⟨-, -, -, groups⟩ := abortAtLink_sources n h
    rw [groups]

theorem vacate_link (n : Fin 8) (h : Hub) (l : Fin 6) : (vacate n h).links[l] =
    { h.links[l] with
      control := (vacate n h).links[l].control, line := (vacate n h).links[l].line, rows := (vacate n h).links[l].rows,
      tiles := (vacate n h).links[l].tiles, sentOrder := (vacate n h).links[l].sentOrder } := by
  rcases eq_or_ne h.screens[n].state .joined with joined | out
  · rw [vacate_joined joined]
    obtain ⟨aborted, -⟩ := (abort_aborted n h).links l
    rw [blankScreen_link, aborted]
  · rw [vacate_out out]
    exact ((abortAtLink_aborted n h).links l).1

theorem vacate_row {n : Fin 8} {h : Hub} {l : Fin 6} {a : Fin 2}
    (other : h.links[l].rows[a].assignment ≠ .screen n) : (vacate n h).links[l].rows[a] = h.links[l].rows[a] := by
  rcases eq_or_ne h.screens[n].state .joined with joined | out
  · rw [vacate_joined joined, blankScreen_link, (abort_atLink n h l).1, abortAtLink_row other]
  · rw [vacate_out out]
    exact abortAtLink_row other

theorem vacate_assignment (n : Fin 8) (h : Hub) (l : Fin 6) (a : Fin 2) :
    (vacate n h).links[l].rows[a].assignment = h.links[l].rows[a].assignment := by
  rcases eq_or_ne h.screens[n].state .joined with joined | out
  · rw [vacate_joined joined]
    exact (congrArg (·[a].assignment) (blankScreen_rows n _ l)).trans (((abort_aborted n h).links l).2.1 a).1
  · rw [vacate_out out]
    exact (((abortAtLink_aborted n h).links l).2.1 a).1

theorem vacate_voided {n : Fin 8} {h : Hub} (joined : h.screens[n].state = .joined) {b : Fin 32} {x : Lend}
    (lent : (vacate n h).buffers[b] = some x) (mine : x.screen = n) : x.voided = true := by
  rw [vacate_joined joined, blankScreen_buffers, abort_buffers] at lent
  by_contra voided
  obtain ⟨-, ne⟩ := voidedLend_some lent (Bool.eq_false_iff.2 voided)
  exact ne mine

/-! ### The slot is free -/

theorem unboundHub_rest (n : Fin 8) (identity : Identity) (h : Hub) : Rest h (unboundHub n identity h) := rfl

theorem unboundHub_row (n : Fin 8) (identity : Identity) (h : Hub) (l : Fin 6) (a : Fin 2) :
    (unboundHub n identity h).links[l].rows[a] = h.links[l].rows[a].disown n identity := by
  rw [unboundHub_link]
  simp

theorem unboundHub_groups (n : Fin 8) (identity : Identity) (h : Hub) (g : Fin 4) :
    (unboundHub n identity h).groups[g] = { h.groups[g] with running := h.groups[g].running.set n false } := by
  simp [unboundHub, leaveRunning]

theorem disown_mine {n : Fin 8} {identity : Identity} {r : AddressRow} (mine : r.assignment = .screen n) :
    (r.disown n identity).assignment = .stranger identity := by
  rw [AddressRow.disown, if_pos mine]

theorem disown_other {n : Fin 8} {identity : Identity} {r : AddressRow} (other : r.assignment ≠ .screen n) :
    r.disown n identity = r := if_neg other

@[simp] theorem hunting_links (p : Port) (h : Hub) : (h.hunting p).links = h.links := Hub.modPort_links h p _
@[simp] theorem hunting_groups (p : Port) (h : Hub) : (h.hunting p).groups = h.groups := Hub.modPort_groups h p _
@[simp] theorem hunting_slots (p : Port) (h : Hub) : (h.hunting p).slots = h.slots := Hub.modPort_slots h p _
@[simp] theorem hunting_buffers (p : Port) (h : Hub) : (h.hunting p).buffers = h.buffers := Hub.modPort_buffers h p _

theorem addressOf_hunting (p : Port) (h : Hub) (n : Fin 8) : addressOf (h.hunting p) n = addressOf h n := by
  unfold addressOf
  rw [hunting_screens, hunting_links]

/-- Settles O27, part by part of what `vacate` and then `unboundHub` leave. -/
theorem screenUnbind : Obligations.ScreenUnbind := by
  rintro s p tag screen _ atOnce low rfl bound owner
  obtain ⟨slots, plates⟩ := leaveSources_slots (screenOf screen) (hunting_slots p s.hub) (hunting_plates p s.hub)
  rw [← slots, ← plates, ← addressOf_hunting p, ← hunting_links p s.hub, ← hunting_groups p s.hub,
    ← hunting_slots p s.hub, ← hunting_plates p s.hub, ← hunting_buffers p s.hub, ← hunting_screens p s.hub]
  refine ⟨_, request_done (r := .screenUnbind screen) rfl atOnce trivial (plainBad_low low)
    ((asOwner_hunting bound owner _).trans (unbindScreen_eq _ _)), ?_⟩
  generalize s.hub.hunting p = h, screenOf screen = n
  refine ⟨?_, fun g => ?_, fun l a row => ?_, fun joined => ⟨fun b x lent mine => vacate_voided joined lent mine,
    fun l a address => ⟨(abort n h).links[l].control, ?_⟩⟩, (vacate_rest n h).trans (unboundHub_rest n _ _), fun g => ?_,
    fun l => ?_, fun l a other => ?_, fun joined => ?_, fun out => ?_, fun m ne => ?_⟩
  · rw [unboundHub_screens, upd_get_same, Screen.unbound, vacate_engine]
    rfl
  · rw [unboundHub_groups]
    simp
  · rw [unboundHub_row, disown_mine ((vacate_assignment n h l a).trans row)]
  · rw [unboundHub_link, vacate_joined joined, blankScreen_control (abort_address address), abort_screen]
    rfl
  · rw [unboundHub_groups, vacate_groups]
  · rw [unboundHub_link, vacate_link]
  · rw [unboundHub_row, disown_other (by rwa [vacate_assignment]), vacate_row other]
  · obtain ⟨slots, plates⟩ := abort_sources n h
    obtain ⟨blankSlots, blankPlates⟩ := blankScreen_sources n (abort n h)
    rw [← slots, ← plates, ← blankSlots, ← blankPlates, ← vacate_joined joined]
    exact ⟨rfl, rfl⟩
  · obtain ⟨slots, plates, buffers, -⟩ := abortAtLink_sources n h
    rw [← slots, ← plates, ← buffers, ← vacate_out out]
    exact ⟨rfl, rfl, rfl⟩
  · rw [unboundHub_screens, upd_get_other _ _ ne.symm]
    exact (freed_of_unbind n h).others m ne

end Sys2Proof.Machine

/-! O32 to O34: SEIZE, RETURN, and the refusals of the requests about a screen. -/

namespace Sys2Proof.Machine

/-! ### The checks that refuse (R136, R137) -/

section
variable {h : Hub} {p : Port} {n : Fin 8} {f : Hub → Answer}

theorem onBound_unbound (unbound : h.screens[n].bound = false) :
    onBound n f h = h.refuse .wrongState [byteOfFin n, h.screens[n].state.code] := if_neg (Bool.eq_false_iff.1 unbound)

theorem asOwner_unbound (unbound : h.screens[n].bound = false) :
    asOwner p n f h = h.refuse .wrongState [byteOfFin n, h.screens[n].state.code] := onBound_unbound unbound

theorem asOwner_other (bound : h.screens[n].bound = true) (other : h.screens[n].owner ≠ some p) :
    asOwner p n f h = h.refuse .notOwner [portCode h.screens[n].owner, flag h.screens[n].seize.isSome] :=
  (onBound_bound bound _).trans (if_neg other)

theorem fromB_unbound (unbound : h.screens[n].bound = false) :
    fromB p n f h = h.refuse .wrongState [byteOfFin n, h.screens[n].state.code] := onBound_unbound unbound

theorem fromB_a (bound : h.screens[n].bound = true) :
    fromB .a n f h = h.refuse .notOwner [portCode h.screens[n].owner, flag h.screens[n].seize.isSome] :=
  (onBound_bound bound _).trans (if_neg (by decide))

theorem fromB_b (bound : h.screens[n].bound = true) : fromB .b n f h = f h :=
  (onBound_bound bound _).trans (if_pos rfl)

end

/-- R136: the requests that only the owner may send. -/
theorem perform_asOwner {screen : Byte} {r : Request}
    (owners : r = .screenUnbind screen ∨ (∃ fill, r = .fillSet screen fill) ∨ (∃ b c v, r = .layoutSet screen b c v) ∨
      (∃ b c, r = .groupSet screen b c) ∨ (∃ v, r = .paceSet 0 screen v) ∨ r = .yieldScreen screen ∨
      ∃ m t u i k, r = .levelSet screen m t u i k) (p : Port) (tag : Byte) (h : Hub) :
    ∃ f, perform p tag r h = asOwner p (screenOf screen) f h := by
  rcases owners with rfl | ⟨_, rfl⟩ | ⟨_, _, _, rfl⟩ | ⟨_, _, rfl⟩ | ⟨_, rfl⟩ | rfl | ⟨_, _, _, _, _, rfl⟩
  · exact ⟨_, rfl⟩
  · exact ⟨_, rfl⟩
  · exact ⟨_, rfl⟩
  · exact ⟨_, rfl⟩
  · exact ⟨_, by rw [perform, if_pos rfl]⟩
  · exact ⟨_, rfl⟩
  · exact ⟨_, rfl⟩

/-- R137: the requests that only port B may send. -/
theorem perform_fromB {screen : Byte} {r : Request} (host : (∃ v, r = .seize screen v) ∨ r = .returnScreen screen)
    (p : Port) (tag : Byte) (h : Hub) : ∃ f, perform p tag r h = fromB p (screenOf screen) f h := by
  rcases host with ⟨_, rfl⟩ | rfl
  · exact ⟨_, rfl⟩
  · exact ⟨_, rfl⟩

/-- Settles O34, through the checks each request begins with. -/
theorem screenRefusals : Obligations.ScreenRefusals := by
  rintro h p tag screen _ r rfl
  refine ⟨fun owners unbound => ?_, fun owners bound other => ?_, fun host => ⟨fun unbound => ?_, fun bound onA => ?_⟩,
    fun claims unbound => ?_⟩
  · obtain ⟨f, performed⟩ := perform_asOwner owners p tag h
    exact performed.trans (asOwner_unbound unbound)
  · obtain ⟨f, performed⟩ := perform_asOwner owners p tag h
    exact performed.trans (asOwner_other bound other)
  · obtain ⟨f, performed⟩ := perform_fromB host p tag h
    exact performed.trans (fromB_unbound unbound)
  · subst onA
    obtain ⟨f, performed⟩ := perform_fromB host .a tag h
    exact performed.trans (fromB_a bound)
  · subst claims
    exact onBound_unbound unbound

/-! ### RETURN (R142) -/

section
variable {h : Hub} {n : Fin 8}

theorem returnOwner_unseized (unseized : h.screens[n].seize = none) :
    returnOwner n h = h.refuse .wrongState [byteOfFin n, h.screens[n].state.code] := by
  rw [returnOwner, unseized]

theorem Screen.returned_eq (r : SeizeRecord) (x : Screen) :
    x.returned r =
      { x with
        owner := r.owner, pendingLayout := some r.layout, pendingFlag := true, stamp := x.stamp + 1, group := r.group,
        pace := r.pace, seize := none
        engine :=
          { x.engine with
            paceCount := if x.engine.paceCount = x.pace then r.pace else min x.engine.paceCount r.pace } } := by
  simp only [Screen.returned, Screen.setPending, returnedCount, paceOpen, beq_iff_eq]

theorem returnOwner_seized {r : SeizeRecord} (seized : h.screens[n].seize = some r) :
    returnOwner n h =
      (notify (ownerOrBoth r.owner) .returned
        ([byteOfFin n] ++ be16 (h.screens[n].stamp + 1) ++ [portCode r.owner] ++ optionalByte byteOfFin r.group)
        ((leaveRunning n h).modScreen n fun x =>
          { x with
            owner := r.owner, pendingLayout := some r.layout, pendingFlag := true, stamp := x.stamp + 1,
            group := r.group, pace := r.pace, seize := none
            engine :=
              { x.engine with
                paceCount := if x.engine.paceCount = x.pace then r.pace else min x.engine.paceCount r.pace } })).done
        ([byteOfFin n] ++ be16 (h.screens[n].stamp + 1) ++ [portCode r.owner]) := by
  rw [returnOwner, seized]
  dsimp only
  have ports : screenPorts ((leaveRunning n h).modScreen n (Screen.returned r)) n = ownerOrBoth r.owner := by
    rw [screenPorts, Hub.modScreen_screens, upd_get_same]
    rfl
  rw [ports, funext (Screen.returned_eq r)]

end

/-- Settles O33, by whether the screen has a seize record. -/
theorem return_holds : Obligations.Return := by
  rintro s tag screen _ atOnce low rfl bound
  rw [← hunting_screens .b s.hub] at bound ⊢
  refine ⟨fun unseized => ?_, fun r seized => ?_⟩
  · exact request_refused (r := .returnScreen screen) rfl atOnce trivial (plainBad_low low)
      ((fromB_b bound).trans (returnOwner_unseized unseized))
  · exact request_done (r := .returnScreen screen) rfl atOnce trivial (plainBad_low low)
      ((fromB_b bound).trans (returnOwner_seized seized))

/-! ### SEIZE (R140, R77) -/

theorem cut_eq (n : Fin 8) (h : Hub) :
    cut n h = (leaveSources n h).modScreen n fun y =>
      { y with
        entries := y.entries.map fun e => { e with target := none }
        engine := { y.engine with cycle := some .cutting } } := by
  simp only [cut, setCycle, dropTargets, modEntries, Hub.modEngine, Hub.modScreen, upd_upd]

theorem seizeCycle_same {n : Fin 8} {h : Hub}
    (at' : h.screens[n].engine.cycle = none ∨ h.screens[n].engine.cycle = some .cutting) : seizeCycle n h = h := by
  rcases at' with e | e <;> rw [seizeCycle, e]

theorem seizeCycle_start {n : Fin 8} {h : Hub}
    (at' : h.screens[n].engine.cycle = some .idle ∨ h.screens[n].engine.cycle = some .ready) :
    seizeCycle n h = startCycle n h := by
  rcases at' with e | e <;> rw [seizeCycle, e]

theorem seizeCycle_cut {n : Fin 8} {h : Hub} (at' : h.screens[n].engine.cycle = some .gathering) :
    seizeCycle n h = cut n h := by
  rw [seizeCycle, at']

theorem seizeCycle_prompt {n : Fin 8} {h : Hub} (at' : h.screens[n].engine.cycle = some .presenting) :
    seizeCycle n h = h.modEngine n fun e => { e with promptStart := true } := by
  rw [seizeCycle, at']

/-- R140: the slot and the running sets of a seized screen. -/
def seizedHub (n : Fin 8) (l : Layout) (r : SeizeRecord) (h : Hub) : Hub :=
  leaveRunning n (h.modScreen n fun y =>
    { y with
      pendingLayout := some l, pendingFlag := true, stamp := y.stamp + 1, seize := some r, owner := some .b,
      group := none })

theorem seizedHub_engine (n : Fin 8) (l : Layout) (r : SeizeRecord) (h : Hub) :
    (seizedHub n l r h).screens[n].engine = h.screens[n].engine := by
  rw [seizedHub, leaveRunning_screens, Hub.modScreen_screens, upd_get_same]

theorem seizeScreen_eq {n : Fin 8} {l : Layout} {h : Hub} {r : SeizeRecord} (fits : badView h n l = none)
    (record : r = h.screens[n].seizeRecord) :
    seizeScreen n l h =
      (if h.screens[n].seize.isNone ∧ h.screens[n].owner = some .a then
        notify [.a] .seized ([byteOfFin n] ++ be16 (h.screens[n].stamp + 1) ++
          optionalByte byteOfFin h.screens[n].group) (seizeCycle n (seizedHub n l r h))
      else seizeCycle n (seizedHub n l r h)).done
        ([byteOfFin n] ++ be16 (h.screens[n].stamp + 1) ++ [portCode r.owner]) := by
  have seized : leaveRunning n (h.modScreen n (Screen.seized l)) = seizedHub n l r h :=
    congrArg (fun v => leaveRunning n { h with screens := v }) (upd_congr (by rw [record]; rfl))
  rw [seizeScreen, fits]
  dsimp only
  rw [seized, record]

/-- Settles O32, by the cycle of the present engine. -/
theorem seize : Obligations.Seize := by
  refine ⟨?_, fun h n => cut_eq n h⟩
  rintro s tag screen views _ _ r atOnce low lists good rfl rfl bound fits record
  have inRange : (Request.seize screen views).badField = none := by
    rw [seize_badField, if_neg (Nat.not_lt.2 low), good]
  rw [← badView_hunting .b] at fits
  rw [← hunting_screens .b s.hub] at bound record ⊢
  refine ⟨seizeCycle (screenOf screen) (seizedHub (screenOf screen) (layoutOf views) r (s.hub.hunting .b)), ?_, _, rfl,
    ?_⟩
  · exact request_done (r := .seize screen views) rfl atOnce lists inRange
      ((fromB_b bound).trans (seizeScreen_eq fits record))
  · rw [← seizedHub_engine (screenOf screen) (layoutOf views) r]
    exact ⟨seizeCycle_same, seizeCycle_start, seizeCycle_cut, seizeCycle_prompt⟩

end Sys2Proof.Machine

/-! O35: the starts of cycles. -/

namespace Sys2Proof.Machine

theorem activeMembers_eq (h : Hub) (g : Fin 4) :
    activeMembers h g = allScreens.filter fun n =>
      decide (h.screens[n].group = some g ∧ h.screens[n].state = .joined) := by
  refine List.filter_congr fun n _ => ?_
  rw [Bool.eq_iff_iff, isActive, isMember, Bool.and_eq_true, beq_iff_eq, beq_iff_eq, decide_eq_true_iff]

theorem paceGate_starts {h : Hub} {n : Fin 8} (may : mayStart h n = true) : paceOpen h.screens[n] = true := by
  obtain ⟨-, -, -, pace, -⟩ := (mayStart_iff h n rfl).1 may
  exact beq_iff_eq.2 pace

theorem groupPaceGate_starts {h : Hub} {g : Fin 4} (may : mayJointStart h g = true) :
    groupPaceOpen h.groups[g] = true := by
  obtain ⟨-, -, -, pace, -⟩ := (mayJointStart_iff h g rfl).1 may
  exact beq_iff_eq.2 pace

section
variable {s : State} {n : Fin 8} {g : Fin 4} {h : Hub}

theorem cycleStart_completes (may : mayStart s.hub n = true) :
    Completes (.cycleStart n) s (startCycle n s.hub) ∧ Completes (.paceGateOpens n) s (startCycle n s.hub) := by
  have starts : startScreen s.hub n = startCycle n s.hub := if_pos may
  exact ⟨complete_completes (f := fun h => startScreen h n) rfl starts,
    complete_completes (f := fun h => if paceOpen h.screens[n] then startScreen h n else h) rfl
      ((if_pos (paceGate_starts may)).trans starts)⟩

theorem cycleStart_waits (mayNot : ¬mayStart s.hub n = true) :
    Completes (.cycleStart n) s s.hub ∧ Completes (.paceGateOpens n) s s.hub := by
  have waits : startScreen s.hub n = s.hub := if_neg mayNot
  exact ⟨complete_completes (f := fun h => startScreen h n) rfl waits,
    complete_completes (f := fun h => if paceOpen h.screens[n] then startScreen h n else h) rfl (by simp [waits])⟩

theorem jointStart_completes (may : mayJointStart s.hub g = true) :
    Completes (.jointStart g) s (jointly g s.hub) ∧ Completes (.groupPaceGateOpens g) s (jointly g s.hub) := by
  have starts : startGroup s.hub g = jointly g s.hub := if_pos may
  exact ⟨complete_completes (f := fun h => startGroup h g) rfl starts,
    complete_completes (f := fun h => if groupPaceOpen h.groups[g] then startGroup h g else h) rfl
      ((if_pos (groupPaceGate_starts may)).trans starts)⟩

theorem jointStart_waits (mayNot : ¬mayJointStart s.hub g = true) :
    Completes (.jointStart g) s s.hub ∧ Completes (.groupPaceGateOpens g) s s.hub := by
  have waits : startGroup s.hub g = s.hub := if_neg mayNot
  exact ⟨complete_completes (f := fun h => startGroup h g) rfl waits,
    complete_completes (f := fun h => if groupPaceOpen h.groups[g] then startGroup h g else h) rfl (by simp [waits])⟩

end

/-- Settles O35, through the conditions of the two starts. -/
theorem cyclesStart : Obligations.CyclesStart := by
  refine ⟨fun h n x hx => hasTrigger_iff h n hx, newestSlot_first, activeMembers_eq, fun s n x hx => ?_,
    fun s g active ha => ?_⟩
  · rw [← mayStart_iff s.hub n hx]
    exact ⟨cycleStart_completes, cycleStart_waits⟩
  · rw [← mayJointStart_iff s.hub g ha]
    refine ⟨fun may => ⟨_, _, rfl, rfl, ?_⟩, jointStart_waits⟩
    subst ha
    exact jointStart_completes may

end Sys2Proof.Machine

/-! O36: what the start of a cycle does (R50, R67 to R69). -/

namespace Sys2Proof.Machine

/-! ### The target of an entry (R50) -/

theorem View.covers_iff {v : View} {column row : Nat} : v.covers column row = true ↔
    (v.placeColumn ≤ column ∧ column < v.placeColumn + v.columns) ∧ v.placeRow ≤ row ∧ row < v.placeRow + v.rows := by
  simp only [View.covers, Bool.and_eq_true, decide_eq_true_eq, and_assoc]

section
variable {h : Hub} {x : Screen} {column row : Nat}

theorem surfaceTarget_none {i : Fin 2} (none : newestSlot h i = none) :
    surfaceTarget h x i column row = backgroundTarget x := by
  rw [surfaceTarget, none]

theorem surfaceTarget_some {i : Fin 2} {k : Fin 3} {w : Size} {g : Signature} (newest : newestSlot h i = some k)
    (size : h.captures[i].size = some w) (signed : h.slots[i][k].signatures[row * w.columns + column]? = some (some g)) :
    surfaceTarget h x i column row = { source := .surface i k (row * w.columns + column), signature := g } := by
  rw [surfaceTarget, newest, size]
  dsimp only
  rw [signed]

theorem plateTarget_none {p : Fin 16}
    (out : h.plates[p].live = none ∨ ∀ w, h.plates[p].size = some w → ¬(column < w.columns ∧ row < w.rows)) :
    plateTarget h x p column row = backgroundTarget x := by
  rw [plateTarget]
  rcases live : h.plates[p].live with _ | c
  · rfl
  · rcases size : h.plates[p].size with _ | w
    · rfl
    · rcases out with e | outside
      · cases live.symm.trans e
      · exact if_neg (outside w size)

theorem plateTarget_some {p : Fin 16} {c : Fin 2} {w : Size} {g : Signature} (live : h.plates[p].live = some c)
    (size : h.plates[p].size = some w) (columns : column < w.columns) (rows : row < w.rows)
    (signed : h.plates[p].copies[c].signatures[row * w.columns + column]? = some (some g)) :
    plateTarget h x p column row = { source := .plate p c (row * w.columns + column), signature := g } := by
  rw [plateTarget, live, size]
  dsimp only
  rw [if_pos ⟨columns, rows⟩, signed]

end

/-! ### The walk of a cycle start (R67, R68) -/

/-- R68: the sources joined, the targets set and the sources recorded. -/
def walkSources (n : Fin 8) (h : Hub) : Hub := recordSources n (setTargets n (joinSources n h))

/-- R68: the entries of a screen `x` after its walk. -/
def walkedEntries (h : Hub) (x : Screen) : List Entry := x.entries.mapIdx fun t e => walkEntry (targetOf h x t) e

theorem walkSources_screen (n : Fin 8) (h : Hub) :
    (walkSources n h).screens[n] =
      { h.screens[n] with
        entries := walkedEntries h h.screens[n]
        lastFrames := framesOf h h.screens[n].layout
        lastVersions := versionsOf h h.screens[n].layout
        engine :=
          { h.screens[n].engine with
            joinedSurfaces := (joinSources n h).screens[n].engine.joinedSurfaces
            joinedPlates := (joinSources n h).screens[n].engine.joinedPlates } } := by
  have joined := joinSources_joined n h
  have steps : (walkSources n h).screens[n] =
      { (joinSources n h).screens[n] with
        entries := walkedEntries (joinSources n h) (joinSources n h).screens[n]
        lastFrames := framesOf (joinSources n h) (joinSources n h).screens[n].layout
        lastVersions := versionsOf (joinSources n h) (joinSources n h).screens[n].layout } := by
    simp only [walkSources, recordSources, setTargets, Hub.modScreen_screens, upd_get_same]
    rfl
  rw [steps, joinSources_screen n h]
  simp only [walkedEntries, joined.targetOf_eq, joined.framesOf_eq, joined.versionsOf_eq]

theorem walkSources_sources (n : Fin 8) (h : Hub) :
    (walkSources n h).slots = (joinSources n h).slots ∧ (walkSources n h).plates = (joinSources n h).plates := by
  unfold walkSources
  generalize joinSources n h = k
  exact ⟨rfl, rfl⟩

/-- R67: the slot of a screen whose cycle starts, in terms of the slot `z` that was handed over. -/
def Screen.begun (z : Screen) (h : Hub) (entries : List Entry) (c : CycleState) (surfaces : Vector Bool 2)
    (plates : Vector Bool 16) : Screen :=
  { z with
    entries := entries, lastFrames := framesOf h z.layout, lastVersions := versionsOf h z.layout
    engine :=
      { z.engine with
        cycle := some c, paceCount := 0, promptStart := false, lossWait := false, showCount := 0, showTimer := none,
        joinedSurfaces := surfaces, joinedPlates := plates } }

/-- R49: the entries without targets. -/
def untargeted (entries : List Entry) : List Entry := entries.map fun e => { e with target := none }

/-- R67, R69: the outcome `k` of a cycle start from `h`, the slot handed over: to Gathering where the walk leaves an
entry Behind, and else to Idle. -/
inductive CycleStarted (n : Fin 8) (h k : Hub) : Prop
  | gathers (behind : ∃ e ∈ walkedEntries h h.screens[n], e.state = .behind)
    (screen : k.screens[n] = h.screens[n].begun h (walkedEntries h h.screens[n]) .gathering
      (joinSources n h).screens[n].engine.joinedSurfaces (joinSources n h).screens[n].engine.joinedPlates)
    (slots : k.slots = (joinSources n h).slots) (plates : k.plates = (joinSources n h).plates)
  | rests (held : ∀ e ∈ walkedEntries h h.screens[n], e.state ≠ .behind)
    (screen : k.screens[n] = h.screens[n].begun h (untargeted (walkedEntries h h.screens[n])) .idle
      (Vector.replicate 2 false) (Vector.replicate 16 false))
    (slots : k.slots = (leaveSources n (joinSources n h)).slots)
    (plates : k.plates = (leaveSources n (joinSources n h)).plates)

theorem startCycle_eq (n : Fin 8) (h : Hub) : ∃ w, w = walkSources n (h.modScreen n Screen.handOver) ∧
    startCycle n h =
      if hasEntry (w.modEngine n Engine.started).screens[n] .behind then
        setCycle n .gathering (w.modEngine n Engine.started)
      else setCycle n .idle (dropTargets n (leaveSources n (w.modEngine n Engine.started))) := ⟨_, rfl, rfl⟩

theorem startCycle_started (n : Fin 8) (h : Hub) :
    CycleStarted n (h.modScreen n Screen.handOver) (startCycle n h) := by
  obtain ⟨w, hw, start⟩ := startCycle_eq n h
  rw [start]
  generalize h.modScreen n Screen.handOver = g at hw
  have walked : w.screens[n] = _ := hw ▸ walkSources_screen n g
  have slots : w.slots = (joinSources n g).slots := hw ▸ (walkSources_sources n g).1
  have plates : w.plates = (joinSources n g).plates := hw ▸ (walkSources_sources n g).2
  have entries : (w.modEngine n Engine.started).screens[n].entries = walkedEntries g g.screens[n] := by
    rw [Hub.modEngine_screens, upd_get_same, walked]
  split
  · next behind =>
    rw [hasEntry, entries, List.any_eq_true] at behind
    obtain ⟨e, he, st⟩ := behind
    refine .gathers ⟨e, he, beq_iff_eq.1 st⟩ ?_ slots plates
    rw [setCycle, Hub.modEngine_screens, upd_get_same, Hub.modEngine_screens, upd_get_same, walked]
    rfl
  · next held =>
    rw [Bool.not_eq_true, hasEntry_eq_false, entries] at held
    obtain ⟨leftSlots, leftPlates⟩ := leaveSources_slots n (k := w.modEngine n Engine.started) slots plates
    refine .rests held ?_ leftSlots leftPlates
    simp only [setCycle, dropTargets, modEntries, leaveSources, Hub.modEngine_screens, Hub.modScreen_screens,
      upd_get_same, walked]
    rfl

theorem startCycle_others (n : Fin 8) (h : Hub) {m : Fin 8} (ne : m ≠ n) :
    (startCycle n h).screens[m] = h.screens[m] := by
  obtain ⟨k, walked, start⟩ := startCycle_walked n h
  rw [start, ← walked.others m ne]
  split
  · exact upd_get_other _ _ ne.symm
  · simp only [setCycle, dropTargets, modEntries, leaveSources, Hub.modEngine_screens, Hub.modScreen_screens,
      upd_get_other _ _ ne.symm]

theorem leaveSources_cycleFrame (n : Fin 8) (h : Hub) : Hub.CycleFrame h (leaveSources n h) := by
  unfold leaveSources
  rfl

theorem startCycle_frame (n : Fin 8) (h : Hub) : Hub.CycleFrame h (startCycle n h) := by
  obtain ⟨w, hw, start⟩ := startCycle_eq n h
  have walked : Hub.CycleFrame h w := by
    rw [hw]
    exact (Hub.CycleFrame.modScreen h n _).trans ((joinSources_frame n _).rest.trans
      ((Hub.CycleFrame.modScreen _ n _).trans (Hub.CycleFrame.modScreen _ n _)))
  have begun := walked.trans (Hub.CycleFrame.modScreen w n fun x => { x with engine := x.engine.started })
  rw [start]
  split
  · exact begun.trans (Hub.CycleFrame.modScreen _ n _)
  · exact begun.trans ((leaveSources_cycleFrame n _).trans
      ((Hub.CycleFrame.modScreen _ n _).trans (Hub.CycleFrame.modScreen _ n _)))

theorem vector_ext {α : Type} {m : Nat} {v w : Vector α m} (same : ∀ i : Fin m, v[i] = w[i]) : v = w :=
  Vector.ext fun i hi => same ⟨i, hi⟩

/-- R69: a screen that leaves the sources that it joined leaves them as it found them. -/
theorem leave_joinSources (n : Fin 8) {h : Hub} (law : plateLaw h) :
    (leaveSources n (joinSources n h)).slots = (leaveSources n h).slots ∧
      (leaveSources n (joinSources n h)).plates = (leaveSources n h).plates := by
  obtain ⟨slots, plates, copies, -⟩ := joinSources_readers n h _ rfl
  refine ⟨vector_ext fun i => vector_ext fun j => ?_, vector_ext fun p => ?_⟩
  · rw [leaveSources_slot, leaveSources_slot, slots]
    split
    · next joined => exact Slot.leave_join n ((newestSlot_first h i).1 j |>.1 joined.2).1
    · rfl
  · rw [leaveSources_plate, leaveSources_plate, plates]
    refine congrArg (fun v => ({ h.plates[p] with copies := v } : Plate)) (vector_ext fun c => ?_)
    have left (v : Vector PlateCopy 2) : (v.map (PlateCopy.leave n))[c] = v[c].leave n := Vector.getElem_map ..
    refine (left _).trans (Eq.trans ?_ (left _).symm)
    change (joinSources n h).plates[p].copies[c].leave n = _
    rw [copies]
    split
    · next joined => exact PlateCopy.leave_join n ((law p c _ rfl).2.2 joined.2)
    · rfl

/-! ### A screen that leaves its sources (R15, R31) -/

theorem isEmpty_set_false (s : ScreenSet) (n : Fin 8) :
    (ScreenSet.isEmpty (s.set n false)) = true ↔ ∀ m : Fin 8, m ≠ n → s[m] = false := by
  have at' (m : Fin 8) : (s.set n false)[m] = if m = n then false else s[m] := by
    simp [Vector.getElem_set, Fin.ext_iff, eq_comm]
  rw [ScreenSet.isEmpty_eq_true]
  refine forall_congr' fun m => ?_
  rw [at']
  split
  · next same => exact iff_of_true rfl fun ne => absurd same ne
  · next ne => exact ⟨fun e _ => e, fun e => e ne⟩

theorem Slot.leave_eq (n : Fin 8) (x : Slot) : x.leave n =
    if x.readers[n] = true then
      if x.state = .held ∧ (∀ m : Fin 8, m ≠ n → x.readers[m] = false) then Slot.free
      else { x with readers := x.readers.set n false }
    else x := by
  simp only [Slot.leave, isEmpty_set_false]

theorem PlateCopy.leave_eq (n : Fin 8) (x : PlateCopy) : x.leave n =
    if x.readers[n] = true then
      if x.state = .retired ∧ (∀ m : Fin 8, m ≠ n → x.readers[m] = false) then PlateCopy.empty
      else { x with readers := x.readers.set n false }
    else x := by
  simp only [PlateCopy.leave, isEmpty_set_false]

theorem leaveSources_eq (n : Fin 8) (h : Hub) : leaveSources n h =
    { h with
      slots := h.slots.map fun (v : Vector Slot 3) => v.map fun (x : Slot) =>
        if x.readers[n] = true then
          if x.state = .held ∧ (∀ m : Fin 8, m ≠ n → x.readers[m] = false) then Slot.free
          else { x with readers := x.readers.set n false }
        else x
      plates := h.plates.map fun (y : Plate) => { y with copies := y.copies.map fun (x : PlateCopy) =>
        if x.readers[n] = true then
          if x.state = .retired ∧ (∀ m : Fin 8, m ≠ n → x.readers[m] = false) then PlateCopy.empty
          else { x with readers := x.readers.set n false }
        else x }
      screens := upd h.screens n fun x =>
        { x with engine := { x.engine with
          joinedSurfaces := Vector.replicate 2 false, joinedPlates := Vector.replicate 16 false } } } := by
  rw [leaveSources, funext (Slot.leave_eq n), funext (PlateCopy.leave_eq n)]
  rfl

/-! ### The statement -/

/-- R68: an entry after the walk. -/
theorem walkedEntries_at {h : Hub} {x : Screen} {t : Nat} {e : Entry} (entry : x.entries[t]? = some e) :
    (walkedEntries h x)[t]? = some (walkEntry (targetOf h x t) e) := by
  rw [walkedEntries, List.getElem?_mapIdx, entry, Option.map_some]

theorem walkEntry_eq (g : Target) (e : Entry) :
    walkEntry g e = { state := if e.held = some g.signature then .held else .behind, held := e.held, target := some g } := by
  rw [walkEntry]
  split <;> rfl

theorem untargeted_behind {entries : List Entry} :
    (∀ e ∈ untargeted entries, e.state ≠ .behind) ↔ ∀ e ∈ entries, e.state ≠ .behind := by
  rw [untargeted, List.forall_mem_map]

section
variable {n : Fin 8} {h k : Hub}

theorem CycleStarted.slot (started : CycleStarted n h k) : ∃ es c surfaces plates,
    k.screens[n] = h.screens[n].begun h es c surfaces plates ∧ es.length = h.screens[n].entries.length ∧
      (∀ t e g, h.screens[n].entries[t]? = some e → g = targetOf h h.screens[n] t →
        ∃ e', es[t]? = some e' ∧ e'.held = e.held ∧
          e'.state = (if e.held = some g.signature then .held else .behind) ∧
          e'.target = if some c = some .gathering then some g else none) ∧
      (some c = some .gathering ↔ ∃ e ∈ es, e.state = .behind) ∧
      (some c = some .idle ↔ ∀ e ∈ es, e.state ≠ .behind) := by
  cases started with
  | gathers behind screen =>
    refine ⟨_, _, _, _, screen, List.length_mapIdx, fun t e g entry hg => ?_, iff_of_true rfl behind,
      iff_of_false nofun fun held => ?_⟩
    · exact ⟨_, walkedEntries_at entry, by rw [walkEntry_eq], by rw [walkEntry_eq, hg], by rw [walkEntry_eq, hg, if_pos rfl]⟩
    · obtain ⟨e, he, st⟩ := behind
      exact held e he st
  | rests held screen =>
    refine ⟨_, _, _, _, screen, (List.length_map _).trans List.length_mapIdx, fun t e g entry hg => ?_,
      iff_of_false nofun fun behind => ?_, iff_of_true rfl (untargeted_behind.2 held)⟩
    · exact ⟨_, by rw [untargeted, List.getElem?_map, walkedEntries_at entry, Option.map_some], by rw [walkEntry_eq],
        by rw [walkEntry_eq, hg], rfl⟩
    · obtain ⟨e, he, st⟩ := behind
      exact untargeted_behind.2 held e he st

theorem CycleStarted.plate (started : CycleStarted n h k) (p : Fin 16) :
    k.plates[p] = { h.plates[p] with copies := k.plates[p].copies } := by
  obtain ⟨-, joined, -⟩ := joinSources_readers n h _ rfl
  cases started with
  | gathers _ _ _ plates => rw [plates, joined]
  | rests _ _ _ plates => rw [plates, leaveSources_plate, joined]

theorem CycleStarted.gathering (started : CycleStarted n h k) (gathers : k.screens[n].engine.cycle = some .gathering) :
    k.slots = (joinSources n h).slots ∧ k.plates = (joinSources n h).plates ∧
      k.screens[n].engine.joinedSurfaces = (joinSources n h).screens[n].engine.joinedSurfaces ∧
      k.screens[n].engine.joinedPlates = (joinSources n h).screens[n].engine.joinedPlates := by
  cases started with
  | gathers _ screen slots plates =>
    rw [screen]
    exact ⟨slots, plates, rfl, rfl⟩
  | rests _ screen =>
    rw [screen] at gathers
    cases gathers

theorem CycleStarted.idle (started : CycleStarted n h k) (idle : k.screens[n].engine.cycle = some .idle) :
    k.slots = (leaveSources n (joinSources n h)).slots ∧ k.plates = (leaveSources n (joinSources n h)).plates ∧
      k.screens[n].engine.joinedSurfaces = Vector.replicate 2 false ∧
      k.screens[n].engine.joinedPlates = Vector.replicate 16 false := by
  cases started with
  | gathers _ screen =>
    rw [screen] at idle
    cases idle
  | rests _ screen slots plates =>
    rw [screen]
    exact ⟨slots, plates, rfl, rfl⟩

end

/-- Settles O36: the walk of the slot handed over, by whether it leaves an entry Behind. -/
theorem cycleStartEffect : Obligations.CycleStartEffect := by
  refine ⟨fun v src => Layout.names_iff, ?_, ?_, fun h n => leaveSources_eq n h⟩
  · rintro h x t _ _ z fill _ covers size signed rfl rfl rfl hc
    have background : backgroundTarget x = { source := .background, signature := fill } := by
      rw [backgroundTarget, signed]
      rfl
    obtain ⟨none, last⟩ := visibleView_last x.layout (t % z.columns) (t / z.columns)
      fun v => View.covers_iff.trans (hc v).symm
    refine ⟨fun uncovered => ?_, fun below above v c r layout covered top hc hr => ⟨fun i source => ?_, fun p source => ?_⟩⟩
    · rw [targetOf_visible h size, none uncovered, background]
    all_goals
      subst hc hr
      rw [targetOf_visible h size, last below above v layout covered top, ← background]
      dsimp only
      rw [source]
    · exact ⟨surfaceTarget_none, fun k w g => surfaceTarget_some⟩
    · exact ⟨plateTarget_none, fun k w g => plateTarget_some⟩
  · rintro h k n x y z rfl rfl rfl hz
    have handed : z = h.screens[n].handOver := by
      rw [hz, Screen.handOver]
      cases h.screens[n].pendingFill <;> rfl
    clear hz
    subst handed
    have same : (h.modScreen n fun _ => h.screens[n].handOver) = h.modScreen n Screen.handOver :=
      congrArg (fun v => ({ h with screens := v } : Hub)) (upd_congr rfl)
    have here : (h.modScreen n Screen.handOver).screens[n] = h.screens[n].handOver := by
      rw [Hub.modScreen_screens, upd_get_same]
    have sources := SameSources.modScreen h n Screen.handOver
    have started := startCycle_started n h
    have frame := startCycle_frame n h
    have others (m : Fin 8) (ne : m ≠ n) := startCycle_others n h ne
    rw [same]
    generalize startCycle n h = k, h.modScreen n Screen.handOver = g at *
    obtain ⟨es, c, surfaces, plates, screen, length, entry, gathers, idle⟩ := started.slot
    obtain ⟨slotAt, -, copyAt, surfaceAt, plateAt⟩ := joinSources_readers n g h.screens[n].handOver.layout (by rw [here])
    rw [here] at screen length entry
    have cycle : k.screens[n].engine.cycle = some c := by rw [screen]; rfl
    have entries : k.screens[n].entries = es := by rw [screen]; rfl
    refine ⟨by rw [screen]; rfl, by rw [screen]; rfl, by rw [screen]; rfl, by rw [screen]; rfl, by rw [screen]; rfl,
      by rw [screen]; rfl, by rw [screen]; rfl, frame, entries ▸ length, fun t _ g e hg at' => ?_, ?_, ?_, others,
      fun i => ?_, fun p => ?_, fun p => ?_, fun gathers => ⟨fun i j => ?_, fun p c => ?_, fun i => ?_, fun p => ?_⟩,
      fun idle law => ?_⟩
    · rw [entries, cycle]
      exact entry t e g at' hg
    · rw [entries, cycle]
      exact gathers
    · rw [entries, cycle]
      exact idle
    · rw [screen]
      simp [Screen.begun, framesOf, sources.newestSlot_eq, sources.slots]
    · rw [screen]
      simp [Screen.begun, versionsOf, sources.plates, Option.isSome_iff_ne_none]
    · rw [started.plate p, sources.plates]
    · obtain ⟨slots, -, -, -⟩ := started.gathering gathers
      rw [slots, slotAt, sources.newestSlot_eq, sources.slots]
    · obtain ⟨-, plates, -, -⟩ := started.gathering gathers
      rw [plates, copyAt, sources.plates]
    · obtain ⟨-, -, surfaces, -⟩ := started.gathering gathers
      rw [surfaces, surfaceAt, sources.newestSlot_eq]
    · obtain ⟨-, -, -, plates⟩ := started.gathering gathers
      rw [plates, plateAt, sources.plates]
    · have lawAt : plateLaw g := by
        unfold plateLaw
        rw [sources.plates]
        exact law
      obtain ⟨slots, plates, joinedSurfaces, joinedPlates⟩ := started.idle idle
      obtain ⟨leftSlots, leftPlates⟩ := leave_joinSources n lawAt
      obtain ⟨sameSlots, samePlates⟩ := leaveSources_slots n sources.slots sources.plates
      exact ⟨slots.trans (leftSlots.trans sameSlots), plates.trans (leftPlates.trans samePlates), joinedSurfaces,
        joinedPlates⟩

end Sys2Proof.Machine

/-! O37 refuted: the end of gathering shows a Ready screen out of its turn. -/

namespace Sys2Proof.Machine

/-- A Joined screen of link 0, Ready and in no group. -/
def readyScreen : Screen :=
  { Screen.reset with state := .joined, link := some 0, engine := { Engine.reset with cycle := some .ready } }

def assignedRow (n : Fin 8) : AddressRow := { AddressRow.reset with assignment := .screen n, credit := some 2 }

/-- Screens 0 and 1 are Ready on link 0, which is Up. -/
def twoReady : State :=
  { hub :=
      { State.reset.hub with
        starting := false
        screens := (State.reset.hub.screens.set 0 readyScreen).set 1 readyScreen
        links := State.reset.hub.links.set 0
          { Link.reset false with enabled := true, state := .up, rate := some .six, rows := #v[assignedRow 0, assignedRow 1] } }
    pending := [] }

/-- R95: the packet on the line of link 0. -/
def firstPacket (h : Hub) : Option Packet := h.links[(0 : Fin 6)].line.map (·.packet)

/-- R73: what follows at an event shows the lower screen first. -/
theorem twoReady_settled : firstPacket (settle twoReady.hub) = some (.showFrame 1 1 (setScreens [0])) := by
  decide +kernel

/-- R73: GATHERING-END of screen 1, which gathers nothing, shows screen 1 first. -/
theorem twoReady_gatheringEnd :
    firstPacket (settle (showIfReady (endGathering twoReady.hub 1) 1)) = some (.showFrame 2 1 (setScreens [1])) := by
  decide +kernel

theorem twoReady_notGathering : twoReady.hub.screens[(1 : Fin 8)].engine.cycle ≠ some .gathering := by decide +kernel

theorem settle_of_completes {c : Instr} {s : State} {f : Hub → Hub} {h : Hub} (meaning : exec c s = complete f s)
    (completes : Completes c s h) : settle (f s.hub) = settle h := by
  rw [Completes, meaning, complete] at completes
  generalize settle (f s.hub) = k, settle h = m at *
  exact congrArg State.hub (Host.Outcome.next.inj completes)

/-- Refutes O37: a GATHERING-END of a Ready screen that is in no running set is no stutter. In `twoReady` it hands the
link the SHOW of screen 1 before that of screen 0, while what follows at an event without effect shows screen 0 first. -/
theorem not_gatheringCutAndRelease : ¬Obligations.GatheringCutAndRelease := by
  rintro ⟨-, screens, -⟩
  obtain ⟨-, -, stutters, -⟩ := screens twoReady 1 _ rfl
  have settled := settle_of_completes (f := fun h => showIfReady (endGathering h 1) 1) rfl
    (stutters (.inl twoReady_notGathering))
  have packets := congrArg firstPacket settled
  rw [twoReady_settled, twoReady_gatheringEnd] at packets
  exact absurd packets (by decide)

end Sys2Proof.Machine

/-! O38: SHOWN, the show timer, and the loss of a screen. -/

namespace Sys2Proof.Machine

/-! ### The loss of a screen (R79, R120) -/

theorem modLink_rest (l : Fin 6) (f : Link → Link) (h : Hub) : Rest h (h.modLink l f) := rfl

/-- R79: a lost screen is aborted and the ports are told of it. -/
theorem becomeLost_notifies (n : Fin 8) (r : LostReason) (h : Hub) : ∃ k,
    becomeLost n r h = notify (ownerOrBoth h.screens[n].owner) .lost
      ([byteOfFin n, r.code, byteOfFin (h.screens[n].link.getD 0)] ++
        optional 2 be16 (if r = .showUnanswered then some (h.screens[n].present + 1) else none)) k ∧
      Rest h k ∧ k.groups = (abort n h).groups := by
  have screen := abort_screen n h
  have rest := abort_rest n h
  unfold becomeLost
  generalize abort n h = k at *
  dsimp only
  have here : (setScreenState n .lost k).screens[n].owner = h.screens[n].owner := by
    rw [setScreenState, Hub.modScreen_screens, upd_get_same, screen]
    rfl
  have lost : Rest h (setScreenState n .lost k) := rest.trans (modScreen_rest n _ k)
  cases addressOf h n with
  | none => exact ⟨_, by rw [screenPorts, here], lost, rfl⟩
  | some x =>
    have ports (f : AddressRow → AddressRow) :
        screenPorts ((setScreenState n .lost k).modRow x.1 x.2 f) n = ownerOrBoth h.screens[n].owner :=
      congrArg ownerOrBoth here
    refine ⟨(setScreenState n .lost k).modRow x.1 x.2 fun r => { r with lostPoll := some Config.lostPollTicks }, ?_,
      lost.trans (modLink_rest _ _ _), rfl⟩
    dsimp only
    rw [ports]

theorem Rest.port {h k : Hub} (rest : Rest h k) (p : Port) : k.port p = h.port p := by
  unfold Rest at rest
  rw [rest]
  cases p <;> rfl

theorem becomeLost_groups (n : Fin 8) (r : LostReason) (h : Hub) (g : Fin 4) :
    (becomeLost n r h).groups[g] = { h.groups[g] with running := h.groups[g].running.set n false } := by
  obtain ⟨k, lost, -, groups⟩ := becomeLost_notifies n r h
  rw [lost, notify_groups, groups, abort_groups]

theorem becomeLost_frame (n : Fin 8) (r : LostReason) (h : Hub) : becomeLost n r h =
    { h with
      slots := (becomeLost n r h).slots, plates := (becomeLost n r h).plates, screens := (becomeLost n r h).screens,
      groups := (becomeLost n r h).groups, buffers := (becomeLost n r h).buffers, links := (becomeLost n r h).links,
      portA := (becomeLost n r h).portA, portB := (becomeLost n r h).portB } := by
  obtain ⟨k, lost, rest, -⟩ := becomeLost_notifies n r h
  obtain ⟨na, la, nb, lb, only⟩ := notify_only (ownerOrBoth h.screens[n].owner) .lost
    ([byteOfFin n, r.code, byteOfFin (h.screens[n].link.getD 0)] ++
      optional 2 be16 (if r = .showUnanswered then some (h.screens[n].present + 1) else none)) k
  rw [lost, only]
  unfold Rest at rest
  rw [rest]

theorem becomeLost_port (n : Fin 8) (r : LostReason) (h : Hub) (p : Port) {l : Fin 6}
    (link : h.screens[n].link = some l) : (becomeLost n r h).port p =
      if h.screens[n].owner = some p ∨ h.screens[n].owner = none then
        (h.port p).offer .lost ([byteOfFin n, r.code, byteOfFin l] ++
          if r = .showUnanswered then 1 :: be16 (h.screens[n].present + 1) else [0, 0, 0])
      else h.port p := by
  obtain ⟨k, lost, rest, -⟩ := becomeLost_notifies n r h
  have awaited : optional 2 be16 (if r = .showUnanswered then some (h.screens[n].present + 1) else none) =
      if r = .showUnanswered then 1 :: be16 (h.screens[n].present + 1) else [0, 0, 0] := by
    split <;> rfl
  rw [lost, notify_port _ (ownerOrBoth_nodup _), awaited, link, rest.port]
  simp only [mem_ownerOrBoth, Option.getD_some]

section
variable {n : Fin 8} {h : Hub} {l : Fin 6} {a : Fin 2} (r : LostReason)

theorem becomeLost_link_at (address : addressOf h n = some (l, a)) : (becomeLost n r h).links[l] =
    { (abort n h).links[l] with
      rows := upd (abort n h).links[l].rows a fun w => { w with lostPoll := some Config.lostPollTicks } } := by
  rw [becomeLost_link, address]
  exact if_pos rfl

theorem becomeLost_link_away (away : ∀ a, addressOf h n ≠ some (l, a)) :
    (becomeLost n r h).links[l] = (abort n h).links[l] := by
  rw [becomeLost_link]
  rcases address : addressOf h n with _ | ⟨m, a⟩
  · rfl
  · refine if_neg ?_
    rintro rfl
    exact away a address

theorem becomeLost_link_frame (l : Fin 6) : (becomeLost n r h).links[l] =
    { h.links[l] with
      control := (becomeLost n r h).links[l].control, line := (becomeLost n r h).links[l].line,
      rows := (becomeLost n r h).links[l].rows, tiles := (becomeLost n r h).links[l].tiles,
      sentOrder := (becomeLost n r h).links[l].sentOrder } := by
  obtain ⟨aborted, -⟩ := (abort_aborted n h).links l
  by_cases here : ∃ a, addressOf h n = some (l, a)
  · obtain ⟨a, address⟩ := here
    rw [becomeLost_link_at r address, aborted]
  · rw [becomeLost_link_away r fun a address => here ⟨a, address⟩]
    exact aborted

theorem becomeLost_rows (address : addressOf h n = some (l, a)) :
    (becomeLost n r h).links[l].rows[a] =
        { h.links[l].rows[a] with
          silence := none, pollWait := none, pollAwaited := false, lostPoll := some Config.lostPollTicks } ∧
      (becomeLost n r h).links[l].rows[other a] = h.links[l].rows[other a] := by
  obtain ⟨here, elsewhere⟩ := abort_rows address
  rw [becomeLost_link_at r address]
  dsimp only
  rw [upd_get_same, upd_get_other _ _ (ne_other a), here, elsewhere]
  exact ⟨rfl, rfl⟩

theorem becomeLost_packets (address : addressOf h n = some (l, a)) :
    (becomeLost n r h).links[l].control =
        (h.links[l].control.filter fun q => !q.removedAtAbort a).map (Packet.disarm n a) ∧
      (becomeLost n r h).links[l].line =
        h.links[l].line.map fun o => { o with packet := o.packet.disarm n a } := by
  rw [becomeLost_link_at r address, abort_link, abortAtLink_link address]
  exact ⟨rfl, rfl⟩

theorem becomeLost_away (away : ∀ a, addressOf h n ≠ some (l, a)) :
    (becomeLost n r h).links[l].control = h.links[l].control ∧ (becomeLost n r h).links[l].line = h.links[l].line ∧
      (becomeLost n r h).links[l].rows = h.links[l].rows := by
  rw [becomeLost_link_away r away, abort_link, abortAtLink_other away]
  exact ⟨rfl, rfl, rfl⟩

theorem becomeLost_queues (l : Fin 6) :
    (becomeLost n r h).links[l].tiles = h.links[l].tiles.filter (fun b => !freedAtAbort n h.buffers[b]) ∧
      (becomeLost n r h).links[l].sentOrder =
        h.links[l].sentOrder.filter fun b => !freedAtAbort n h.buffers[b] := by
  by_cases here : ∃ a, addressOf h n = some (l, a)
  · obtain ⟨a, address⟩ := here
    rw [becomeLost_link_at r address, abort_link]
    exact ⟨rfl, rfl⟩
  · rw [becomeLost_link_away r fun a address => here ⟨a, address⟩, abort_link]
    exact ⟨rfl, rfl⟩

end

theorem voidedLend_eq (n : Fin 8) (y : Lend) : voidedLend n (some y) =
    if y.screen = n then
      if y.phase = .queued ∧ y.inTransmission = false then none else some { y with voided := true }
    else some y := rfl

/-! ### SHOWN (R74) -/

/-- R74, R76: the screen of a finished cycle is Idle and in no running set. -/
def finished (n : Fin 8) (h : Hub) : Hub :=
  leaveRunning n (h.modEngine n fun e =>
    { e with cycle := some .idle, showCount := 0, showTimer := none, lossWait := false })

theorem finishCycle_eq (n : Fin 8) (h : Hub) :
    finishCycle n h = if h.screens[n].engine.promptStart then startCycle n (finished n h) else finished n h := rfl

theorem shownMatched_eq {n : Fin 8} {h : Hub} (joined : h.screens[n].state = .joined) {k : Hub}
    (hk : k = leaveRunning n (h.modScreen n fun y =>
      { y with
        present := y.present + 1, failures := 0, entries := y.entries.map fun e => { e with target := none },
        engine := { y.engine with cycle := some .idle, showCount := 0, showTimer := none, lossWait := false } })) :
    shownMatched n h = if h.screens[n].engine.promptStart then startCycle n k else k := by
  have state : (h.modScreen n fun x => { x with present := x.present + 1 }).screens[n].state = .joined := by
    rw [Hub.modScreen_screens, upd_get_same]
    exact joined
  have shown : dropTargets n (failureClear n (h.modScreen n fun x => { x with present := x.present + 1 })) =
      h.modScreen n fun y =>
        { y with
          present := y.present + 1, failures := 0, entries := y.entries.map fun e => { e with target := none } } := by
    rw [failureClear, if_pos state, modScreen_modScreen]
    exact modScreen_modScreen h n _ _
  have prompt : (h.modScreen n fun y => { y with
      present := y.present + 1, failures := 0,
      entries := y.entries.map fun e => { e with target := none } }).screens[n].engine.promptStart =
        h.screens[n].engine.promptStart := by
    rw [Hub.modScreen_screens, upd_get_same]
  rw [shownMatched, shown, finishCycle_eq, prompt, hk, finished, Hub.modEngine, modScreen_modScreen]

/-- R74, R131: a SHOWN from a Joined screen's address is judged by its cycle. -/
theorem shown_completes {s : State} {l : Fin 6} {a : Fin 2} {n : Fin 8} {number : Half} {h : Hub}
    (receiver : receiverOpen s.hub.links[l] = true) (assigned : s.hub.links[l].rows[a].assignment = .screen n)
    (joined : s.hub.screens[n].state = .joined)
    (answer : shownJoined l (rowByte a) n number (touchSilence l (rowByte a) s.hub) = h) :
    Completes (.shown l (rowByte a) number) s h := by
  refine complete_completes (f := takePacket l (rowByte a) (shownTaken l (rowByte a) number)) rfl ?_
  rw [takePacket_taken receiver, shownTaken, bySender, senderOf_screen assigned]
  dsimp only
  rw [touchSilence_screens, if_pos joined, answer]

section
variable {h : Hub} {n : Fin 8} {l : Fin 6} {address : Byte} {number : Half}

theorem shownJoined_matched (presenting : h.screens[n].engine.cycle = some .presenting)
    (next : number = h.screens[n].present + 1) : shownJoined l address n number h = shownMatched n h := by
  unfold shownJoined
  rw [if_pos presenting, if_pos next]

theorem shownJoined_stray (stray : h.screens[n].engine.cycle = some .presenting ∧ number ≠ h.screens[n].present + 1 ∨
      h.screens[n].engine.cycle ≠ some .presenting ∧ number = h.screens[n].present) :
    shownJoined l address n number h = h.modLink l fun k => { k with strays := k.strays + 1 } := by
  unfold shownJoined
  rcases stray with ⟨presenting, other⟩ | ⟨resting, same⟩
  · rw [if_pos presenting, if_neg other]
    rfl
  · rw [if_neg resting, if_pos same]
    rfl

theorem shownJoined_fault (resting : h.screens[n].engine.cycle ≠ some .presenting)
    (other : number ≠ h.screens[n].present) :
    shownJoined l address n number h = protocolFault l address .shown h := by
  unfold shownJoined
  rw [if_neg resting, if_neg other]

end

/-! ### The show timer (R75, R76) -/

/-- R75: an unanswered SHOW of a screen that waits for no LOSS. -/
def unanswered (n : Fin 8) (failures : Nat) (h : Hub) : Hub :=
  h.modScreen n fun y => { y with failures := failures, engine := { y.engine with showTimer := none } }

section
variable {h : Hub} {n : Fin 8}

theorem showTimerExpire_due (presenting : h.screens[n].engine.cycle = some .presenting)
    (due : h.screens[n].engine.showTimer = some 0) : showTimerDue h n = true := by
  rw [showTimerDue, presenting, due]
  rfl

theorem showTimerExpire_wait (due : showTimerDue h n = true) (wait : h.screens[n].engine.lossWait = true) :
    showTimerExpire n h = if h.screens[n].engine.promptStart then startCycle n (finished n h) else finished n h := by
  have engine : (h.modEngine n fun e => { e with showTimer := none }).screens[n].engine =
      { h.screens[n].engine with showTimer := none } := by
    rw [Hub.modEngine_screens, upd_get_same]
  have same : finished n (h.modEngine n fun e => { e with showTimer := none }) = finished n h := by
    rw [finished, Hub.modEngine, Hub.modEngine, modScreen_modScreen]
    rfl
  unfold showTimerExpire
  rw [if_pos due]
  dsimp only
  rw [engine]
  dsimp only
  rw [if_pos wait, finishCycle_eq, engine, same]

/-- R57, R75: the show timer's failure of a Joined screen. -/
theorem failureRise_unanswered (joined : h.screens[n].state = .joined) :
    failureRise n (h.modEngine n fun e => { e with showTimer := none }) =
      if 7 ≤ h.screens[n].failures then becomeLost n .failures (unanswered n 8 h)
      else unanswered n (h.screens[n].failures + 1) h := by
  have state : (h.modEngine n fun e => { e with showTimer := none }).screens[n].state = .joined := by
    rw [Hub.modEngine_screens, upd_get_same]
    exact joined
  have risen : ((h.modEngine n fun e => { e with showTimer := none }).modScreen n fun x =>
      { x with failures := min Config.failureLimit (x.failures + 1) }) =
        unanswered n (min Config.failureLimit (h.screens[n].failures + 1)) h := by
    rw [Hub.modEngine, modScreen_modScreen]
    exact congrArg (fun v => ({ h with screens := v } : Hub)) (upd_congr rfl)
  have failures : (unanswered n (min Config.failureLimit (h.screens[n].failures + 1)) h).screens[n].failures =
      min Config.failureLimit (h.screens[n].failures + 1) := by
    rw [unanswered, Hub.modScreen_screens, upd_get_same]
  have limit : Config.failureLimit = 8 := rfl
  unfold failureRise
  rw [if_pos state, risen]
  dsimp only
  rw [failures, limit]
  by_cases high : 7 ≤ h.screens[n].failures
  · have top : min 8 (h.screens[n].failures + 1) = 8 := by omega
    rw [top, if_pos rfl, if_pos high]
  · have below : min 8 (h.screens[n].failures + 1) = h.screens[n].failures + 1 := by omega
    rw [below, if_neg (by omega), if_neg high]

/-- R75: after the failure the screen is lost, or is shown again. -/
theorem showTimerExpire_rise (due : showTimerDue h n = true) (noWait : h.screens[n].engine.lossWait = false)
    (joined : h.screens[n].state = .joined) :
    showTimerExpire n h =
      if 7 ≤ h.screens[n].failures then becomeLost n .failures (unanswered n 8 h)
      else if 3 ≤ h.screens[n].engine.showCount then
        becomeLost n .showUnanswered (unanswered n (h.screens[n].failures + 1) h)
      else (handShow n (unanswered n (h.screens[n].failures + 1) h)).modEngine n fun e =>
        { e with showCount := e.showCount + 1 } := by
  have wait : (h.modEngine n fun e => { e with showTimer := none }).screens[n].engine.lossWait = false := by
    rw [Hub.modEngine_screens, upd_get_same]
    exact noWait
  unfold showTimerExpire
  rw [if_pos due]
  dsimp only
  rw [wait, if_neg Bool.false_ne_true, failureRise_unanswered joined]
  by_cases high : 7 ≤ h.screens[n].failures
  · have lost : (becomeLost n .failures (unanswered n 8 h)).screens[n].state ≠ .joined := by
      rw [(becomeLost_screens n .failures _).1]
      nofun
    rw [if_pos high, if_pos high, if_pos lost]
  · have here : (unanswered n (h.screens[n].failures + 1) h).screens[n].state = .joined ∧
        (unanswered n (h.screens[n].failures + 1) h).screens[n].engine.showCount = h.screens[n].engine.showCount := by
      rw [unanswered, Hub.modScreen_screens, upd_get_same]
      exact ⟨joined, rfl⟩
    rw [if_neg high, if_neg high, if_neg (not_not.2 here.1), here.2]

end

theorem unanswered_count (n : Fin 8) (h : Hub) : unanswered n (h.screens[n].failures + 1) h =
    h.modScreen n fun y => { y with failures := y.failures + 1, engine := { y.engine with showTimer := none } } :=
  congrArg (fun v => ({ h with screens := v } : Hub)) (upd_congr rfl)

/-- R75: SHOW is sent again. -/
theorem handShow_unanswered {n : Fin 8} {h : Hub} {l : Fin 6} {a : Fin 2} (address : addressOf h n = some (l, a)) :
    (handShow n (unanswered n (h.screens[n].failures + 1) h)).modEngine n
        (fun e => { e with showCount := e.showCount + 1 }) =
      (h.modLink l fun k =>
        { k with
          control := k.control ++ [.showFrame (rowByte a) (h.screens[n].present + 1) (setScreens [n])] }).modScreen n
        fun y =>
          { y with
            failures := y.failures + 1
            engine := { y.engine with showTimer := none, showCount := y.engine.showCount + 1 } } := by
  obtain ⟨link, row, first⟩ := (addressOf_iff h n l a).1 address
  rw [unanswered_count]
  have here : (h.modScreen n fun y =>
      { y with failures := y.failures + 1, engine := { y.engine with showTimer := none } }).screens[n] =
        { h.screens[n] with
          failures := h.screens[n].failures + 1, engine := { h.screens[n].engine with showTimer := none } } := by
    rw [Hub.modScreen_screens, upd_get_same]
  have still := (addressOf_iff (h.modScreen n fun y =>
    { y with failures := y.failures + 1, engine := { y.engine with showTimer := none } }) n l a).2
      ⟨by rw [here]; exact link, row, first⟩
  rw [handShow, still]
  dsimp only
  rw [here]
  simp only [handPacket, Hub.modLink, Hub.modEngine, Hub.modScreen, upd_upd]

/-- R75, R79: what a screen lost over an unanswered SHOW is. -/
theorem becomeLost_unanswered (n : Fin 8) (r : LostReason) (failures : Nat) (h : Hub) {k : Hub}
    (hk : k = becomeLost n r (unanswered n failures h)) :
    k.screens[n].state = .lost ∧ k.screens[n].engine.cycle = none ∧ (∀ e ∈ k.screens[n].entries, e = Entry.absent) ∧
      k.screens[n].engine.showCount = 0 ∧ k.screens[n].present = h.screens[n].present ∧
      k.screens[n].layout = h.screens[n].layout := by
  have here : (unanswered n failures h).screens[n] =
      { h.screens[n] with failures := failures, engine := { h.screens[n].engine with showTimer := none } } := by
    rw [unanswered, Hub.modScreen_screens, upd_get_same]
  rw [hk, (becomeLost_screens n r _).1, here]
  refine ⟨rfl, rfl, fun e he => ?_, rfl, rfl, rfl⟩
  obtain ⟨_, -, rfl⟩ := List.mem_map.1 he
  rfl

/-- Settles O38: SHOWN, then the show timer, then the loss, part by part. -/
theorem shownAndShowTimer : Obligations.ShownAndShowTimer := by
  refine ⟨?_, ?_, ?_, rfl⟩
  · rintro s n _ l a number rfl joined receiver assigned
    have completes {h : Hub} := shown_completes (number := number) (h := h) receiver assigned joined
    rw [← touchSilence_screens l (rowByte a) s.hub] at joined ⊢
    refine ⟨fun presenting next => ⟨_, rfl, completes ?_⟩, fun stray => completes (shownJoined_stray stray),
      fun resting other => completes (shownJoined_fault resting other)⟩
    rw [shownJoined_matched presenting next, shownMatched_eq joined rfl]
  · rintro s n _ rfl joined presenting timer
    have due := showTimerExpire_due presenting timer
    refine ⟨fun wait => ⟨_, rfl, ?_⟩, fun l a noWait low few address => ?_, fun noWait lost => ?_⟩
    · exact complete_completes (f := showTimerExpire n) rfl (showTimerExpire_wait due wait)
    · refine complete_completes (f := showTimerExpire n) rfl ?_
      rw [showTimerExpire_rise due noWait joined, if_neg (Nat.not_le.2 low), if_neg (Nat.not_le.2 few),
        handShow_unanswered address]
    · rcases Nat.lt_or_ge s.hub.screens[n].failures 7 with low | high
      · have shown := lost.resolve_left (Nat.not_le.2 low)
        obtain ⟨state, cycle, entries, count, present, layout⟩ := becomeLost_unanswered n .showUnanswered _ s.hub rfl
        refine ⟨_, complete_completes (f := showTimerExpire n) rfl ?_, state, cycle, entries, count, present, layout,
          fun high => absurd high (Nat.not_le.2 low), fun _ => by rw [unanswered_count]⟩
        rw [showTimerExpire_rise due noWait joined, if_neg (Nat.not_le.2 low), if_pos shown]
      · obtain ⟨state, cycle, entries, count, present, layout⟩ := becomeLost_unanswered n .failures 8 s.hub rfl
        refine ⟨_, complete_completes (f := showTimerExpire n) rfl ?_, state, cycle, entries, count, present, layout,
          fun _ => rfl, fun low => absurd high (Nat.not_le.2 low)⟩
        rw [showTimerExpire_rise due noWait joined, if_pos high]
  · rintro h k n _ r rfl rfl
    obtain ⟨screen, others⟩ := becomeLost_screens n r h
    obtain ⟨slots, plates, buffers, -⟩ := becomeLost_rest n r h
    refine ⟨screen, others, becomeLost_groups n r h, slots, plates, becomeLost_frame n r h, becomeLost_link_frame r,
      fun b y lent => ?_, fun l a w address hw => ?_, fun l a disarm address hd => ?_, fun m away => becomeLost_away r away,
      fun m kept hk => ?_, fun p l link => becomeLost_port n r h p link⟩
    · rw [buffers, lent, voidedLend_eq]
    · subst hw
      exact becomeLost_rows r address
    · obtain ⟨control, line⟩ := becomeLost_packets r address
      obtain rfl : disarm = Packet.disarm n a := funext fun q => (hd q).trans (by cases q <;> rfl)
      refine ⟨control.trans (congrArg _ (List.filter_congr fun q _ => ?_)), line⟩
      cases q <;> rfl
    · obtain rfl : kept = fun b => !freedAtAbort n h.buffers[b] := funext fun b => (hk b).trans (by
        cases h.buffers[b] <;> rfl)
      exact becomeLost_queues r m

end Sys2Proof.Machine

/-! O40: the grant of a buffer. -/

namespace Sys2Proof.Machine

/-! ### Who is granted (R89 to R92) -/

theorem grantRow_eligible {h : Hub} {l : Fin 6} {a : Fin 2}
    (ha : a = if (eligibleScreen h l h.links[l].nextRow).isSome then h.links[l].nextRow
      else other h.links[l].nextRow) : grantRow h l = a := ha.symm

theorem firstBehind_eq {x : Screen} {t : Nat} {e : Entry} (entry : x.entries[t]? = some e) (behind : e.state = .behind)
    (first : ∀ u < t, (x.entries[u]?).map (·.state) ≠ some .behind) : firstBehind x = some t := by
  obtain ⟨ht, at'⟩ := List.getElem?_eq_some_iff.1 entry
  rw [firstBehind, List.findIdx?_eq_some_iff_getElem]
  refine ⟨ht, by rw [at', behind]; rfl, fun u hu => ?_⟩
  have before := first u hu
  rw [List.getElem?_eq_getElem (hu.trans ht), Option.map_some] at before
  simpa using before

/-! ### What is copied (R92) -/

theorem Memory.readBytes_get (m : Memory) (x n j : Nat) (hj : j < n) : (m.readBytes x n)[j]? = some (m.read (x + j)) := by
  induction n generalizing x j with
  | zero => exact absurd hj (Nat.not_lt_zero j)
  | succ n ih =>
    rw [Memory.readBytes]
    cases j with
    | zero => rfl
    | succ j => rw [List.getElem?_cons_succ, ih _ _ (Nat.lt_of_succ_lt_succ hj), Nat.add_assoc, Nat.add_comm 1]

/-- R92: byte `j` of the tile that a source names. -/
def sourceByte (h : Hub) (n : Fin 8) (j : Nat) : TileSource → Byte
  | .surface i k u => h.dram.read (Config.slotBase i.val k.val + u * 4800 + j)
  | .plate p c u => h.dram.read (Config.copyBase p.val c.val + u * 4800 + j)
  | .background => (fillTile (h.screens[n].fill.getD default)).getD j 0

theorem sourceBytes_get (h : Hub) (n : Fin 8) (src : TileSource) {j : Nat} (hj : j < 4800) :
    (sourceBytes h n src)[j]? = some (sourceByte h n j src) := by
  cases src with
  | surface i k u => exact Memory.readBytes_get _ _ _ _ hj
  | plate p c u => exact Memory.readBytes_get _ _ _ _ hj
  | background =>
    have within : j < (fillTile (h.screens[n].fill.getD default)).length := by rwa [fillTile_length]
    rw [sourceBytes, sourceByte, List.getD_eq_getElem?_getD, List.getElem?_eq_getElem within, Option.getD_some]

/-! ### The grant -/

section
variable {b : Fin 32} {l : Fin 6} {a : Fin 2} {n : Fin 8} {t : Nat} {e : Entry} {g : Target} {h : Hub}

/-- R92: the buffer that is lent. -/
def grantedLend (l : Fin 6) (a : Fin 2) (n : Fin 8) (t : Nat) (g : Target) : Lend :=
  { phase := .loading, voided := false, link := l, row := a, screen := n, tile := t, source := g.source,
    signature := g.signature, inTransmission := false, replyTimer := none }

theorem grantTo_eq (row : grantRow h l = a) (eligible : eligibleScreen h l a = some n)
    (first : firstBehind h.screens[n] = some t) (entry : h.screens[n].entries[t]? = some e)
    (target : e.target = some g) :
    grantTo b l h =
      { h with
        screens := (modEntry n t (fun e => { e with state := .sending }) h).screens
        links := upd h.links l fun k => { k with nextRow := other a }
        buffers := h.buffers.set b (some (grantedLend l a n t g))
        lastServed := l
        dram := h.dram.writeBytes (Config.bufferBase b.val) (sourceBytes h n g.source) } := by
  unfold grantTo
  dsimp only
  rw [row, eligible]
  dsimp only
  rw [first]
  dsimp only
  rw [entry, Option.bind_some, target]
  rfl

theorem modEntry_entry (entry : h.screens[n].entries[t]? = some e) (f : Entry → Entry) :
    (modEntry n t f h).screens[n] = { h.screens[n] with entries := h.screens[n].entries.set t (f e) } := by
  rw [modEntry, Hub.modScreen_screens, upd_get_same]
  refine congrArg (fun v => ({ h.screens[n] with entries := v } : Screen)) ?_
  obtain ⟨ht, at'⟩ := List.getElem?_eq_some_iff.1 entry
  rw [List.modify_eq_set_getElem?, entry]
  rfl

end

/-- Settles O40: who is granted, then what the grant of a buffer does. -/
theorem bufferGrant : Obligations.BufferGrant := by
  refine ⟨fun h => ?_, fun s b l a n t e g wf free asking ha eligible entry behind before target => ?_, fun s stuck => ?_⟩
  · obtain ⟨lowest, noneFree⟩ := lowestFreeBuffer_first h
    obtain ⟨next, noneAsks⟩ := nextAsking_first h
    refine ⟨lowest, noneFree, eligibleScreen_iff h, fun l => ?_, next, noneAsks⟩
    have counted := asks_iff h l
    rw [linkBuffers_eq] at counted
    exact counted
  · have granted := grantTo_eq (b := b) (grantRow_eligible ha) eligible (firstBehind_eq entry behind before) entry target
    have once : grantOnce s.hub = some (grantTo b l s.hub) := by rw [grantOnce, free, asking]
    have length := sourceBytes_length s.hub n g.source
    have inside : ∀ j < 4800, ((s.hub.dram.writeBytes (Config.bufferBase b.val)
        (sourceBytes s.hub n g.source)).read (Config.bufferBase b.val + j)) =
          (sourceBytes s.hub n g.source)[j]?.getD 0 := fun j hj => by
      have within : j < (sourceBytes s.hub n g.source).length := length ▸ hj
      rw [Memory.read_writeBytes_inside wf _ _ j within, List.getElem?_eq_getElem within, Option.getD_some]
    refine ⟨_, rfl, complete_completes (f := fun h => (grantOnce h).getD h) rfl (by rw [once]; rfl), ?_⟩
    rw [granted]
    refine ⟨rfl, rfl, upd_get_same _ _ _, modEntry_entry entry _, fun j hj => ?_, fun x hx => ?_, fun m ne => ?_,
      fun m ne => upd_get_other _ _ ne.symm, rfl⟩
    · rw [inside j hj, sourceBytes_get _ _ _ hj]
      cases g.source <;> rfl
    · exact Memory.read_writeBytes_outside _ _ _ (length ▸ hx)
    · exact upd_get_other _ _ ne.symm
  · refine complete_completes (f := fun h => (grantOnce h).getD h) rfl ?_
    rw [grantOnce]
    rcases stuck with none | none
    · rw [none]
      rfl
    · rw [none]
      cases lowestFreeBuffer s.hub <;> rfl

end Sys2Proof.Machine

/-! O41: the end of a load, and the end of a packet on a link. -/

namespace Sys2Proof.Machine

/-! ### The end of a load (R93) -/

section
variable {h : Hub} {b : Fin 32} {x : Lend}

theorem modBuffer_eq (lent : h.buffers[b] = some x) (f : Lend → Lend) :
    h.modBuffer b f = { h with buffers := h.buffers.set b (some (f x)) } := by
  refine congrArg (fun v => ({ h with buffers := v } : Hub)) (vector_ext fun c => ?_)
  refine (upd_get _ b c _).trans (Eq.trans ?_ (set_get _ _ _ _).symm)
  split
  · next same =>
    rw [← same, lent]
    rfl
  · rfl

theorem loadEnds_queued (lent : h.buffers[b] = some x) (loading : x.phase = .loading) (kept : x.voided = false) :
    loadEnds b h =
      { h with
        buffers := h.buffers.set b (some { x with phase := .queued })
        links := upd h.links x.link fun k => { k with tiles := k.tiles ++ [b] } } := by
  rw [loadEnds, lent]
  dsimp only
  rw [if_pos loading, if_neg (Bool.eq_false_iff.1 kept), modBuffer_eq lent]
  rfl

theorem loadEnds_voided (lent : h.buffers[b] = some x) (loading : x.phase = .loading) (voided : x.voided = true) :
    loadEnds b h = freeBuffer b h := by
  rw [loadEnds, lent]
  dsimp only
  rw [if_pos loading, if_pos voided]

theorem loadEnds_elsewhere (away : ∀ x, h.buffers[b] = some x → x.phase ≠ .loading) : loadEnds b h = h := by
  rw [loadEnds]
  rcases lent : h.buffers[b] with _ | x
  · rfl
  · exact if_neg (away x lent)

end

/-! ### The end of a packet (R95) -/

section
variable {c : Instr} {s : State} {l : Fin 6} {f : Packet → Option (Hub → Hub)} {o : OnLine} {e : Hub → Hub} {h : Hub}

/-- R95: a transmission that ends with no packet of the kind has no effect. -/
theorem packetSent_other (meaning : exec c s = complete (packetSent l f) s)
    (other : ∀ o, s.hub.links[l].line = some o → f o.packet = none) : Completes c s s.hub := by
  refine complete_completes meaning ?_
  rw [packetSent]
  rcases line : s.hub.links[l].line with _ | o
  · rfl
  · dsimp only
    rw [other o line]

/-- R111: a packet finished after a disable has no effect. -/
theorem packetSent_dead (meaning : exec c s = complete (packetSent l f) s) (line : s.hub.links[l].line = some o)
    (kind : f o.packet = some e) (dead : o.dead = true) (hh : h = s.hub.modLink l fun k => { k with line := none }) :
    Completes c s h := by
  refine complete_completes meaning ?_
  rw [packetSent, line]
  dsimp only
  rw [kind]
  dsimp only
  rw [if_pos dead, hh]
  rfl

theorem packetSent_effect (meaning : exec c s = complete (packetSent l f) s) (line : s.hub.links[l].line = some o)
    (kind : f o.packet = some e) (alive : o.dead = false)
    (hh : h = s.hub.modLink l fun k => { k with line := none }) {k : Hub} (effect : e h = k) : Completes c s k := by
  refine complete_completes meaning ?_
  rw [packetSent, line]
  dsimp only
  rw [kind]
  dsimp only
  rw [if_neg (Bool.eq_false_iff.1 alive), ← effect, hh]
  rfl

end

/-! ### The show timers (R73) -/

theorem foldl_showTimer (number : Half) (ns : List (Fin 8)) (nodup : ns.Nodup) (h : Hub) : ∃ v : Vector Screen 8,
    ns.foldl (fun h n =>
      if h.screens[n].engine.cycle = some .presenting ∧ number = h.screens[n].present + 1 then
        h.modEngine n fun e => { e with showTimer := some Config.showTicks }
      else h) h = { h with screens := v } ∧
    ∀ n : Fin 8, v[n] =
      if n ∈ ns ∧ h.screens[n].engine.cycle = some .presenting ∧ number = h.screens[n].present + 1 then
        { h.screens[n] with engine := { h.screens[n].engine with showTimer := some 100 } }
      else h.screens[n] := by
  induction ns generalizing h with
  | nil => exact ⟨h.screens, rfl, fun n => (if_neg fun at' => List.not_mem_nil at'.1).symm⟩
  | cons m ns ih =>
    obtain ⟨new, nodup⟩ := List.nodup_cons.1 nodup
    rw [List.foldl_cons]
    by_cases starts : h.screens[m].engine.cycle = some .presenting ∧ number = h.screens[m].present + 1
    · rw [if_pos starts]
      obtain ⟨v, eq, at'⟩ := ih nodup (h.modEngine m fun e => { e with showTimer := some Config.showTicks })
      refine ⟨v, eq, fun n => ?_⟩
      rw [at', Hub.modEngine_screens]
      rcases eq_or_ne n m with rfl | ne
      · rw [upd_get_same, if_neg (fun at' => new at'.1), if_pos ⟨List.mem_cons_self, starts⟩]
        rfl
      · rw [upd_get_other _ _ ne.symm]
        simp only [List.mem_cons, ne, false_or]
    · rw [if_neg starts]
      obtain ⟨v, eq, at'⟩ := ih nodup h
      refine ⟨v, eq, fun n => ?_⟩
      rw [at']
      rcases eq_or_ne n m with rfl | ne
      · rw [if_neg (fun at' => new at'.1), if_neg (fun at' => starts at'.2)]
      · simp only [List.mem_cons, ne, false_or]

theorem members_nodup (s : ScreenSet) : s.members.Nodup := allScreens_nodup.filter _

theorem mem_members {s : ScreenSet} {n : Fin 8} : n ∈ s.members ↔ s[n] = true := by
  rw [ScreenSet.members, List.mem_filter]
  exact and_iff_right (mem_allScreens n)

theorem startShowTimers_eq (number : Half) (screens : ScreenSet) (h : Hub) : ∃ v : Vector Screen 8,
    startShowTimers number screens h = { h with screens := v } ∧
      ∀ n : Fin 8, v[n] =
        if screens[n] = true ∧ h.screens[n].engine.cycle = some .presenting ∧ number = h.screens[n].present + 1 then
          { h.screens[n] with engine := { h.screens[n].engine with showTimer := some 100 } }
        else h.screens[n] := by
  have timers := foldl_showTimer number screens.members (members_nodup screens) h
  simp only [mem_members] at timers
  exact timers

/-! ### The effects of a packet's end (R95, R111, R114, R119) -/

section
variable {l : Fin 6} {p : Packet}

theorem tileEffect_none (other : ∀ b a t sig px, p ≠ .tile b a t sig px) : tileEffect l p = none := by
  unfold tileEffect
  split
  · exact absurd rfl (other _ _ _ _ _)
  · rfl

theorem showEffect_none (other : ∀ address number screens, p ≠ .showFrame address number screens) :
    showEffect p = none := by
  unfold showEffect
  split
  · exact absurd rfl (other _ _ _)
  · rfl

theorem rollEffect_none (other : ∀ a, p ≠ .roll a) : rollEffect l p = none := by
  unfold rollEffect
  split
  · exact absurd rfl (other _)
  · rfl

theorem pollEffect_none (other : ∀ a keepAlive, p ≠ .poll a keepAlive) : pollEffect l p = none := by
  unfold pollEffect
  split
  · exact absurd rfl (other _ _)
  · rfl

theorem parkEffect_none (other : p ≠ .park) : parkEffect l p = none := by
  unfold parkEffect
  split
  · exact absurd rfl other
  · rfl

theorem levelOrBlankEffect_none (level : ∀ a v, p ≠ .level a v) (blank : ∀ a c, p ≠ .blank a c) :
    levelOrBlankEffect p = none := by
  unfold levelOrBlankEffect
  split
  · exact absurd rfl (level _ _)
  · exact absurd rfl (blank _ _)
  · rfl

end

/-- Settles O41: the load ends, then each kind of packet, on the line or not. -/
theorem transmissions : Obligations.Transmissions := by
  refine ⟨fun s b away => complete_completes (f := loadEnds b) rfl (loadEnds_elsewhere away),
    fun s b x lent loading => ⟨fun kept => complete_completes (f := loadEnds b) rfl (loadEnds_queued lent loading kept),
      fun voided => complete_completes (f := loadEnds b) rfl (loadEnds_voided lent loading voided)⟩,
    fun s l sent hs => ?_, fun s l o h line hh => ?_⟩
  · have unsent {k : Packet} {o : OnLine} (not : ¬sent k) (line : s.hub.links[l].line = some o) : o.packet ≠ k :=
      fun e => not ((hs k).2 ⟨o, line, e⟩)
    refine ⟨fun not => ?_, fun not => ?_, fun not => ?_, fun not => ?_, fun not => ?_, fun level blank => ?_⟩
    · exact packetSent_other (f := tileEffect l) rfl fun o line =>
        tileEffect_none fun b a t sig px => unsent (not b a t sig px) line
    · exact packetSent_other (f := showEffect) rfl fun o line =>
        showEffect_none fun address number screens => unsent (not address number screens) line
    · exact packetSent_other (f := rollEffect l) rfl fun o line => rollEffect_none fun a => unsent (not a) line
    · exact packetSent_other (f := pollEffect l) rfl fun o line =>
        pollEffect_none fun a keepAlive => unsent (not a keepAlive) line
    · exact packetSent_other (f := parkEffect l) rfl fun o line => parkEffect_none (unsent not line)
    · exact packetSent_other (f := levelOrBlankEffect) rfl fun o line =>
        levelOrBlankEffect_none (fun a v => unsent (level a v) line) fun a c => unsent (blank a c) line
  · refine ⟨fun b a t sig px packet => ⟨fun dead => ?_, fun x alive lent => ?_⟩,
      fun address number screens packet => ⟨fun dead => ?_, fun alive => ?_⟩,
      fun a packet => ⟨fun dead => ?_, fun alive => ?_⟩,
      fun a keepAlive packet => ⟨fun alive keep awaited => ?_, fun no => ?_⟩, fun packet dead => ?_, fun kind => ?_⟩
    · exact packetSent_dead (f := tileEffect l) rfl line (by rw [packet]; rfl) dead hh
    · refine packetSent_effect (f := tileEffect l) rfl line (by rw [packet]; rfl) alive hh ?_
      have lentAt : h.buffers[b] = some x := by rw [hh]; exact lent
      rw [tileSent, modBuffer_eq lentAt, hh]
      simp only [Hub.modLink, upd_upd]
      rfl
    · exact packetSent_dead (f := showEffect) rfl line (by rw [packet]; rfl) dead hh
    · obtain ⟨v, timers, at'⟩ := startShowTimers_eq number screens h
      refine ⟨{ h with screens := v }, ?_, rfl, at'⟩
      exact packetSent_effect (f := showEffect) rfl line (by rw [packet]; rfl) alive hh timers
    · exact packetSent_dead (f := rollEffect l) rfl line (by rw [packet]; rfl) dead hh
    · exact packetSent_effect (f := rollEffect l) rfl line (by rw [packet]; rfl) alive hh rfl
    · refine packetSent_effect (f := pollEffect l) (e := pollSent l a keepAlive) rfl line (by rw [packet]; rfl) alive hh (if_pos ⟨keep, ?_⟩)
      rw [hh, Hub.modLink_links, upd_get_same]
      exact awaited
    · rcases Bool.eq_false_or_eq_true o.dead with dead | alive
      · exact packetSent_dead (f := pollEffect l) rfl line (by rw [packet]; rfl) dead hh
      · refine packetSent_effect (f := pollEffect l) (e := pollSent l a keepAlive) rfl line (by rw [packet]; rfl) alive hh (if_neg ?_)
        rw [hh, Hub.modLink_links, upd_get_same]
        rintro ⟨keep, awaited⟩
        rcases no with dead | noKeep | notAwaited
        · cases dead.symm.trans alive
        · cases keep.symm.trans noKeep
        · cases awaited.symm.trans notAwaited
    · exact packetSent_dead (f := parkEffect l) rfl line (by rw [packet]; rfl) dead hh
    · have effect : levelOrBlankEffect o.packet = some id := by
        rcases kind with ⟨_, _, packet⟩ | ⟨_, _, packet⟩ <;> rw [packet] <;> rfl
      rcases Bool.eq_false_or_eq_true o.dead with dead | alive
      · exact packetSent_dead (f := levelOrBlankEffect) rfl line effect dead hh
      · exact packetSent_effect (f := levelOrBlankEffect) rfl line effect alive hh rfl

end Sys2Proof.Machine

/-! O42: TAKEN, REFUSED and the reply timer. -/

namespace Sys2Proof.Machine

/-! ### The failures of a screen (R57) -/

section
variable {h : Hub} {n : Fin 8}

theorem failureRise_out (out : h.screens[n].state ≠ .joined) : failureRise n h = h := if_neg out

theorem failureRise_eq (joined : h.screens[n].state = .joined) : failureRise n h =
    if 7 ≤ h.screens[n].failures then becomeLost n .failures (h.modScreen n fun y => { y with failures := 8 })
    else h.modScreen n fun y => { y with failures := y.failures + 1 } := by
  have failures : (h.modScreen n fun x => { x with failures := min Config.failureLimit (x.failures + 1) }).screens[n].failures =
      min Config.failureLimit (h.screens[n].failures + 1) := by
    rw [Hub.modScreen_screens, upd_get_same]
  have limit : Config.failureLimit = 8 := rfl
  unfold failureRise
  rw [if_pos joined]
  dsimp only
  rw [failures, limit]
  by_cases high : 7 ≤ h.screens[n].failures
  · have top : min 8 (h.screens[n].failures + 1) = 8 := by omega
    rw [if_pos top, if_pos high]
    exact congrArg (fun v => becomeLost n .failures { h with screens := v }) (upd_congr (by rw [top]))
  · have below : min 8 (h.screens[n].failures + 1) = h.screens[n].failures + 1 := by omega
    rw [if_neg (by omega), if_neg high]
    exact congrArg (fun v => ({ h with screens := v } : Hub)) (upd_congr (by rw [below]))

theorem failureRise_more (joined : h.screens[n].state = .joined) (low : h.screens[n].failures < 7) :
    failureRise n h = h.modScreen n fun y => { y with failures := y.failures + 1 } := by
  rw [failureRise_eq joined, if_neg (Nat.not_le.2 low)]

theorem failureRise_lost (joined : h.screens[n].state = .joined) (high : 7 ≤ h.screens[n].failures) :
    failureRise n h = becomeLost n .failures (h.modScreen n fun y => { y with failures := 8 }) := by
  rw [failureRise_eq joined, if_pos high]

theorem failureClear_eq (n : Fin 8) (h : Hub) :
    failureClear n h = h.modScreen n fun y => { y with failures := if y.state = .joined then 0 else y.failures } := by
  unfold failureClear
  split
  · next joined => exact congrArg (fun v => ({ h with screens := v } : Hub)) (upd_congr (by rw [if_pos joined]))
  · next out =>
    have same : (fun y : Screen => { y with failures := if y.state = .joined then 0 else y.failures }) h.screens[n] =
        id h.screens[n] := by
      dsimp only
      rw [if_neg out]
      rfl
    have kept : upd h.screens n id = h.screens := vector_ext fun m => by
      rw [upd_get]
      split <;> rfl
    rw [Hub.modScreen, upd_congr same, kept]

end

/-! ### A reply that matches (R96, R97, R100) -/

section
variable {h : Hub} {b : Fin 32} {x : Lend} {r : RefusedReason} {sig : Signature}

theorem takenMatched_voided (voided : x.voided = true) : takenMatched b x sig h = freeBuffer b h := if_pos voided

theorem takenMatched_good (kept : x.voided = false) :
    takenMatched b x x.signature h =
      (freeBuffer b h).modScreen x.screen fun y =>
        { y with
          failures := if y.state = .joined then 0 else y.failures
          entries := y.entries.modify x.tile fun e =>
            { e with
              state := if e.target.map (·.signature) = some x.signature then .held else .behind
              held := some x.signature } } := by
  have entry : Entry.takenGood x.signature = fun e =>
      { e with
        state := if e.target.map (·.signature) = some x.signature then .held else .behind
        held := some x.signature } := funext fun e => by
    rw [Entry.takenGood]
    split <;> rfl
  unfold takenMatched
  dsimp only
  rw [if_neg (Bool.eq_false_iff.1 kept), if_pos rfl, failureClear_eq, modEntry, modScreen_modScreen, entry]

theorem takenMatched_bad (kept : x.voided = false) (bad : sig ≠ x.signature) :
    takenMatched b x sig h =
      failureRise x.screen ((freeBuffer b h).modScreen x.screen fun y =>
        { y with entries := y.entries.modify x.tile fun e => { e with state := .behind, held := none } }) := by
  unfold takenMatched
  dsimp only
  rw [if_neg (Bool.eq_false_iff.1 kept), if_neg bad]
  rfl

theorem refusedMatched_voided (voided : x.voided = true) : refusedMatched b x r h = freeBuffer b h := if_pos voided

theorem refusedMatched_check (kept : x.voided = false) :
    refusedMatched b x .check h =
      failureRise x.screen ((freeBuffer b h).modScreen x.screen fun y =>
        { y with entries := y.entries.modify x.tile fun e => { e with state := .behind } }) :=
  if_neg (Bool.eq_false_iff.1 kept)

theorem refusedMatched_full (kept : x.voided = false) :
    refusedMatched b x .full h =
      (freeBuffer b h).modScreen x.screen fun y =>
        { y with entries := y.entries.modify x.tile fun e => { e with state := .behind } } :=
  if_neg (Bool.eq_false_iff.1 kept)

theorem refusedMatched_lost (kept : x.voided = false) :
    refusedMatched b x .lost h =
      (freeBuffer b h).modScreen x.screen fun y =>
        { y with entries := y.entries.modify x.tile fun e => { e with state := .behind, held := none } } :=
  if_neg (Bool.eq_false_iff.1 kept)

end

theorem refusedReasonOf_none {reason : Byte} (high : 3 ≤ reason.toNat) : refusedReasonOf reason = none := by
  have ne {b : Byte} (low : b.toNat < 3) : reason ≠ b := by
    rintro rfl
    exact absurd high (Nat.not_le.2 low)
  rw [refusedReasonOf, if_neg (ne (by decide)), if_neg (ne (by decide)), if_neg (ne (by decide))]

/-! ### The packets of a screen and of a stranger (R97, R100, R132) -/

section
variable {s : State} {l : Fin 6} {a : Fin 2} {m : Fin 8} {identity : Identity} {tile : Half} {sig : Signature}
  {reason : Byte} {r : RefusedReason} {b : Fin 32} {x : Lend} {h k : Hub}

theorem taken_completes (receiver : receiverOpen s.hub.links[l] = true)
    (answer : takenTaken l (rowByte a) tile sig (touchSilence l (rowByte a) s.hub) = k) :
    Completes (.taken l (rowByte a) tile sig) s k :=
  complete_completes (f := takePacket l (rowByte a) (takenTaken l (rowByte a) tile sig)) rfl
    ((takePacket_taken receiver a _).trans answer)

theorem refused_completes (receiver : receiverOpen s.hub.links[l] = true)
    (answer : refusedTaken l (rowByte a) tile reason (touchSilence l (rowByte a) s.hub) = k) :
    Completes (.refused l (rowByte a) tile reason) s k :=
  complete_completes (f := takePacket l (rowByte a) (refusedTaken l (rowByte a) tile reason)) rfl
    ((takePacket_taken receiver a _).trans answer)

theorem touchSilence_stranger (stranger : h.links[l].rows[a].assignment = .stranger identity) :
    touchSilence l (rowByte a) h = h := by
  rw [touchSilence, rowOf_rowByte]
  dsimp only
  rw [stranger]

theorem takenTaken_matched (sender : senderOf h l (rowByte a) = .screen a m ∨ senderOf h l (rowByte a) = .stranger a)
    (matched : matchSent h l a tile.toNat = some b) (lent : h.buffers[b] = some x) :
    takenTaken l (rowByte a) tile sig h = takenMatched b x sig h := by
  rw [takenTaken]
  rcases sender with e | e
  all_goals
    rw [e]
    dsimp only
    rw [matched]
    dsimp only
    rw [lent]

theorem takenTaken_stray (sender : senderOf h l (rowByte a) = .screen a m)
    (unmatched : matchSent h l a tile.toNat = none) : takenTaken l (rowByte a) tile sig h = countStray l h := by
  rw [takenTaken, sender]
  dsimp only
  rw [unmatched]

theorem refusedTaken_matched (sender : senderOf h l (rowByte a) = .screen a m ∨ senderOf h l (rowByte a) = .stranger a)
    (known : refusedReasonOf reason = some r) (matched : matchSent h l a tile.toNat = some b)
    (lent : h.buffers[b] = some x) :
    refusedTaken l (rowByte a) tile reason h = countIfCheck l r (refusedMatched b x r h) := by
  rw [refusedTaken, known]
  rcases sender with e | e
  all_goals
    rw [e]
    dsimp only
    rw [matched]
    dsimp only
    rw [lent]

section
variable (sender : senderOf h l (rowByte a) = .screen a m ∨ senderOf h l (rowByte a) = .stranger a)
  (matched : matchSent h l a tile.toNat = some b) (lent : h.buffers[b] = some x)
include sender matched lent

theorem refusedTaken_check : refusedTaken l (rowByte a) tile 0 h = checkFailure l (refusedMatched b x .check h) :=
  (refusedTaken_matched (r := .check) sender rfl matched lent).trans (if_pos rfl)

theorem refusedTaken_full : refusedTaken l (rowByte a) tile 1 h = refusedMatched b x .full h :=
  (refusedTaken_matched (r := .full) sender rfl matched lent).trans (if_neg (by decide))

theorem refusedTaken_lost : refusedTaken l (rowByte a) tile 2 h = refusedMatched b x .lost h :=
  (refusedTaken_matched (r := .lost) sender rfl matched lent).trans (if_neg (by decide))

end

theorem refusedTaken_stray (sender : senderOf h l (rowByte a) = .screen a m)
    (known : refusedReasonOf reason = some r) (unmatched : matchSent h l a tile.toNat = none) :
    refusedTaken l (rowByte a) tile reason h = countIfCheck l r (countStray l h) := by
  rw [refusedTaken, sender, known]
  dsimp only
  rw [unmatched]

theorem refusedTaken_unknown (sender : senderOf h l (rowByte a) = .screen a m)
    (unknown : refusedReasonOf reason = none) :
    refusedTaken l (rowByte a) tile reason h = protocolFault l (rowByte a) .reason h := by
  rw [refusedTaken, sender, unknown]

theorem refusedTaken_stranger (sender : senderOf h l (rowByte a) = .stranger a)
    (unknown : refusedReasonOf reason = none) :
    refusedTaken l (rowByte a) tile reason h = countStranger l h := by
  rw [refusedTaken, sender, unknown]

end

theorem replyTimerExpire_eq {h : Hub} {b : Fin 32} {x : Lend} (lent : h.buffers[b] = some x) (sent : x.phase = .sent)
    (due : x.replyTimer = some 0) : replyTimerExpire b h =
      if x.voided then freeBuffer b h
      else failureRise x.screen (modEntry x.screen x.tile Entry.behindUnknown (freeBuffer b h)) := by
  have expires : replyTimerDue h b = true := by
    rw [replyTimerDue, lent]
    dsimp only
    rw [sent, due]
    rfl
  rw [replyTimerExpire, if_pos expires, lent]

/-- Settles O42: the matching, then the replies of screens and of strangers, then the reply timer. -/
theorem repliesAndReplyTimer : Obligations.RepliesAndReplyTimer := by
  refine ⟨fun h l a t fits hf => matchSent_first h l a t hf, ?_, ?_, ?_, fun h n b => ?_⟩
  · rintro s l a m tile h receiver assigned hh
    have sender : senderOf h l (rowByte a) = .screen a m := hh ▸ senderOf_screen assigned
    have matching : matchSent s.hub l a tile.toNat = matchSent h l a tile.toNat := by
      rw [hh, matchSent_touchSilence]
    have buffers : s.hub.buffers = h.buffers := by rw [hh, touchSilence_buffers]
    have taken {sig : Signature} {k : Hub} (answer : takenTaken l (rowByte a) tile sig h = k) :=
      taken_completes receiver (hh ▸ answer)
    have refused {reason : Byte} {k : Hub} (answer : refusedTaken l (rowByte a) tile reason h = k) :=
      refused_completes receiver (hh ▸ answer)
    rw [matching, buffers]
    refine ⟨fun none => ⟨fun sig => ?_, ?_, fun reason known => ?_⟩, fun reason high => ?_, fun b x matched lent =>
      ⟨fun voided => ⟨fun sig => ?_, ?_, ?_, ?_⟩, fun kept => ⟨?_, fun sig bad => ?_, ?_, ?_, ?_⟩⟩⟩
    · exact taken (takenTaken_stray sender none)
    · exact refused (refusedTaken_stray (r := .check) sender rfl none)
    · rcases known with rfl | rfl
      · exact refused (refusedTaken_stray (r := .full) sender rfl none)
      · exact refused (refusedTaken_stray (r := .lost) sender rfl none)
    · exact refused (refusedTaken_unknown sender (refusedReasonOf_none high))
    · exact taken ((takenTaken_matched (.inl sender) matched lent).trans (takenMatched_voided voided))
    · exact refused ((refusedTaken_check (.inl sender) matched lent).trans
        (congrArg (checkFailure l) (refusedMatched_voided voided)))
    · exact refused ((refusedTaken_full (.inl sender) matched lent).trans
        (refusedMatched_voided voided))
    · exact refused ((refusedTaken_lost (.inl sender) matched lent).trans
        (refusedMatched_voided voided))
    · exact taken ((takenTaken_matched (.inl sender) matched lent).trans (takenMatched_good kept))
    · exact taken ((takenTaken_matched (.inl sender) matched lent).trans (takenMatched_bad kept bad))
    · exact refused ((refusedTaken_check (.inl sender) matched lent).trans
        (congrArg (checkFailure l) (refusedMatched_check kept)))
    · exact refused ((refusedTaken_full (.inl sender) matched lent).trans
        (refusedMatched_full kept))
    · exact refused ((refusedTaken_lost (.inl sender) matched lent).trans
        (refusedMatched_lost kept))
  · intro s l a identity tile b x receiver assigned matched lent voided
    have sender : senderOf s.hub l (rowByte a) = .stranger a := by
      rw [← touchSilence_stranger (l := l) assigned]
      exact senderOf_stranger assigned
    have taken {sig : Signature} {k : Hub} (answer : takenTaken l (rowByte a) tile sig s.hub = k) :=
      taken_completes receiver ((congrArg _ (touchSilence_stranger assigned)).trans answer)
    have refused {reason : Byte} {k : Hub} (answer : refusedTaken l (rowByte a) tile reason s.hub = k) :=
      refused_completes receiver ((congrArg _ (touchSilence_stranger assigned)).trans answer)
    refine ⟨fun sig => ?_, ?_, ?_, ?_, fun reason high => ?_⟩
    · exact taken ((takenTaken_matched (m := 0) (.inr sender) matched lent).trans (takenMatched_voided voided))
    · exact refused ((refusedTaken_check (m := 0) (.inr sender) matched lent).trans
        (congrArg (checkFailure l) (refusedMatched_voided voided)))
    · exact refused ((refusedTaken_full (m := 0) (.inr sender) matched lent).trans (refusedMatched_voided voided))
    · exact refused ((refusedTaken_lost (m := 0) (.inr sender) matched lent).trans (refusedMatched_voided voided))
    · exact refused (refusedTaken_stranger sender (refusedReasonOf_none high))
  · intro s b x lent sent due
    have expires := replyTimerExpire_eq lent sent due
    refine ⟨fun voided => ?_, fun kept => ?_⟩
    · exact complete_completes (f := replyTimerExpire b) rfl (expires.trans (if_pos voided))
    · exact complete_completes (f := replyTimerExpire b) rfl (expires.trans (if_neg (Bool.eq_false_iff.1 kept)))
  · refine ⟨failureRise_out, failureRise_more, fun joined high => ?_, rfl⟩
    rw [failureRise_lost joined high, (becomeLost_screens n .failures _).1]
    exact ⟨rfl, rfl, rfl⟩

end Sys2Proof.Machine

/-! O43, O44: the requests about a link. -/

namespace Sys2Proof.Machine

/-! ### LINK-SET (R110, R111, R125) -/

theorem linkSet_inRange {a c d e f : Byte} (la : a.toNat ≤ 5) (lc : c.toNat ≤ 2) (ld : d.toNat ≤ 1)
    (le : e.toNat ≤ 1) (lf : f.toNat ≤ 3) : (Request.linkSet a 1 c d e f).badField = none := by
  have low {b : Byte} {hi : Nat} (l : b.toNat ≤ hi) : ¬((1 : Byte) = 1 ∧ hi < b.toNat) := fun h => Nat.not_lt.2 l h.2
  rw [linkSet_badField, if_neg (Nat.not_lt.2 la), if_neg (by decide), if_neg (low lc), if_neg (low ld), if_neg (low le),
    if_neg (low lf)]

theorem linkSetOff_inRange {a c d e f : Byte} (la : a.toNat ≤ 5) : (Request.linkSet a 0 c d e f).badField = none := by
  have off {b : Byte} {hi : Nat} : ¬((0 : Byte) = 1 ∧ hi < b.toNat) := fun h => absurd h.1 (by decide)
  rw [linkSet_badField, if_neg (Nat.not_lt.2 la), if_neg (by decide), if_neg off, if_neg off, if_neg off, if_neg off]

/-- R125: the settings select level mode on a Parked link in edge mode whose line is asserted. -/
theorem selectsWake_iff {s : LinkSettings} {k : Link} : selectsWake s k = true ↔
    k.state = .parked ∧ k.wakeMode = .edge ∧ s.wakeMode = .level ∧ k.wakeLine = true := by
  simp only [selectsWake, Bool.and_eq_true, beq_iff_eq, and_assoc]

section
variable {h : Hub} {l : Fin 6} {settings : LinkSettings}

theorem enableLink_off (off : h.links[l].state = .off) :
    enableLink l settings h = (h.modLink l (Link.set settings)).modLink l fun k => { k.enterHold with enabled := true } :=
  if_pos off

theorem enableLink_wake (on : h.links[l].state ≠ .off) (wake : selectsWake settings h.links[l] = true) :
    enableLink l settings h = takeWake l (h.modLink l (Link.set settings)) :=
  (if_neg on).trans (if_pos wake)

theorem enableLink_on (on : h.links[l].state ≠ .off) (noWake : ¬selectsWake settings h.links[l] = true) :
    enableLink l settings h = h.modLink l (Link.set settings) := (if_neg on).trans (if_neg noWake)

theorem disableLink_state (l : Fin 6) (h : Hub) : (disableLink l h).links[l].state = .off := by
  unfold disableLink
  dsimp only
  rw [Hub.modLink_links, upd_get_same]

theorem disableRequest_off (off : h.links[l].state = .off) : disableRequest l h = h.done [byteOfFin l, 0] := by
  rw [disableRequest, if_pos off]
  rw [linkStateData, off]
  rfl

theorem disableRequest_on (on : h.links[l].state ≠ .off) :
    disableRequest l h = (disableLink l h).done [byteOfFin l, 0] := by
  rw [disableRequest, if_neg on]
  rw [linkStateData, disableLink_state]
  rfl

end

/-- Settles O43, by the link's state and whether the settings select a wake. -/
theorem linkSet : Obligations.LinkSet := by
  rintro s p tag link cap wakeMode autoWake warmUp _ atOnce low rfl
  rw [← hunting_links p s.hub]
  refine ⟨fun lc lw la lu => ?_, fun off => ?_, fun on => ?_⟩
  · refine ⟨_, _, request_done (r := .linkSet link 1 cap wakeMode autoWake warmUp) rfl atOnce trivial
      (linkSet_inRange low lc lw la lu) (by rw [perform, if_pos rfl]; rfl), rfl, fun off => ?_,
      fun parked edge level line => ?_, fun on other => ?_⟩
    · exact enableLink_off off
    · subst level
      exact enableLink_wake (by rw [parked]; nofun) (selectsWake_iff.2 ⟨parked, edge, rfl, line⟩)
    · refine enableLink_on on fun wake => ?_
      obtain ⟨parked, edge, level, line⟩ := selectsWake_iff.1 wake
      rcases other with ne | isLevel | zero | noLine
      · exact ne parked
      · cases edge.symm.trans isLevel
      · subst zero
        cases level
      · cases line.symm.trans noLine
  · exact request_done (r := .linkSet link 0 cap wakeMode autoWake warmUp) rfl atOnce trivial (linkSetOff_inRange low)
      (by rw [perform, if_neg (by decide), disableRequest_off off])
  · exact request_done (r := .linkSet link 0 cap wakeMode autoWake warmUp) rfl atOnce trivial (linkSetOff_inRange low)
      (by rw [perform, if_neg (by decide), disableRequest_on on])

/-! ### LINK-RESET, LINK-WAKE and LINK-PARK (R123, R126) -/

section
variable {h : Hub} {l : Fin 6}

theorem modLink_linkStateData (h : Hub) (l : Fin 6) (f : Link → Link) :
    linkStateData (h.modLink l f) l = [byteOfFin l, (f h.links[l]).state.code] := by
  rw [linkStateData, Hub.modLink_links, upd_get_same]

theorem resetRequest_off (off : h.links[l].state = .off) :
    resetRequest l h = h.refuse .wrongState [byteOfFin l, 0] := by
  rw [resetRequest, off]
  dsimp only
  rw [linkStateData, off]
  rfl

theorem resetRequest_parked (parked : h.links[l].state = .parked) :
    resetRequest l h =
      (h.modLink l fun x =>
        { x with currentCap := x.configuredCap, state := .waking, rate := none, warm := some x.warmUp.ticks }).done
        [byteOfFin l, 5] := by
  rw [resetRequest, parked]
  dsimp only
  rw [restoreCap, modLink_modLink, modLink_linkStateData]
  rfl

theorem resetRequest_waking (waking : h.links[l].state = .waking) :
    resetRequest l h =
      (h.modLink l fun x => { x with currentCap := x.configuredCap, warm := some x.warmUp.ticks }).done
        [byteOfFin l, 5] := by
  rw [resetRequest, waking]
  dsimp only
  rw [restoreCap, modLink_modLink, modLink_linkStateData, waking]
  rfl

/-- R109: a link that is reset in Training, Rolling, Up or Down is in Training. -/
theorem resetLink_training {cap : LinkRate} (off : h.links[l].state ≠ .off) (parked : h.links[l].state ≠ .parked)
    (waking : h.links[l].state ≠ .waking) : ∃ g, (resetLink l cap h).links[l].state = .training g := by
  have held {k : Hub} {f : Link → Link} (hf : ∀ x, (f x).state = .training .hold) :
      ∃ g, (k.modLink l f).links[l].state = .training g :=
    ⟨.hold, by rw [Hub.modLink_links, upd_get_same, hf]⟩
  rw [resetLink]
  rcases state : h.links[l].state with _ | (_ | r) | _ | _ | _ | _ | _
  · exact absurd state off
  · refine ⟨.hold, ?_⟩
    dsimp only
    rw [Hub.modLink_links, upd_get_same]
    exact state
  · exact held fun _ => rfl
  · exact held fun _ => rfl
  · exact held fun _ => rfl
  · exact absurd state parked
  · exact absurd state waking
  · exact held fun _ => rfl

theorem resetRequest_training (off : h.links[l].state ≠ .off) (parked : h.links[l].state ≠ .parked)
    (waking : h.links[l].state ≠ .waking) :
    resetRequest l h = (resetLink l h.links[l].configuredCap h).done [byteOfFin l, 1] := by
  have data : linkStateData (resetLink l h.links[l].configuredCap h) l = [byteOfFin l, 1] := by
    obtain ⟨g, training⟩ := resetLink_training (cap := h.links[l].configuredCap) off parked waking
    rw [linkStateData, training]
    rfl
  rw [resetRequest, ← data]
  rcases state : h.links[l].state with _ | _ | _ | _ | _ | _ | _
  · exact absurd state off
  · rfl
  · rfl
  · rfl
  · exact absurd state parked
  · exact absurd state waking
  · rfl

theorem wakeRequest_parked (parked : h.links[l].state = .parked) :
    wakeRequest l h =
      (h.modLink l fun x => { x with state := .waking, rate := none, warm := some x.warmUp.ticks }).done
        [byteOfFin l, 5] := by
  rw [wakeRequest, if_pos parked]
  dsimp only
  rw [modLink_linkStateData]
  rfl

theorem wakeRequest_other (other : h.links[l].state ≠ .parked) :
    wakeRequest l h = h.refuse .wrongState [byteOfFin l, h.links[l].state.code] := if_neg other

variable {p : Port}

theorem parkRequest_wrongState (wrong : h.links[l].state ≠ .up ∨ h.links[l].parkPending = true) :
    parkRequest p l h = h.refuse .wrongState [byteOfFin l, h.links[l].state.code] := if_pos wrong

theorem parkRequest_up (up : h.links[l].state = .up) (idle : h.links[l].parkPending = false) :
    ¬(h.links[l].state ≠ .up ∨ h.links[l].parkPending = true) :=
  not_or.2 ⟨not_not.2 up, Bool.eq_false_iff.1 idle⟩

theorem parkRequest_notOwner {n : Fin 8} (up : h.links[l].state = .up) (idle : h.links[l].parkPending = false)
    (foreign : foreignJoined p h l = some n) :
    parkRequest p l h = h.refuse .notOwner [byteOfFin n, portCode h.screens[n].owner] := by
  unfold parkRequest
  dsimp only
  rw [if_neg (parkRequest_up up idle), foreign]

theorem parkRequest_asserted (up : h.links[l].state = .up) (idle : h.links[l].parkPending = false)
    (own : foreignJoined p h l = none) (level : h.links[l].wakeMode = .level) (line : h.links[l].wakeLine = true) :
    parkRequest p l h = h.refuse .wrongState [byteOfFin l, 3] := by
  unfold parkRequest
  dsimp only
  rw [if_neg (parkRequest_up up idle), own]
  dsimp only
  rw [if_pos ⟨level, line⟩, linkStateData, up]
  rfl

theorem parkRequest_done (up : h.links[l].state = .up) (idle : h.links[l].parkPending = false)
    (own : foreignJoined p h l = none) (quiet : h.links[l].wakeMode = .edge ∨ h.links[l].wakeLine = false) :
    parkRequest p l h =
      (h.modLink l fun x => { x with parkPending := true, control := x.control ++ [.park] }).done [byteOfFin l] := by
  have noWake : ¬(h.links[l].wakeMode = .level ∧ h.links[l].wakeLine = true) := by
    rintro ⟨level, line⟩
    rcases quiet with edge | low
    · cases level.symm.trans edge
    · cases line.symm.trans low
  unfold parkRequest
  dsimp only
  rw [if_neg (parkRequest_up up idle), own]
  dsimp only
  rw [if_neg noWake, acceptPark, handPacket, modLink_modLink]

end

theorem foreignJoined_hunting (p : Port) (h : Hub) (l : Fin 6) :
    foreignJoined p (h.hunting p) l = foreignJoined p h l := by
  rw [foreignJoined, boundTo_hunting, hunting_screens]
  rfl

/-- Settles O44, request by request and by the link's state. -/
theorem linkRequests : Obligations.LinkRequests := by
  refine ⟨fun h p l foreign hf => foreignJoined_first p h l hf, ?_, ?_⟩
  · rintro s p tag link _ atOnce low rfl
    rw [← hunting_links p s.hub]
    have reset {k : Hub} {data : List Byte} (answer : resetRequest (linkOf link) (s.hub.hunting p) = k.done data) :
        Completes (.linkReset p tag link) s (reply p 0x41 tag .done data k) :=
      request_done (r := .linkReset link) rfl atOnce trivial (plainBad_low low) answer
    refine ⟨fun off => ?_, fun parked => ⟨reset (resetRequest_parked parked), ?_⟩,
      fun waking => reset (resetRequest_waking waking),
      fun off parked waking => reset (resetRequest_training off parked waking), fun other => ?_⟩
    · exact request_refused (r := .linkReset link) rfl atOnce trivial (plainBad_low low) (resetRequest_off off)
    · exact request_done (r := .linkWake link) rfl atOnce trivial (plainBad_low low) (wakeRequest_parked parked)
    · exact request_refused (r := .linkWake link) rfl atOnce trivial (plainBad_low low) (wakeRequest_other other)
  · rintro s p tag link _ atOnce low rfl
    rw [← hunting_links p s.hub, ← foreignJoined_hunting, ← hunting_screens p s.hub]
    have refused {x : Result} {data : List Byte}
        (answer : parkRequest p (linkOf link) (s.hub.hunting p) = (s.hub.hunting p).refuse x data) :
        Completes (.linkPark p tag link) s (reply p 0x42 tag x data (s.hub.hunting p)) :=
      request_refused (r := .linkPark link) rfl atOnce trivial (plainBad_low low) answer
    refine ⟨fun wrong => refused (parkRequest_wrongState wrong), fun up idle =>
      ⟨fun n foreign => refused (parkRequest_notOwner up idle foreign), fun own =>
        ⟨fun level line => refused (parkRequest_asserted up idle own level line), fun quiet => ?_⟩⟩⟩
    exact request_done (r := .linkPark link) rfl atOnce trivial (plainBad_low low) (parkRequest_done up idle own quiet)

end Sys2Proof.Machine

/-! O45: the levels and the curves. -/

namespace Sys2Proof.Machine

/-! ### Ascending points (R148) -/

theorem adjacent_iff {α : Type} {l : List α} {k : Nat} {a b : α} :
    (l.zip l.tail)[k]? = some (a, b) ↔ l[k]? = some a ∧ l[k + 1]? = some b := by
  rw [List.getElem?_zip_eq_some, List.getElem?_tail]

theorem firstNotAscending_none {points : List CurvePoint} : firstNotAscending points = none ↔
    ∀ k a b, points[k]? = some a → points[k + 1]? = some b → a.reading.toNat < b.reading.toNat := by
  rw [firstNotAscending, Option.map_eq_none_iff, List.findIdx?_eq_none_iff]
  refine ⟨fun ascending k a b ha hb => ?_, fun ascending ⟨a, b⟩ mem => ?_⟩
  · have at' := ascending (a, b) (List.mem_of_getElem? (adjacent_iff.2 ⟨ha, hb⟩))
    simpa using at'
  · obtain ⟨k, at'⟩ := List.mem_iff_getElem?.1 mem
    obtain ⟨ha, hb⟩ := adjacent_iff.1 at'
    simpa using ascending k a b ha hb

theorem firstNotAscending_some {points : List CurvePoint} {k : Nat} : firstNotAscending points = some k ↔
    (∃ a b, 1 ≤ k ∧ points[k - 1]? = some a ∧ points[k]? = some b ∧ b.reading.toNat ≤ a.reading.toNat) ∧
      ∀ m a b, m + 1 < k → points[m]? = some a → points[m + 1]? = some b → a.reading.toNat < b.reading.toNat := by
  rw [firstNotAscending, Option.map_eq_some_iff]
  constructor
  · rintro ⟨j, found, rfl⟩
    obtain ⟨hj, falls, before⟩ := List.findIdx?_eq_some_iff_getElem.1 found
    have at' : (points.zip points.tail)[j]? = some (points.zip points.tail)[j] := List.getElem?_eq_getElem hj
    obtain ⟨ha, hb⟩ := adjacent_iff.1 at'
    refine ⟨⟨_, _, Nat.le_add_left 1 j, ha, hb, by simpa using falls⟩, fun m a b hm ma mb => ?_⟩
    have lt : m < j := Nat.lt_of_succ_lt_succ hm
    have rises := before m lt
    have here := adjacent_iff.2 ⟨ma, mb⟩
    rw [List.getElem?_eq_getElem (lt.trans hj), Option.some_inj] at here
    rw [here] at rises
    simpa using rises
  · rintro ⟨⟨a, b, positive, ha, hb, falls⟩, before⟩
    obtain ⟨j, rfl⟩ := Nat.exists_eq_add_of_le' positive
    rw [Nat.add_sub_cancel] at ha
    have at' := adjacent_iff.2 ⟨ha, hb⟩
    obtain ⟨hj, here⟩ := List.getElem?_eq_some_iff.1 at'
    refine ⟨j, List.findIdx?_eq_some_iff_getElem.2 ⟨hj, by rw [here]; simpa using falls, fun m lt => ?_⟩, rfl⟩
    have mAt : (points.zip points.tail)[m]? = some (points.zip points.tail)[m] := List.getElem?_eq_getElem (lt.trans hj)
    obtain ⟨ma, mb⟩ := adjacent_iff.1 mAt
    simpa using before m _ _ (Nat.succ_lt_succ lt) ma mb

/-! ### A curve's level (R149) -/

/-- A part of a rise, rounded down, is within the rise. -/
theorem tdiv_within {a c w : Int} (rise : 0 ≤ a) (low : 0 ≤ c) (high : c < w) :
    0 ≤ (a * c).tdiv w ∧ (a * c).tdiv w ≤ a := by
  have product : 0 ≤ a * c := Int.mul_nonneg rise low
  rw [Int.tdiv_eq_ediv_of_nonneg product]
  exact ⟨Int.ediv_nonneg product (low.trans high.le),
    Int.ediv_le_of_le_mul (low.trans_lt high) (Int.mul_le_mul_of_nonneg_left high.le rise)⟩

theorem tdiv_between {x y c w : Int} (low : 0 ≤ c) (high : c < w) :
    min x y ≤ x + ((y - x) * c).tdiv w ∧ x + ((y - x) * c).tdiv w ≤ max x y := by
  rcases Int.le_total x y with rises | falls
  · obtain ⟨positive, most⟩ := tdiv_within (Int.sub_nonneg.2 rises) low high
    omega
  · obtain ⟨positive, most⟩ := tdiv_within (Int.sub_nonneg.2 falls) low high
    have mirrored : ((y - x) * c).tdiv w = -((x - y) * c).tdiv w := by
      rw [← Int.neg_tdiv, ← Int.neg_mul, Int.neg_sub]
    omega

/-- R149: between two points the level does not leave theirs. -/
theorem interpolate_toNat {lo hi : CurvePoint} {r : Reading} (low : lo.reading.toNat ≤ r.toNat)
    (high : r.toNat < hi.reading.toNat) : ((interpolate lo hi r).toNat : Int) =
      lo.level.toNat + (((hi.level.toNat : Int) - lo.level.toNat) * ((r.toNat : Int) - lo.reading.toNat)).tdiv
        ((hi.reading.toNat : Int) - lo.reading.toNat) := by
  have loByte := lo.level.isLt
  have hiByte := hi.level.isLt
  obtain ⟨least, most⟩ := tdiv_between (x := lo.level.toNat) (y := hi.level.toNat)
    (c := (r.toNat : Int) - lo.reading.toNat) (w := (hi.reading.toNat : Int) - lo.reading.toNat) (by omega) (by omega)
  unfold interpolate byteOf
  dsimp only
  rw [BitVec.toNat_ofNat]
  generalize (lo.level.toNat : Int) + (((hi.level.toNat : Int) - lo.level.toNat) *
    ((r.toNat : Int) - lo.reading.toNat)).tdiv ((hi.reading.toNat : Int) - lo.reading.toNat) = v at *
  omega

section
variable {r : Reading} {l : List CurvePoint}

/-- R149: the readings of the points ascend. -/
def Ascending (l : List CurvePoint) : Prop := l.Pairwise fun p q => p.reading.toNat < q.reading.toNat

theorem alongCurve_between (ascending : Ascending l) {i : Nat} {lo hi : CurvePoint} (first : l[i]? = some lo)
    (second : l[i + 1]? = some hi) (low : lo.reading.toNat ≤ r.toNat) (high : r.toNat < hi.reading.toNat) :
    alongCurve r l = interpolate lo hi r := by
  induction l generalizing i with
  | nil => cases first
  | cons p l ih =>
    obtain ⟨-, rest⟩ := List.pairwise_cons.1 ascending
    rcases l with _ | ⟨q, l⟩
    · cases second
    · rw [alongCurve]
      cases i with
      | zero =>
        cases first
        cases second
        exact if_pos high
      | succ i =>
        have below : q.reading.toNat ≤ r.toNat := by
          have tail : (q :: l)[i]? = some lo := first
          rcases List.mem_cons.1 (List.mem_of_getElem? tail) with rfl | mem
          · exact low
          · exact ((List.pairwise_cons.1 rest).1 lo mem).le.trans low
        rw [if_neg (Nat.not_lt.2 below)]
        exact ih rest first second

theorem alongCurve_last (ascending : Ascending l) {p : CurvePoint} (last : l.getLast? = some p)
    (low : p.reading.toNat ≤ r.toNat) : alongCurve r l = p.level := by
  induction l with
  | nil => cases last
  | cons q l ih =>
    obtain ⟨-, rest⟩ := List.pairwise_cons.1 ascending
    rcases l with _ | ⟨t, l⟩
    · cases last
      rfl
    · rw [List.getLast?_cons_cons] at last
      have below : t.reading.toNat ≤ r.toNat := by
        rcases List.mem_cons.1 (List.mem_of_getLast? last) with rfl | mem
        · exact low
        · exact ((List.pairwise_cons.1 rest).1 p mem).le.trans low
      rw [alongCurve, if_neg (Nat.not_lt.2 below)]
      exact ih rest last

end

section
variable {curve : Curve} {r : Reading}

theorem curve_at (curve : Curve) (i : Fin 8) : curve.toList[i.val]? = some curve[i] := by
  rw [List.getElem?_eq_getElem (by simp), Vector.getElem_toList]
  rfl

theorem curve_ascending (rises : ∀ i j : Fin 8, i < j → curve[i].reading.toNat < curve[j].reading.toNat) :
    Ascending curve.toList := by
  refine List.pairwise_iff_getElem.2 fun i j hi hj lt => ?_
  rw [Vector.length_toList] at hi hj
  rw [Vector.getElem_toList, Vector.getElem_toList]
  exact rises ⟨i, hi⟩ ⟨j, hj⟩ lt

theorem curveLevel_below (low : r.toNat ≤ curve[(0 : Fin 8)].reading.toNat) :
    curveLevel curve r = curve[(0 : Fin 8)].level := if_pos low

theorem curveLevel_above (rises : ∀ i j : Fin 8, i < j → curve[i].reading.toNat < curve[j].reading.toNat)
    (high : curve[(7 : Fin 8)].reading.toNat ≤ r.toNat) : curveLevel curve r = curve[(7 : Fin 8)].level := by
  have past : ¬r.toNat ≤ curve[(0 : Fin 8)].reading.toNat := Nat.not_le.2 ((rises 0 7 (by decide)).trans_le high)
  have last : curve.toList.getLast? = some curve[(7 : Fin 8)] := by
    rw [List.getLast?_eq_getElem?, Vector.length_toList]
    exact curve_at curve 7
  exact (if_neg past).trans (alongCurve_last (curve_ascending rises) last high)

theorem curveLevel_between (rises : ∀ i j : Fin 8, i < j → curve[i].reading.toNat < curve[j].reading.toNat)
    {i j : Fin 8} (next : j.val = i.val + 1) (low : curve[i].reading.toNat ≤ r.toNat)
    (high : r.toNat < curve[j].reading.toNat) : ((curveLevel curve r).toNat : Int) =
      curve[i].level.toNat +
        (((curve[j].level.toNat : Int) - curve[i].level.toNat) * ((r.toNat : Int) - curve[i].reading.toNat)).tdiv
          ((curve[j].reading.toNat : Int) - curve[i].reading.toNat) := by
  by_cases below : r.toNat ≤ curve[(0 : Fin 8)].reading.toNat
  · obtain rfl : i = 0 := by
      by_contra ne
      exact absurd (rises 0 i (Fin.pos_iff_ne_zero.2 ne)) (Nat.not_lt.2 (low.trans below))
    have same : r.toNat = curve[(0 : Fin 8)].reading.toNat := below.antisymm low
    rw [curveLevel_below below, same, Int.sub_self, Int.mul_zero, Int.zero_tdiv, Int.add_zero]
  · have along : curveLevel curve r = interpolate curve[i] curve[j] r :=
      (if_neg below).trans (alongCurve_between (curve_ascending rises) (curve_at curve i) (next ▸ curve_at curve j) low high)
    rw [along, interpolate_toNat low high]

end

/-! ### LEVEL-SET and CURVE-SET (R147, R148) -/

theorem levelSet_inRange {a b c d e f : Byte} (la : a.toNat ≤ 7) (lb : b.toNat ≤ 1) (le : e.toNat ≤ 1)
    (lf : f.toNat ≤ 3) : (Request.levelSet a b c d e f).badField = none := by
  rw [levelSet_badField, if_neg (Nat.not_lt.2 la), if_neg (Nat.not_lt.2 lb), if_neg (Nat.not_lt.2 le),
    if_neg (Nat.not_lt.2 lf)]

theorem byte_zero_or_one {b : Byte} (low : b.toNat ≤ 1) : b = 0 ∨ b = 1 := by
  rw [byte_eq_zero_iff, byte_eq_one_iff]
  omega

theorem levelMode_code {b : Byte} (low : b.toNat ≤ 1) : (levelModeOf b).code = b := by
  rcases byte_zero_or_one low with rfl | rfl <;> rfl

/-- R147: the target that LEVEL-SET sets. -/
theorem chosenTarget_eq {h : Hub} {mode target t : Byte} {i : Fin 2} {k : Fin 4} (low : mode.toNat ≤ 1)
    (manual : mode = 0 → t = target) (dark : mode = 1 → h.lights[i].reading = none → t = target)
    (light : ∀ r, mode = 1 → h.lights[i].reading = some r → t = curveLevel h.curves[k] r) :
    chosenTarget h (levelModeOf mode) target i k = t := by
  rcases byte_zero_or_one low with rfl | rfl
  · rw [manual rfl]
    unfold chosenTarget
    rfl
  · unfold chosenTarget
    rcases reading : h.lights[i].reading with _ | r
    · exact (dark rfl reading).symm
    · exact (light r rfl reading).symm

theorem hunting_lights (p : Port) (h : Hub) : (h.hunting p).lights = h.lights := Hub.modPort_lights h p _
theorem hunting_curves (p : Port) (h : Hub) : (h.hunting p).curves = h.curves := Hub.modPort_curves h p _

/-- Settles O45: the ascending points, the two requests, and a curve's level. -/
theorem levelsAndCurves : Obligations.LevelsAndCurves := by
  refine ⟨fun points => ⟨firstNotAscending_none, fun k => firstNotAscending_some⟩, fun s p tag atOnce => ⟨?_, ?_⟩,
    fun curve r rises => ⟨curveLevel_below, curveLevel_above rises, fun i j => curveLevel_between rises⟩⟩
  · rintro screen mode target step input curve _ t ls lm li lc rfl bound owner manual dark light
    rw [← hunting_lights p s.hub] at dark
    rw [← hunting_lights p s.hub, ← hunting_curves p s.hub] at light
    have chosen := chosenTarget_eq lm manual dark light
    refine request_done (r := .levelSet screen mode target step input curve) rfl atOnce trivial
      (levelSet_inRange ls lm li lc) ((asOwner_hunting bound owner _).trans ?_)
    rw [setLevel, chosen, levelMode_code lm, hunting_screens]
  · intro curve points low length good
    have inRange : (Request.curveSet curve points).badField = none := by
      rw [curveSet_badField, if_neg (Nat.not_lt.2 low), good]
    rw [← hunting_curves p s.hub]
    refine ⟨fun ascending => ?_, fun k falls => ?_⟩
    · refine request_done (r := .curveSet curve points) rfl atOnce length inRange ?_
      rw [perform, setCurve, ascending]
    · refine request_refused (r := .curveSet curve points) rfl atOnce length inRange ?_
      rw [perform, setCurve, falls]

end Sys2Proof.Machine

/-! O46: the level tick and the light conversions. -/

namespace Sys2Proof.Machine

/-! ### One step of a ramp (R146) -/

theorem tick_rest (v : Level) : v.tick = { v with current := v.tick.current } := by
  rw [Level.tick]
  split
  · rfl
  · split <;> rfl

theorem tick_noStep {v : Level} (still : v.step = 0) : v.tick.current = v.target := by
  rw [Level.tick, if_pos still]

theorem tick_up {v : Level} (step : v.step ≠ 0) (low : v.current.toNat ≤ v.target.toNat) :
    v.tick.current.toNat = min (v.current.toNat + v.step.toNat) v.target.toNat := by
  have target := v.target.isLt
  rw [Level.tick, if_neg step]
  split
  · rw [byteOf, BitVec.toNat_ofNat]
    omega
  · rw [byteOf, BitVec.toNat_ofNat]
    omega

theorem tick_down {v : Level} (step : v.step ≠ 0) (high : v.target.toNat < v.current.toNat) :
    v.tick.current.toNat = max (v.current.toNat - v.step.toNat) v.target.toNat := by
  have current := v.current.isLt
  rw [Level.tick, if_neg step, if_neg (Nat.not_lt.2 high.le), byteOf, BitVec.toNat_ofNat]
  omega

/-! ### The level tick (R146, R150) -/

theorem addressOf_congr {h k : Hub} {n : Fin 8} (link : k.screens[n].link = h.screens[n].link)
    (rows : ∀ (l : Fin 6) (a : Fin 2), k.links[l].rows[a].assignment = h.links[l].rows[a].assignment) :
    addressOf k n = addressOf h n := by
  unfold addressOf
  rw [link]
  simp only [rows]

/-- R150: the LEVEL that a ramp of the screen hands to the link. -/
def rampPacket (h : Hub) (l : Fin 6) (n : Fin 8) : Option Packet :=
  (addressOf h n).bind fun x =>
    if x.1 = l ∧ h.screens[n].state = .joined ∧ h.screens[n].level.tick.current ≠ h.screens[n].level.current then
      some (.level x.2 h.screens[n].level.tick.current)
    else none

/-- R146, R150: `k` is `h` with the screens of `ns` ramped. -/
structure Ramped (ns : List (Fin 8)) (h k : Hub) : Prop where
  rest : k = { h with screens := k.screens, links := k.links }
  screens : ∀ n : Fin 8, k.screens[n] =
    if n ∈ ns then { h.screens[n] with level := h.screens[n].level.tick } else h.screens[n]
  links : ∀ l : Fin 6, k.links[l] =
    { h.links[l] with control := h.links[l].control ++ ns.filterMap (rampPacket h l) }

theorem Ramped.packet {ns : List (Fin 8)} {h k : Hub} (a : Ramped ns h k) {n : Fin 8} (out : n ∉ ns) (l : Fin 6) :
    rampPacket k l n = rampPacket h l n := by
  have screen : k.screens[n] = h.screens[n] := by rw [a.screens, if_neg out]
  have address : addressOf k n = addressOf h n :=
    addressOf_congr (by rw [screen]) fun m b => by rw [a.links]
  rw [rampPacket, rampPacket, screen, address]

section
variable {h k : Hub} {n : Fin 8}

/-- R146: the slots, where one screen's level steps. -/
theorem ramped_screens (hk : k.screens = upd h.screens n fun x => { x with level := h.screens[n].level.tick })
    (m : Fin 8) : k.screens[m] =
      if m ∈ [n] then { h.screens[m] with level := h.screens[m].level.tick } else h.screens[m] := by
  rw [hk]
  rcases eq_or_ne m n with rfl | ne
  · rw [upd_get_same, if_pos (List.mem_singleton.2 rfl)]
  · rw [upd_get_other _ _ ne.symm, if_neg fun e => ne (List.mem_singleton.1 e)]

theorem ramped_silent {l : Fin 6} (links : k.links = h.links) (none : rampPacket h l n = none) :
    k.links[l] = { h.links[l] with control := h.links[l].control ++ [n].filterMap (rampPacket h l) } := by
  rw [links, List.filterMap_cons_none none, List.filterMap_nil, List.append_nil]

theorem rampPacket_none {l : Fin 6} (silent : ∀ a, addressOf h n = some (l, a) →
      ¬(h.screens[n].state = .joined ∧ h.screens[n].level.tick.current ≠ h.screens[n].level.current)) :
    rampPacket h l n = none := by
  rw [rampPacket]
  rcases address : addressOf h n with _ | ⟨m, a⟩
  · rfl
  · refine if_neg ?_
    rintro ⟨rfl, joined, moves⟩
    exact silent a address ⟨joined, moves⟩

theorem rampPacket_some {l : Fin 6} {a : Fin 2} (address : addressOf h n = some (l, a))
    (joined : h.screens[n].state = .joined) (moves : h.screens[n].level.tick.current ≠ h.screens[n].level.current) :
    rampPacket h l n = some (.level a h.screens[n].level.tick.current) := by
  rw [rampPacket, address]
  exact if_pos ⟨rfl, joined, moves⟩

theorem rampScreen_still (still : h.screens[n].level.tick.current = h.screens[n].level.current) :
    rampScreen h n = h := if_pos still

theorem ramped_here (h : Hub) (n : Fin 8) : (h.modLevel n fun _ => h.screens[n].level.tick).screens[n] =
    { h.screens[n] with level := h.screens[n].level.tick } := upd_get_same _ _ _

theorem ramped_address (h : Hub) (n : Fin 8) :
    addressOf (h.modLevel n fun _ => h.screens[n].level.tick) n = addressOf h n :=
  addressOf_congr (by rw [ramped_here]) fun _ _ => rfl

theorem rampScreen_hands {l : Fin 6} {a : Fin 2}
    (moves : h.screens[n].level.tick.current ≠ h.screens[n].level.current) (address : addressOf h n = some (l, a))
    (joined : h.screens[n].state = .joined) : rampScreen h n =
      handPacket l (.level a h.screens[n].level.tick.current) (h.modLevel n fun _ => h.screens[n].level.tick) := by
  unfold rampScreen
  dsimp only
  rw [if_neg moves, ramped_address, ramped_here, address]
  exact if_pos joined

theorem rampScreen_silent (moves : h.screens[n].level.tick.current ≠ h.screens[n].level.current)
    (out : addressOf h n = none ∨ h.screens[n].state ≠ .joined) :
    rampScreen h n = h.modLevel n fun _ => h.screens[n].level.tick := by
  unfold rampScreen
  dsimp only
  rw [if_neg moves, ramped_address, ramped_here]
  rcases address : addressOf h n with _ | ⟨l, a⟩
  · rfl
  · rcases out with none | away
    · cases none.symm.trans address
    · exact if_neg away

theorem rampScreen_ramped (h : Hub) (n : Fin 8) : Ramped [n] h (rampScreen h n) := by
  by_cases still : h.screens[n].level.tick.current = h.screens[n].level.current
  · rw [rampScreen_still still]
    have same : h.screens[n].level.tick = h.screens[n].level := by rw [tick_rest, still]
    refine ⟨rfl, fun m => ?_, fun l => ramped_silent rfl (rampPacket_none fun a _ moves => moves.2 still)⟩
    split
    · next here =>
      rw [List.mem_singleton.1 here, same]
    · rfl
  · by_cases shown : (∃ l a, addressOf h n = some (l, a)) ∧ h.screens[n].state = .joined
    · obtain ⟨⟨l, a, address⟩, joined⟩ := shown
      rw [rampScreen_hands still address joined]
      refine ⟨rfl, ramped_screens rfl, fun m => ?_⟩
      rw [handPacket, Hub.modLink_links]
      rcases eq_or_ne l m with rfl | ne
      · rw [upd_get_same, List.filterMap_cons_some (rampPacket_some address joined still), List.filterMap_nil]
        rfl
      · rw [upd_get_other _ _ ne]
        refine ramped_silent rfl (rampPacket_none fun b there => ?_)
        cases address.symm.trans there
        exact absurd rfl ne
    · have out : addressOf h n = none ∨ h.screens[n].state ≠ .joined := by
        rcases address : addressOf h n with _ | ⟨l, a⟩
        · exact .inl rfl
        · exact .inr fun joined => shown ⟨⟨l, a, address⟩, joined⟩
      rw [rampScreen_silent still out]
      exact ⟨rfl, ramped_screens rfl, fun m => ramped_silent rfl (rampPacket_none fun b there moves =>
        shown ⟨⟨m, b, there⟩, moves.1⟩)⟩

end

theorem foldl_rampScreen (ns : List (Fin 8)) (nodup : ns.Nodup) (h : Hub) : Ramped ns h (ns.foldl rampScreen h) := by
  induction ns generalizing h with
  | nil =>
    refine ⟨rfl, fun n => (if_neg List.not_mem_nil).symm, fun l => ?_⟩
    rw [List.filterMap_nil, List.append_nil]
    rfl
  | cons n ns ih =>
    obtain ⟨new, nodup⟩ := List.nodup_cons.1 nodup
    have first := rampScreen_ramped h n
    have rest := ih nodup (rampScreen h n)
    rw [List.foldl_cons]
    generalize rampScreen h n = g at first rest
    generalize ns.foldl rampScreen g = k at rest
    refine ⟨?_, fun m => ?_, fun l => ?_⟩
    · rw [rest.rest, first.rest]
    · rcases eq_or_ne m n with rfl | ne
      · rw [rest.screens, if_neg new, first.screens, if_pos (List.mem_singleton.2 rfl), if_pos List.mem_cons_self]
      · have before : g.screens[m] = h.screens[m] := by
          rw [first.screens, if_neg fun e => ne (List.mem_singleton.1 e)]
        rw [rest.screens, before]
        simp only [List.mem_cons, ne, false_or]
    · have later : ns.filterMap (rampPacket g l) = ns.filterMap (rampPacket h l) :=
        List.filterMap_congr fun m mem => first.packet (fun e => new (List.mem_singleton.1 e ▸ mem)) l
      have packets : (n :: ns).filterMap (rampPacket h l) =
          [n].filterMap (rampPacket h l) ++ ns.filterMap (rampPacket h l) :=
        List.filterMap_append (l := [n]) (l' := ns)
      rw [rest.links, first.links, later, packets, List.append_assoc]

/-! ### The end of a light conversion (R151) -/

/-- R149: the slot of a screen whose target follows the reading of an input. -/
def retargeted (i : Fin 2) (r : Reading) (curves : Vector Curve 4) (x : Screen) : Screen :=
  if x.bound ∧ x.level.mode = .ambient ∧ x.level.input = i then
    { x with level := { x.level with target := curveLevel curves[x.level.curve] r } }
  else x

theorem foldl_modScreen (f : Screen → Screen) (ns : List (Fin 8)) (nodup : ns.Nodup) (h : Hub) :
    ∃ v : Vector Screen 8, ns.foldl (fun h n => h.modScreen n f) h = { h with screens := v } ∧
      ∀ n : Fin 8, v[n] = if n ∈ ns then f h.screens[n] else h.screens[n] := by
  induction ns generalizing h with
  | nil => exact ⟨h.screens, rfl, fun n => (if_neg List.not_mem_nil).symm⟩
  | cons m ns ih =>
    obtain ⟨new, nodup⟩ := List.nodup_cons.1 nodup
    obtain ⟨v, eq, at'⟩ := ih nodup (h.modScreen m f)
    refine ⟨v, eq, fun n => ?_⟩
    rw [at', Hub.modScreen_screens]
    rcases eq_or_ne n m with rfl | ne
    · rw [upd_get_same, if_neg new, if_pos List.mem_cons_self]
    · rw [upd_get_other _ _ ne.symm]
      simp only [List.mem_cons, ne, false_or]

theorem modScreen_of_same {h : Hub} {n : Fin 8} {f : Screen → Screen} (same : f h.screens[n] = h.screens[n]) :
    h.modScreen n f = h := by
  refine congrArg (fun v => ({ h with screens := v } : Hub)) (vector_ext fun m => ?_)
  rw [upd_get]
  split
  · next here => rw [← here, same]
  · rfl

theorem retarget_eq (i : Fin 2) (r : Reading) (h : Hub) (n : Fin 8) :
    retarget i r h n = h.modScreen n (retargeted i r h.curves) := by
  unfold retarget
  dsimp only
  split
  · next follows => exact congrArg (fun v => ({ h with screens := v } : Hub)) (upd_congr (if_pos follows).symm)
  · next stays => exact (modScreen_of_same (if_neg stays)).symm

theorem foldl_retarget (i : Fin 2) (r : Reading) (ns : List (Fin 8)) (h : Hub) {curves : Vector Curve 4}
    (hc : h.curves = curves) :
    ns.foldl (retarget i r) h = ns.foldl (fun h n => h.modScreen n (retargeted i r curves)) h := by
  induction ns generalizing h with
  | nil => rfl
  | cons n ns ih =>
    rw [List.foldl_cons, List.foldl_cons, retarget_eq, hc]
    exact ih (h.modScreen n (retargeted i r curves)) hc

/-- Settles O46: the level tick, then the conversions. -/
theorem levelAndLight : Obligations.LevelAndLight := by
  refine fun s => ⟨fun due => ?_, fun early => ?_, fun due => ?_, fun i r due => ?_⟩
  · have ramped := foldl_rampScreen allScreens allScreens_nodup { s.hub with levelDue := false }
    have tick : levelTick s.hub = allScreens.foldl rampScreen { s.hub with levelDue := false } := if_pos due
    generalize allScreens.foldl rampScreen { s.hub with levelDue := false } = k at ramped tick
    refine ⟨k.screens, k.links, complete_completes (f := levelTick) rfl (tick.trans ramped.rest), fun n =>
      ⟨_, s.hub.screens[n].level.tick.current, rfl, ?_, tick_noStep, fun step low => tick_up step low,
        fun step high => tick_down step high⟩, fun l => ?_⟩
    · rw [ramped.screens, if_pos (mem_allScreens n), ← tick_rest]
    · rw [ramped.links]
      refine congrArg (fun v => ({ s.hub.links[l] with control := s.hub.links[l].control ++ v } : Link))
        (List.filterMap_congr fun n _ => ?_)
      have address : addressOf { s.hub with levelDue := false } n = addressOf s.hub n := rfl
      rw [ramped.screens, if_pos (mem_allScreens n), rampPacket, address]
      rcases addressOf s.hub n with _ | ⟨m, a⟩ <;> rfl
  · exact complete_completes (f := levelTick) rfl (if_neg (Bool.eq_false_iff.1 early))
  · exact complete_completes (f := startConversions) rfl (if_pos due)
  · have ends : endConversion i r s.hub = allScreens.foldl (retarget i r)
        (s.hub.modLight i fun _ => { reading := some r, conversion := none }) := if_pos (Timer.due_iff.2 due)
    have folded := foldl_retarget i r allScreens
      (s.hub.modLight i fun _ => { reading := some r, conversion := none }) (curves := s.hub.curves) rfl
    obtain ⟨v, eq, at'⟩ := foldl_modScreen (retargeted i r s.hub.curves) allScreens allScreens_nodup
      (s.hub.modLight i fun _ => { reading := some r, conversion := none })
    refine ⟨v, complete_completes (f := endConversion i r) rfl (ends.trans (folded.trans eq)), fun n => ?_⟩
    rw [at', if_pos (mem_allScreens n)]
    rfl

end Sys2Proof.Machine

/-! O47: training, loss of lock and reset. -/

namespace Sys2Proof.Machine

/-! ### What a disable and a reset clear (R109, R111, R112) -/

/-- R109: nothing is left on the link; the hold and the rate that was cut apart. -/
def Link.IsCleared (x : Link) : Prop := x = { x.cleared with hold := x.hold, cutRate := x.cutRate }

/-- R109: the buffers of the link are free, its screens Missing; the link becomes what `g` says. -/
def clearTo (l : Fin 6) (g : Link → Link) (h : Hub) : Hub := (dropScreens l (freeLinkBuffers l h)).modLink l g

/-- R109, R111: the states in which a reset clears the link. -/
def Link.Resettable (x : Link) : Prop :=
  x.state = .up ∨ x.state = .rolling ∨ x.state = .down ∨ ∃ r, x.state = .training (.attempt r)

def Link.disabled (x : Link) : Link :=
  { x.cleared with enabled := false, state := .off, line := x.line.map fun o => { o with dead := true } }

section
variable {l : Fin 6} {g : Link → Link} {h : Hub}

theorem disableLink_clearTo : disableLink l h = clearTo l Link.disabled h := rfl

theorem resetLink_clearTo {cap : LinkRate} (state : h.links[l].Resettable) :
    resetLink l cap h = clearTo l (fun x => { x.enterHold with currentCap := cap }) h := by
  rw [resetLink]
  rcases state with s | s | s | ⟨r, s⟩ <;> rw [s] <;> rfl

theorem clearTo_link : (clearTo l g h).links[l] = g (dropScreens l (freeLinkBuffers l h)).links[l] := by
  rw [clearTo, Hub.modLink_links, upd_get_same]

theorem clearTo_rest : Rest h (clearTo l g h) := by
  have dropped := dropScreens_rest l (freeLinkBuffers l h)
  have freed : Rest h (freeLinkBuffers l h) := rfl
  exact (freed.trans dropped).trans rfl

theorem clearTo_buffers (b : Fin 32) (x : Lend) (lent : (clearTo l g h).buffers[b] = some x) : x.link ≠ l :=
  (dropScreens_onLink l (freeLinkBuffers l h)).buffers (fun b x e => ((freeLinkBuffers_get l h b x).1 e).2) b x lent

theorem clearTo_missing (n : Fin 8) (link : (clearTo l g h).screens[n].link = some l)
    (bound : (clearTo l g h).screens[n].bound = true) : (clearTo l g h).screens[n].state = .missing :=
  dropScreens_missing l (freeLinkBuffers l h) n link bound

/-- R109: on the link itself the aborts change only what the clear sets anew. -/
theorem dropped_link :
    ∃ control line rows tiles sentOrder, (dropScreens l (freeLinkBuffers l h)).links[l] =
      { h.links[l] with control := control, line := line, rows := rows, tiles := tiles, sentOrder := sentOrder } ∧
        (line = none ↔ h.links[l].line = none) := by
  have dropped := dropScreens_onLink l (freeLinkBuffers l h)
  have freed : (freeLinkBuffers l h).links[l] = { h.links[l] with tiles := [], sentOrder := [] } := by
    rw [freeLinkBuffers, Hub.modLink_links, upd_get_same]
  obtain ⟨same, -⟩ := dropped.link
  have line := dropped.line
  rw [freed] at same line
  generalize (dropScreens l (freeLinkBuffers l h)).links[l] = x at same line
  exact ⟨x.control, x.line, x.rows, x.tiles, x.sentOrder, same, line⟩

end

/-! ### The screens, groups and buffers of a cleared link -/

section
variable {l : Fin 6} {g : Link → Link} {h : Hub} {drops : Fin 8 → Bool} {kept : Fin 32 → Bool}

/-- R101: a buffer whose screen is dropped while it is queued and not in transmission is free. -/
def staysQueued (drops : Fin 8 → Bool) (y : Lend) : Bool :=
  !(drops y.screen && y.phase == .queued && !y.inTransmission)

theorem contains_filter (n : Fin 8) : (allScreens.filter drops).contains n = drops n := by
  rw [Bool.eq_iff_iff, List.contains_iff_mem, List.mem_filter, and_iff_right (mem_allScreens _)]

theorem mem_filter_allScreens {n : Fin 8} : n ∈ allScreens.filter drops ↔ drops n = true := by
  rw [List.mem_filter, and_iff_right (mem_allScreens _)]

theorem keptAll_some (y : Lend) : keptAll (allScreens.filter drops) (some y) = staysQueued drops y := by
  unfold keptAll
  dsimp only
  rw [contains_filter, staysQueued]

theorem voidedAll_filter (y : Lend) :
    voidedAll (allScreens.filter drops) (some y) =
      if staysQueued drops y = false then none
      else if drops y.screen = true then some { y with voided := true } else some y := by
  have free : staysQueued drops y = false ↔
      y.screen ∈ allScreens.filter drops ∧ y.phase = .queued ∧ y.inTransmission = false := by
    rw [mem_filter_allScreens, staysQueued]
    cases drops y.screen <;> cases y.inTransmission <;> simp
  unfold voidedAll
  dsimp only
  by_cases dropped : drops y.screen = true
  · rw [if_pos (mem_filter_allScreens.2 dropped), if_pos dropped]
    exact if_congr (free.trans (and_iff_right (mem_filter_allScreens.2 dropped))).symm rfl rfl
  · rw [if_neg fun mem => dropped (mem_filter_allScreens.1 mem), if_neg dropped,
      if_neg fun e => dropped (mem_filter_allScreens.1 (free.1 e).1)]

/-- R109, R111: the screens of the link that are dropped. -/
def Drops (l : Fin 6) (h : Hub) (drops : Fin 8 → Bool) : Prop :=
  ∀ n, drops n = true ↔ h.screens[n].link = some l ∧
    (h.screens[n].state = .joined ∨ h.screens[n].state = .lost ∨ h.screens[n].state = .parked)

theorem Drops.dropped (d : Drops l h drops) :
    AbortedAll (allScreens.filter drops) (fun x => { x with state := .missing }) (freeLinkBuffers l h)
      (dropScreens l (freeLinkBuffers l h)) := clear_abortedAll l (freeLinkBuffers l h) drops d

theorem Drops.sources (d : Drops l h drops) :
    (clearTo l g h).slots = ((allScreens.filter drops).foldl (fun h n => leaveSources n h) h).slots ∧
      (clearTo l g h).plates = ((allScreens.filter drops).foldl (fun h n => leaveSources n h) h).plates := by
  obtain ⟨slots, plates⟩ := foldl_leaveSources_slots (allScreens.filter drops) (h := h) (k := freeLinkBuffers l h) rfl rfl
  exact ⟨d.dropped.slots.trans slots, d.dropped.plates.trans plates⟩

theorem Drops.screens (d : Drops l h drops) (n : Fin 8) :
    (clearTo l g h).screens[n] =
      if drops n = true then { h.screens[n].aborted with state := .missing } else h.screens[n] :=
  (d.dropped.screens n).trans (if_congr mem_filter_allScreens rfl rfl)

theorem Drops.running (d : Drops l h drops) (j : Fin 4) (n : Fin 8) :
    (clearTo l g h).groups[j].running[n] = (h.groups[j].running[n] && !drops n) := by
  rw [← contains_filter (drops := drops)]
  exact d.dropped.running j n

theorem Drops.buffers (d : Drops l h drops) {b : Fin 32} {y : Lend} (lent : h.buffers[b] = some y) :
    (clearTo l g h).buffers[b] =
      if y.link = l ∨ staysQueued drops y = false then none
      else if drops y.screen = true then some { y with voided := true } else some y := by
  have voided := d.dropped.buffers b
  by_cases here : y.link = l
  · rw [if_pos (.inl here)]
    have free : (freeLinkBuffers l h).buffers[b] = none := by
      refine Option.eq_none_iff_forall_ne_some.2 fun x e => ?_
      obtain ⟨was, other⟩ := (freeLinkBuffers_get l h b x).1 e
      cases lent.symm.trans was
      exact other here
    rw [free] at voided
    exact voided
  · rw [(freeLinkBuffers_get l h b y).2 ⟨lent, here⟩, voidedAll_filter] at voided
    exact voided.trans (if_congr (or_iff_right here).symm rfl rfl)

theorem Drops.away (d : Drops l h drops) {m : Fin 6} (ne : m ≠ l) {kept : Fin 32 → Bool}
    (hk : ∀ b, keptAll (allScreens.filter drops) (freeLinkBuffers l h).buffers[b] = kept b) :
    (clearTo l g h).links[m] =
      { h.links[m] with tiles := h.links[m].tiles.filter kept, sentOrder := h.links[m].sentOrder.filter kept } := by
  have before : (freeLinkBuffers l h).links[m] = h.links[m] := by
    rw [freeLinkBuffers, Hub.modLink_links, upd_get_other _ _ ne.symm]
  have same := d.dropped.elsewhere m fun n mem linked =>
    ne (Option.some_injective _ (linked.symm.trans ((d n).1 (mem_filter_allScreens.1 mem)).1))
  rw [d.dropped.tiles, d.dropped.sentOrder, before] at same
  simp only [hk] at same
  rw [clearTo, Hub.modLink_links, upd_get_other _ _ ne.symm, same]

/-- R101: what stays queued, of a buffer of another link that a drop can free. -/
theorem keptAll_freed (b : Fin 32) :
    keptAll (allScreens.filter drops) (freeLinkBuffers l h).buffers[b] = true ↔
      ∀ y, h.buffers[b] = some y → y.link = l ∨ staysQueued drops y = true := by
  rcases lent : (freeLinkBuffers l h).buffers[b] with _ | x
  · refine iff_of_true rfl fun y e => .inl ?_
    by_contra other
    cases lent.symm.trans ((freeLinkBuffers_get l h b y).2 ⟨e, other⟩)
  · obtain ⟨was, other⟩ := (freeLinkBuffers_get l h b x).1 lent
    rw [keptAll_some]
    refine ⟨fun stays y e => ?_, fun all => (all x was).resolve_left other⟩
    cases was.symm.trans e
    exact .inr stays

end

end Sys2Proof.Machine

namespace Sys2Proof.Machine

/-! ### Training (R109, R111, R121) -/

section
variable {s : State} {l : Fin 6} {k : Link}

theorem modLink_attempt {f : Link → Link} {r : LinkRate} {h : Hub} (hk : k = h.links[l])
    (attempt : f k = k.beginAttempt r) : h.modLink l f = h.modLink l fun _ => k.beginAttempt r :=
  congrArg (fun v => ({ h with links := v } : Hub)) (upd_congr (hk ▸ attempt))

theorem holdExpiry_completes (hk : k = s.hub.links[l]) (state : k.state = .training .hold) (due : k.hold = some 0) :
    Completes (.holdTimerExpiry l) s (s.hub.modLink l fun _ => k.beginAttempt k.currentCap) := by
  have ends : holdDue s.hub l = true := by
    simp only [holdDue, ← hk, state, due, Bool.and_eq_true, beq_iff_eq, Timer.due_iff, and_self]
  exact complete_completes (f := holdExpire l) rfl ((if_pos ends).trans (modLink_attempt hk rfl))

theorem retryExpiry_completes (hk : k = s.hub.links[l]) (state : k.state = .down) (due : k.retry = some 0) :
    Completes (.retryTimerExpiry l) s (s.hub.modLink l fun _ => k.beginAttempt k.currentCap) := by
  have ends : retryDue s.hub l = true := by
    simp only [retryDue, ← hk, state, due, Bool.and_eq_true, beq_iff_eq, Timer.due_iff, and_self]
  exact complete_completes (f := retryExpire l) rfl ((if_pos ends).trans (modLink_attempt hk rfl))

theorem warmExpiry_completes (hk : k = s.hub.links[l]) (state : k.state = .waking) (due : k.warm = some 0) :
    Completes (.warmUpTimerExpiry l) s (s.hub.modLink l fun _ => k.beginAttempt k.currentCap) := by
  have ends : warmDue s.hub l = true := by
    simp only [warmDue, ← hk, state, due, Bool.and_eq_true, beq_iff_eq, Timer.due_iff, and_self]
  exact complete_completes (f := warmExpire l) rfl ((if_pos ends).trans (modLink_attempt hk rfl))

theorem attemptRate_iff {r : LinkRate} : attemptRate k = some r ↔ k.state = .training (.attempt r) := by
  unfold attemptRate
  rcases k.state with _ | (_ | q) | _ | _ | _ | _ | _ <;> simp

theorem attemptDue_of {r : LinkRate} {h : Hub} (hk : k = h.links[l]) (state : k.state = .training (.attempt r))
    (due : k.attempt = some 0) : attemptDue h l = true ∧ attemptRate h.links[l] = some r := by
  have rate : attemptRate h.links[l] = some r := hk ▸ attemptRate_iff.2 state
  refine ⟨?_, rate⟩
  rw [attemptDue, rate, ← hk, due]
  rfl

/-- R111: the next lower rate is tried. -/
theorem attemptExpiry_lower {r lower : LinkRate} (hk : k = s.hub.links[l]) (state : k.state = .training (.attempt r))
    (due : k.attempt = some 0) (step : r = .six ∧ lower = .three ∨ r = .three ∧ lower = .oneHalf) :
    Completes (.attemptTimerExpiry l) s (s.hub.modLink l fun _ => k.beginAttempt lower) := by
  obtain ⟨ends, rate⟩ := attemptDue_of hk state due
  refine complete_completes (f := attemptExpire l) rfl ?_
  rw [attemptExpire, if_pos ends, rate]
  rcases step with ⟨rfl, rfl⟩ | ⟨rfl, rfl⟩
  · exact modLink_attempt hk rfl
  · exact modLink_attempt hk rfl

/-- R111: no rate was found. -/
theorem attemptExpiry_down (hk : k = s.hub.links[l]) (state : k.state = .training (.attempt .oneHalf))
    (due : k.attempt = some 0) :
    Completes (.attemptTimerExpiry l) s
      (notify (linkPorts s.hub l) .linkFault [byteOfFin l, 0, k.currentCap.code]
        (s.hub.modLink l fun _ => { k with state := .down, attempt := none, retry := some 500 })) := by
  obtain ⟨ends, rate⟩ := attemptDue_of hk state due
  refine complete_completes (f := attemptExpire l) rfl ?_
  have down : s.hub.modLink l (fun k => { k with state := .down, attempt := none, retry := some Config.retryTicks }) =
      s.hub.modLink l fun _ => { k with state := .down, attempt := none, retry := some 500 } :=
    congrArg (fun v => ({ s.hub with links := v } : Hub)) (upd_congr (hk ▸ rfl))
  have cap : (s.hub.modLink l fun _ => { k with state := .down, attempt := none, retry := some 500 }).links[l].currentCap =
      k.currentCap := by rw [Hub.modLink_links, upd_get_same]
  rw [attemptExpire, if_pos ends, rate]
  dsimp only
  rw [down, cap]
  rfl

/-- R112: the line is locked at the rate that was tried. -/
theorem lock_completes {r : LinkRate} (hk : k = s.hub.links[l]) (state : k.state = .training (.attempt r)) :
    Completes (.lock l r) s (s.hub.modLink l fun _ => k.enterRolling r) := by
  have rate : attemptRate s.hub.links[l] = some r := hk ▸ attemptRate_iff.2 state
  exact complete_completes (f := lockReported l r) rfl ((if_pos rate).trans
    (congrArg (fun v => ({ s.hub with links := v } : Hub)) (upd_congr (hk ▸ rfl))))

theorem lock_ignored {r : LinkRate} (hk : k = s.hub.links[l]) (state : k.state ≠ .training (.attempt r)) :
    Completes (.lock l r) s s.hub := by
  have rate : attemptRate s.hub.links[l] ≠ some r := fun e => state (hk ▸ attemptRate_iff.1 e)
  exact complete_completes (f := lockReported l r) rfl (if_neg rate)

/-! ### Loss of lock (R122) -/

theorem lossOfLock_running {r : LinkRate} (hk : k = s.hub.links[l]) (state : k.state = .rolling ∨ k.state = .up)
    (rate : k.rate = some r) :
    Completes (.lossOfLock l) s
      ((resetLink l k.currentCap (notify (linkPorts s.hub l) .linkFault [byteOfFin l, 2, r.code] s.hub)).modLink l
        fun x => { x with cutRate := none }) := by
  refine complete_completes (f := lockLost l) rfl ?_
  rw [lockLost, ← hk, lockedRate_running state rate]
  dsimp only
  rw [notify_links, ← hk]
  rfl

theorem resetLink_hold {cap : LinkRate} {h : Hub} (state : h.links[l].state = .training .hold) :
    resetLink l cap h = h.modLink l fun k => { k with currentCap := cap, hold := some 1 } := by
  rw [resetLink, state]
  rfl

theorem lossOfLock_hold {r : LinkRate} (hk : k = s.hub.links[l]) (state : k.state = .training .hold)
    (cut : k.cutRate = some r) :
    Completes (.lossOfLock l) s
      (notify (linkPorts s.hub l) .linkFault [byteOfFin l, 2, r.code]
        (s.hub.modLink l fun _ => { k with hold := some 1, cutRate := none })) := by
  refine complete_completes (f := lockLost l) rfl ?_
  rw [lockLost, ← hk, (lockedRate_hold state).trans cut]
  dsimp only
  rw [resetLink_hold (by rw [notify_links, ← hk, state]), modLink_modLink, notify_links, ← hk, notify_modLink]
  exact congrArg (fun v => notify (linkPorts s.hub l) .linkFault [byteOfFin l, 2, r.code] ({ s.hub with links := v } : Hub))
    (upd_congr (hk ▸ rfl))

theorem lossOfLock_ignored (hk : k = s.hub.links[l])
    (state : k.state = .training .hold ∧ k.cutRate = none ∨
      k.state ≠ .rolling ∧ k.state ≠ .up ∧ k.state ≠ .training .hold) : Completes (.lossOfLock l) s s.hub := by
  refine complete_completes (f := lockLost l) rfl ?_
  have none : lockedRate s.hub.links[l] = none := by
    rw [← hk]
    rcases state with ⟨hold, cut⟩ | ⟨rolling, up, hold⟩
    · exact (lockedRate_hold hold).trans cut
    · exact lockedRate_none rolling up hold
  rw [lockLost, none]

end

/-! ### Reset (R109, R111) -/

section
variable {l : Fin 6} {h : Hub}

theorem resetLink_stopped {cap : LinkRate}
    (state : h.links[l].state = .off ∨ h.links[l].state = .parked ∨ h.links[l].state = .waking) :
    resetLink l cap h = h.modLink l fun k => { k with currentCap := cap, checkFailures := 0 } := by
  rw [resetLink]
  rcases state with s | s | s <;> rw [s]

theorem allLost_iff : allLost h l = true ↔
    (h.links[l].state = .up ∧ ∃ n ∈ boundTo h l, h.screens[n].state = .lost) ∧
      ∀ n ∈ boundTo h l, h.screens[n].state ≠ .joined := by
  simp [allLost]

theorem resetIfAllLost_some (up : h.links[l].state = .up) (lost : ∃ n ∈ boundTo h l, h.screens[n].state = .lost)
    (none : ∀ n ∈ boundTo h l, h.screens[n].state ≠ .joined) :
    resetIfAllLost h l = resetLink l h.links[l].currentCap h := if_pos (allLost_iff.2 ⟨⟨up, lost⟩, none⟩)

theorem resetIfAllLost_none
    (not : h.links[l].state ≠ .up ∨ (∀ n ∈ boundTo h l, h.screens[n].state ≠ .lost) ∨
      ∃ n ∈ boundTo h l, h.screens[n].state = .joined) : resetIfAllLost h l = h := by
  refine if_neg fun all => ?_
  obtain ⟨⟨up, n, bound, lost⟩, none⟩ := allLost_iff.1 all
  rcases not with stopped | alive | ⟨m, bound', joined⟩
  · exact stopped up
  · exact alive n bound lost
  · exact none m bound' joined

/-- R109: what a disable and a reset have in common. -/
theorem clearTo_of {k : Hub} {cap : LinkRate}
    (cleared : k = disableLink l h ∨ k = resetLink l cap h ∧ h.links[l].Resettable) :
    ∃ g : Link → Link, (∀ x, (g x).IsCleared) ∧ k = clearTo l g h := by
  rcases cleared with rfl | ⟨rfl, state⟩
  · exact ⟨Link.disabled, fun _ => by unfold Link.IsCleared; rfl, rfl⟩
  · exact ⟨fun x => { x.enterHold with currentCap := cap }, fun _ => by unfold Link.IsCleared; rfl,
      resetLink_clearTo state⟩

end

/-- Settles O47: the expiries one by one; a disable and a reset both clear the link and abort its screens. -/
theorem trainingAndReset : Obligations.TrainingAndReset := by
  refine ⟨fun s l k hk => ⟨holdExpiry_completes hk, retryExpiry_completes hk, warmExpiry_completes hk,
    fun r state due => ⟨fun lower => attemptExpiry_lower hk state due, ?_⟩,
    fun r => ⟨lock_completes hk, lock_ignored hk⟩, fun r => lossOfLock_running hk, fun r => lossOfLock_hold hk,
    lossOfLock_ignored hk⟩, fun h k l cap => ⟨fun cleared => ?_, ?_, ?_⟩, fun h l cap =>
      ⟨resetLink_hold, resetLink_stopped, resetIfAllLost_some, resetIfAllLost_none⟩⟩
  · rintro rfl
    exact attemptExpiry_down hk state due
  · obtain ⟨g, all, rfl⟩ := clearTo_of cleared
    have link : (clearTo l g h).links[l].IsCleared := clearTo_link ▸ all _
    have rows : (clearTo l g h).links[l].rows = Vector.replicate 2 AddressRow.reset := congrArg Link.rows link
    refine ⟨clearTo_buffers, clearTo_missing, congrArg Link.control link, congrArg Link.tiles link,
      congrArg Link.sentOrder link, congrArg Link.rate link, congrArg Link.checkFailures link,
      congrArg Link.parkPending link, congrArg Link.attempt link, congrArg Link.retry link, congrArg Link.warm link,
      congrArg Link.rollWait link, congrArg Link.offered link, fun a => ?_, clearTo_rest,
      fun drops kept left hd hkept hleft => ?_⟩
    · rw [rows]
      simp
    · have d : Drops l h drops := hd
      obtain ⟨slots, plates⟩ := d.sources (g := g)
      rw [← hleft] at slots plates
      refine ⟨slots, plates, d.screens, fun j => ⟨d.dropped.groups j, d.running j⟩, fun b y lent => ?_, fun m ne =>
        d.away ne fun b => ?_⟩
      · rw [d.buffers lent]
        refine if_congr ?_ rfl rfl
        by_cases here : y.link = l
        · exact iff_of_true (.inl here) (.inl here)
        · have stays : kept b = staysQueued drops y := by
            rw [hkept, lent]
            dsimp only
            rw [beq_false_of_ne here, Bool.false_or, staysQueued]
          rw [stays]
      · rw [Bool.eq_iff_iff, keptAll_freed, hkept]
        rcases h.buffers[b] with _ | y
        · exact iff_of_true (fun _ => nofun) rfl
        · simp [staysQueued]
  · rintro rfl
    obtain ⟨control, line, rows, tiles, sentOrder, same, lines⟩ := dropped_link (l := l) (h := h)
    refine ⟨line.map fun o => { o with dead := true }, ?_, Option.map_eq_none_iff.trans lines, fun o dead => ?_⟩
    · rw [disableLink_clearTo, clearTo_link, same]
      rfl
    · obtain ⟨o, -, rfl⟩ := Option.map_eq_some_iff.1 dead
      rfl
  · rintro rfl state
    obtain ⟨control, line, rows, tiles, sentOrder, same, -⟩ := dropped_link (l := l) (h := h)
    rw [resetLink_clearTo state, clearTo_link, same]
    rfl

end Sys2Proof.Machine

/-! O48: rolling. -/

namespace Sys2Proof.Machine

section
variable {l : Fin 6} {a : Fin 2} {h : Hub}

/-! ### A screen joins, a stranger is admitted (R115, R131) -/

theorem joinScreen_eq {n : Fin 8} {credit : Byte} :
    joinScreen l a n credit h =
      notify (ownerOrBoth h.screens[n].owner) .joined [byteOfFin n, byteOfFin l, rowByte a, credit]
        { h with
          links := upd h.links l fun k =>
            { k with
              rows := upd k.rows a fun r => { r with assignment := .screen n, credit := some credit.toNat }
              control := k.control ++ [.level a h.screens[n].level.current] }
          screens := upd h.screens n fun x =>
            { x with
              state := .joined, failures := 0, entries := x.entries.map fun _ => Entry.absent,
              engine := { x.engine with cycle := some .idle } } } := by
  rw [joinScreen]
  simp only [setScreenState, allAbsent, modEntries, Hub.modScreen, Hub.modRow, Hub.modLink, handPacket, upd_upd,
    screenPorts, upd_get_same]

theorem admitStranger_eq {identity : Identity} {reason : StrangerReason} {credit columns rows : Byte} :
    admitStranger l a identity reason credit columns rows h =
      notify (linkPorts h l) .stranger ([byteOfFin l, rowByte a] ++ be48 identity ++ [reason.code, credit, columns, rows])
        { h with
          links := upd h.links l fun k =>
            { k with
              rows := upd k.rows a fun r => { r with assignment := .stranger identity }
              control := k.control ++ [.blank a { red := 0, green := 0, blue := 0 }] } } := by
  rw [admitStranger]
  simp only [handPacket, Hub.modRow, Hub.modLink, upd_upd]
  rfl

end

/-! ### The screens that did not answer (R117, R187) -/

/-- R117: a screen that did not answer is Missing. -/
def Screen.unanswering (x : Screen) : Screen := if x.state = .parked then { x with state := .missing } else x

/-- R187: the LOST that a port is offered. -/
def offerMissing (l : Fin 6) (g : Hub) (p : Port) (x : PortState) (n : Fin 8) : PortState :=
  if (g.screens[n].state = .missing ∨ g.screens[n].state = .parked) ∧
      (g.screens[n].owner = some p ∨ g.screens[n].owner = none) then
    x.offer .lost [byteOfFin n, 0, byteOfFin l, 0, 0, 0]
  else x

/-- R117: `h` is `g` with the screens of `ns` reported that are Missing or Parked. -/
structure Reported (l : Fin 6) (ns : List (Fin 8)) (g h : Hub) : Prop where
  rest : h = { g with screens := h.screens, portA := h.portA, portB := h.portB }
  screens : ∀ n : Fin 8, h.screens[n] = if n ∈ ns then g.screens[n].unanswering else g.screens[n]
  port : ∀ p : Port, h.port p = ns.foldl (offerMissing l g p) (g.port p)

section
variable {l : Fin 6} {g h : Hub} {n : Fin 8}

theorem unanswering_missing {x : Screen} (state : x.state = .missing ∨ x.state = .parked) :
    { x with state := .missing } = x.unanswering := by
  rcases state with state | state
  · rw [Screen.unanswering, if_neg (by rw [state]; decide), ← state]
  · rw [Screen.unanswering, if_pos state]

theorem reportMissing_some (state : g.screens[n].state = .missing ∨ g.screens[n].state = .parked) :
    reportMissing l g n =
      notify (ownerOrBoth g.screens[n].owner) .lost [byteOfFin n, 0, byteOfFin l, 0, 0, 0]
        (setScreenState n .missing g) := by
  rw [reportMissing, if_pos state]
  dsimp only
  rw [screenPorts, setScreenState, Hub.modScreen_screens, upd_get_same]
  rfl

theorem reportMissing_reported (l : Fin 6) (g : Hub) (n : Fin 8) : Reported l [n] g (reportMissing l g n) := by
  by_cases state : g.screens[n].state = .missing ∨ g.screens[n].state = .parked
  · rw [reportMissing_some state]
    refine ⟨?_, fun m => ?_, fun p => ?_⟩
    · obtain ⟨na, la, nb, lb, eq⟩ := notify_only (ownerOrBoth g.screens[n].owner) .lost
        [byteOfFin n, 0, byteOfFin l, 0, 0, 0] (setScreenState n .missing g)
      rw [eq]
      rfl
    · rw [notify_screens, setScreenState, Hub.modScreen_screens]
      rcases eq_or_ne m n with rfl | ne
      · rw [upd_get_same, if_pos (List.mem_singleton.2 rfl), unanswering_missing state]
      · rw [upd_get_other _ _ ne.symm, if_neg fun e => ne (List.mem_singleton.1 e)]
    · rw [notify_port _ (ownerOrBoth_nodup _), List.foldl_cons, List.foldl_nil, offerMissing]
      exact if_congr ((mem_ownerOrBoth _ p).trans (and_iff_right state).symm) rfl rfl
  · rw [reportMissing, if_neg state]
    refine ⟨rfl, fun m => ?_, fun p => ?_⟩
    · rcases eq_or_ne m n with rfl | ne
      · rw [if_pos (List.mem_singleton.2 rfl), Screen.unanswering, if_neg fun e => state (.inr e)]
      · rw [if_neg fun e => ne (List.mem_singleton.1 e)]
    · rw [List.foldl_cons, List.foldl_nil, offerMissing, if_neg fun e => state e.1]

theorem foldl_reportMissing (l : Fin 6) (ns : List (Fin 8)) (nodup : ns.Nodup) (g : Hub) :
    Reported l ns g (ns.foldl (reportMissing l) g) := by
  induction ns generalizing g with
  | nil => exact ⟨rfl, fun n => (if_neg List.not_mem_nil).symm, fun p => rfl⟩
  | cons n ns ih =>
    obtain ⟨new, nodup⟩ := List.nodup_cons.1 nodup
    have first := reportMissing_reported l g n
    have rest := ih nodup (reportMissing l g n)
    rw [List.foldl_cons]
    generalize reportMissing l g n = k at first rest
    generalize ns.foldl (reportMissing l) k = h at rest
    have same {m : Fin 8} (ne : m ≠ n) : k.screens[m] = g.screens[m] := by
      rw [first.screens, if_neg fun e => ne (List.mem_singleton.1 e)]
    refine ⟨?_, fun m => ?_, fun p => ?_⟩
    · rw [rest.rest, first.rest]
    · rcases eq_or_ne m n with rfl | ne
      · rw [rest.screens, if_neg new, first.screens, if_pos (List.mem_singleton.2 rfl), if_pos List.mem_cons_self]
      · rw [rest.screens, same ne]
        simp only [List.mem_cons, ne, false_or]
    · rw [rest.port, first.port, List.foldl_cons, List.foldl_cons, List.foldl_nil]
      refine List.foldl_ext _ _ _ fun x m mem => ?_
      have ne : m ≠ n := fun e => new (e ▸ mem)
      rw [offerMissing, offerMissing, same ne]

/-! ### The silence timers (R117) -/

/-- R117: the silence timer of a row whose screen is Joined starts. -/
def silenceStarted (g : Hub) (r : AddressRow) : AddressRow :=
  match r.assignment with
  | .screen n => if g.screens[n].state = .joined then { r with silence := some 20 } else r
  | _ => r

theorem silenceStarted_joined {r : AddressRow} (row : r.assignment = .screen n) (joined : g.screens[n].state = .joined) :
    silenceStarted g r = { r with silence := some 20 } := by
  rw [silenceStarted, row]
  exact if_pos joined

theorem silenceStarted_other {r : AddressRow} (other : ∀ n, r.assignment = .screen n → g.screens[n].state ≠ .joined) :
    silenceStarted g r = r := by
  unfold silenceStarted
  split
  · next n row => exact if_neg (other n row)
  · rfl

theorem upd_of_same {α : Type} {n : Nat} {v : Vector α n} {i : Fin n} {f : α → α} (same : f v[i] = v[i]) :
    upd v i f = v := by
  refine vector_ext fun j => ?_
  rw [upd_get]
  split
  · next here => rw [← here, same]
  · rfl

theorem modLink_of_same {f : Link → Link} (same : f h.links[l] = h.links[l]) : h.modLink l f = h :=
  congrArg (fun v => ({ h with links := v } : Hub)) (upd_of_same same)

theorem startSilence_eq (l : Fin 6) (h : Hub) (a : Fin 2) :
    startSilence l h a = h.modRow l a (silenceStarted h) := by
  have still (same : silenceStarted h h.links[l].rows[a] = h.links[l].rows[a]) : h.modRow l a (silenceStarted h) = h :=
    modLink_of_same (congrArg (fun v => ({ h.links[l] with rows := v } : Link)) (upd_of_same same))
  unfold startSilence
  split
  · next n row =>
    split
    · next joined =>
      refine congrArg (fun v => ({ h with links := v } : Hub))
        (upd_congr (congrArg (fun v => ({ h.links[l] with rows := v } : Link)) (upd_congr ?_)))
      exact (silenceStarted_joined row joined).symm
    · next other =>
      refine (still (silenceStarted_other fun m e => ?_)).symm
      cases row.symm.trans e
      exact other
  · next other => exact (still (silenceStarted_other fun n row => absurd row (other n))).symm

/-- R117: both rows of the link. -/
theorem startSilence_rows (l : Fin 6) (h : Hub) :
    allRows.foldl (startSilence l) h = h.modLink l fun k => { k with rows := k.rows.map (silenceStarted h) } := by
  have second {f : AddressRow → AddressRow} : silenceStarted (h.modRow l 0 f) = silenceStarted h := rfl
  rw [allRows, List.foldl_cons, List.foldl_cons, List.foldl_nil, startSilence_eq, startSilence_eq, second]
  refine (modLink_modLink h l _ _).trans (congrArg (fun v => ({ h with links := v } : Hub)) (upd_congr
    (congrArg (fun v => ({ h.links[l] with rows := v } : Link)) (vector_ext fun b => ?_))))
  have at' : (h.links[l].rows.map (silenceStarted h))[b] = silenceStarted h h.links[l].rows[b] :=
    Vector.getElem_map ..
  rw [at']
  have rows : b = 0 ∨ b = 1 := by omega
  rcases rows with rfl | rfl
  · rw [upd_get_other _ _ (by decide), upd_get_same]
  · rw [upd_get_same, upd_get_other _ _ (by decide)]

/-! ### Rolling ends (R117) -/

/-- R117: rolling ended, and the screens of the link that did not answer are reported. -/
theorem endRolling_reported (l : Fin 6) (g : Hub) :
    ∃ k, Reported l (boundTo g l) (g.modLink l fun k => { k with state := .up, rollWait := none, offered := none }) k ∧
      endRolling l g = k.modLink l fun x => { x with rows := x.rows.map (silenceStarted k) } := by
  rw [endRolling, startSilence_rows]
  generalize up : g.modLink l (fun k => { k with state := .up, rollWait := none, offered := none }) = w
  have same : boundTo w l = boundTo g l := by rw [← up]; rfl
  rw [same]
  exact ⟨_, foldl_reportMissing l (boundTo g l) (boundTo_ascending g l).nodup w, rfl⟩

theorem unanswering_joined {x : Screen} : x.unanswering.state = .joined ↔ x.state = .joined := by
  unfold Screen.unanswering
  split
  · next parked => rw [parked]; exact iff_of_false nofun nofun
  · rfl

theorem Reported.joined {ns : List (Fin 8)} (r : Reported l ns g h) (n : Fin 8) :
    h.screens[n].state = .joined ↔ g.screens[n].state = .joined := by
  rw [r.screens]
  split
  · exact unanswering_joined
  · rfl

theorem Reported.silence {ns : List (Fin 8)} (r : Reported l ns g h) : silenceStarted h = silenceStarted g := by
  funext x
  unfold silenceStarted
  split
  · next n _ => exact if_congr (r.joined n) rfl rfl
  · rfl

theorem endRolling_link {g : Hub} :
    (endRolling l g).links[l] =
      { g.links[l] with
        state := .up, rollWait := none, offered := none, rows := g.links[l].rows.map (silenceStarted g) } := by
  obtain ⟨k, reported, eq⟩ := endRolling_reported l g
  have links : k.links = _ := congrArg Hub.links reported.rest
  rw [eq, Hub.modLink_links, upd_get_same, reported.silence, links, Hub.modLink_links, upd_get_same]
  rfl

theorem endRolling_row {g : Hub} (a : Fin 2) :
    (endRolling l g).links[l].rows[a] = silenceStarted g g.links[l].rows[a] := by
  rw [endRolling_link]
  exact Vector.getElem_map ..

theorem endRolling_others {g : Hub} {m : Fin 6} (ne : m ≠ l) : (endRolling l g).links[m] = g.links[m] := by
  obtain ⟨k, reported, eq⟩ := endRolling_reported l g
  have links : k.links = _ := congrArg Hub.links reported.rest
  rw [eq, Hub.modLink_links, upd_get_other _ _ ne.symm, links, Hub.modLink_links, upd_get_other _ _ ne.symm]

theorem endRolling_screens {g : Hub} (n : Fin 8) :
    (endRolling l g).screens[n] =
      if g.screens[n].link = some l ∧ g.screens[n].state = .parked then { g.screens[n] with state := .missing }
      else g.screens[n] := by
  obtain ⟨k, reported, eq⟩ := endRolling_reported l g
  rw [eq, Hub.modLink_screens, reported.screens, Hub.modLink_screens, Screen.unanswering]
  by_cases parked : g.screens[n].state = .parked
  · by_cases here : g.screens[n].link = some l
    · rw [if_pos ((mem_boundTo g l n).2 ⟨by rw [parked]; decide, here⟩), if_pos parked, if_pos ⟨here, parked⟩]
    · rw [if_neg fun e => here ((mem_boundTo g l n).1 e).2, if_neg fun e => here e.1]
  · rw [if_neg parked, ite_self, if_neg fun e => parked e.2]

theorem endRolling_rest {g : Hub} (hh : h = endRolling l g) :
    h = { g with links := h.links, screens := h.screens, portA := h.portA, portB := h.portB } := by
  obtain ⟨k, reported, eq⟩ := endRolling_reported l g
  rw [hh, eq, reported.rest]
  rfl

theorem endRolling_port {g : Hub} (p : Port) :
    (endRolling l g).port p =
      allScreens.foldl (fun (x : PortState) n =>
        if g.screens[n].link = some l ∧ (g.screens[n].state = .missing ∨ g.screens[n].state = .parked) ∧
            (g.screens[n].owner = some p ∨ g.screens[n].owner = none) then
          x.offer .lost [byteOfFin n, 0, byteOfFin l, 0, 0, 0]
        else x) (g.port p) := by
  obtain ⟨k, reported, eq⟩ := endRolling_reported l g
  have port : (endRolling l g).port p = k.port p := by rw [eq]; cases p <;> rfl
  have before : (g.modLink l fun k => { k with state := .up, rollWait := none, offered := none }).port p = g.port p := by
    cases p <;> rfl
  rw [port, reported.port, before, boundTo, List.foldl_filter]
  refine List.foldl_ext _ _ _ fun x n _ => ?_
  rw [offerMissing, Hub.modLink_screens]
  rw [← ite_and]
  refine if_congr ?_ rfl rfl
  rw [Bool.and_eq_true, beq_iff_eq, and_assoc]
  refine ⟨And.right, fun all => ⟨?_, all⟩⟩
  obtain ⟨-, state, -⟩ := all
  rcases state with state | state <;> rw [Screen.bound, state] <;> rfl

theorem rollExpiry_completes {s : State} (rolling : s.hub.links[l].state = .rolling)
    (due : s.hub.links[l].rollWait = some 0) : Completes (.rollWaitExpiry l) s (endRolling l s.hub) := by
  have ends : rollDue s.hub l = true := by
    simp only [rollDue, rolling, due, Bool.and_eq_true, beq_iff_eq, Timer.due_iff, and_self]
  exact complete_completes (f := rollExpire l) rfl (if_pos ends)

end

/-! ### HELLO (R114, R115, R131) -/

section
variable {s : State} {l : Fin 6} {a : Fin 2} {identity : Identity} {credit columns rows : Byte} {h : Hub}

theorem helloTaken_answered (sender : ∀ b, senderOf h l (rowByte a) ≠ .stranger b)
    (rolling : h.links[l].state = .rolling) (waits : h.links[l].rollWait ≠ none)
    (offered : h.links[l].offered = some a) :
    helloTaken l (rowByte a) identity credit columns rows h = helloJudged l a identity credit columns rows h := by
  unfold helloTaken
  split
  · next b e => exact absurd e (sender b)
  · dsimp only
    rw [rowOf_rowByte]
    exact if_pos ⟨rolling, Option.isSome_iff_ne_none.2 waits, offered⟩

theorem helloTaken_unasked (sender : ∀ b, senderOf h l (rowByte a) ≠ .stranger b)
    (unasked : h.links[l].state ≠ .rolling ∨ h.links[l].rollWait = none ∨ h.links[l].offered ≠ some a) :
    helloTaken l (rowByte a) identity credit columns rows h = protocolFault l (rowByte a) .hello h := by
  unfold helloTaken
  split
  · next b e => exact absurd e (sender b)
  · dsimp only
    rw [rowOf_rowByte]
    refine if_neg ?_
    rintro ⟨rolling, waits, offered⟩
    rcases unasked with other | idle | other
    · exact other rolling
    · exact Option.isSome_iff_ne_none.1 waits idle
    · exact other offered

theorem senderOf_hello (stranger : ∀ i, h.links[l].rows[a].assignment ≠ .stranger i) (b : Fin 2) :
    senderOf (touchSilence l (rowByte a) h) l (rowByte a) ≠ .stranger b := by
  rcases row : h.links[l].rows[a].assignment with _ | n | i
  · rw [senderOf_unassigned row]; nofun
  · rw [senderOf_screen row]; nofun
  · exact absurd row (stranger i)

theorem hello_taken {k : Hub} (opened : receiverOpen s.hub.links[l] = true)
    (taken : helloTaken l (rowByte a) identity credit columns rows (touchSilence l (rowByte a) s.hub) = k) :
    Completes (.hello l (rowByte a) identity credit columns rows) s k :=
  complete_completes (f := takePacket l (rowByte a) (helloTaken l (rowByte a) identity credit columns rows)) rfl
    ((takePacket_taken opened a _).trans taken)

theorem judgeHello_unknown (none : awaitedScreen h l identity = none) :
    judgeHello h l identity credit columns rows = .error .unknown := by
  rw [judgeHello, none]

theorem judgeHello_size {n : Fin 8} (awaited : awaitedScreen h l identity = some n)
    (size : h.screens[n].size ≠ some { columns := columns.toNat, rows := rows.toNat }) :
    judgeHello h l identity credit columns rows = .error .size := by
  rw [judgeHello, awaited]
  exact if_pos size

theorem judgeHello_credit {n : Fin 8} (awaited : awaitedScreen h l identity = some n)
    (size : h.screens[n].size = some { columns := columns.toNat, rows := rows.toNat })
    (range : creditInRange credit = false) : judgeHello h l identity credit columns rows = .error .credit := by
  rw [judgeHello, awaited]
  dsimp only
  rw [if_neg (not_not.2 size), range]
  rfl

theorem judgeHello_ok {n : Fin 8} (awaited : awaitedScreen h l identity = some n)
    (size : h.screens[n].size = some { columns := columns.toNat, rows := rows.toNat })
    (range : creditInRange credit = true) : judgeHello h l identity credit columns rows = .ok n := by
  rw [judgeHello, awaited]
  dsimp only
  rw [if_neg (not_not.2 size), range]
  rfl

theorem creditInRange_true (low : 1 ≤ credit.toNat) (high : credit.toNat ≤ 16) : creditInRange credit = true := by
  rw [creditInRange, decide_eq_true low, decide_eq_true high]
  rfl

theorem creditInRange_false (out : credit = 0 ∨ 16 < credit.toNat) : creditInRange credit = false := by
  rw [creditInRange]
  rcases out with rfl | high
  · rfl
  · rw [decide_eq_false (Nat.not_le.2 high), Bool.and_false]

theorem helloJudged_ok {n : Fin 8} (ok : judgeHello h l identity credit columns rows = .ok n) :
    helloJudged l a identity credit columns rows h =
      afterHello l a (joinScreen l a n credit (h.modLink l fun x => { x with rollWait := none, offered := none })) := by
  rw [helloJudged, ok]

theorem helloJudged_error {reason : StrangerReason}
    (error : judgeHello h l identity credit columns rows = .error reason) :
    helloJudged l a identity credit columns rows h =
      afterHello l a (admitStranger l a identity reason credit columns rows
        (h.modLink l fun x => { x with rollWait := none, offered := none })) := by
  rw [helloJudged, error]

/-- R114: the address table alone tells nothing new to the match. -/
theorem awaitedScreen_touched (identity : Identity) (address : Byte) :
    awaitedScreen (touchSilence l address h) l identity = awaitedScreen h l identity := by
  unfold awaitedScreen boundTo
  rw [touchSilence_screens]

end

/-- Settles O48, by the verdict on the HELLO; the end of rolling is a fold of reports and then the timers of two rows. -/
theorem rolling : Obligations.Rolling := by
  refine ⟨fun h l identity awaited => awaitedScreen_first h l identity, fun h l => ⟨rfl, rfl⟩,
    fun s l a identity credit columns rows h stranger opened hh => ?_, fun h l a n credit => joinScreen_eq,
    fun h l a identity reason credit columns rows => admitStranger_eq, fun s l => rollExpiry_completes,
    fun g h l hh => ?_⟩
  · have sender := senderOf_hello (h := s.hub) (l := l) stranger
    have same := awaitedScreen_touched (h := s.hub) (l := l) identity (rowByte a)
    have screens := touchSilence_screens l (rowByte a) s.hub
    obtain ⟨link, -⟩ := touchSilence_link l (rowByte a) s.hub
    refine ⟨fun rolls waits offered => ⟨_, rfl, ?_⟩, fun unasked => ?_⟩
    · have answered (k : Hub) (judged : helloJudged l a identity credit columns rows h = k) :
          Completes (.hello l (rowByte a) identity credit columns rows) s k :=
        hello_taken opened ((helloTaken_answered sender (by rw [link]; exact rolls) (by rw [link]; exact waits)
          (by rw [link]; exact offered)).trans (hh ▸ judged))
      rw [← hh] at same screens
      refine ⟨fun n awaited size low high => answered _ (helloJudged_ok ?_), fun n awaited size out =>
        answered _ (helloJudged_error ?_), fun n awaited size => answered _ (helloJudged_error ?_), fun none =>
        answered _ (helloJudged_error ?_)⟩
      · exact judgeHello_ok (same.trans awaited) (screens ▸ size) (creditInRange_true low high)
      · exact judgeHello_credit (same.trans awaited) (screens ▸ size) (creditInRange_false out)
      · exact judgeHello_size (same.trans awaited) (screens ▸ size)
      · exact judgeHello_unknown (same.trans none)
    · exact hh ▸ hello_taken opened (helloTaken_unasked sender (by rw [link]; exact unasked))
  · refine ⟨?_, fun n => hh ▸ endRolling_screens n, fun a n row joined => ?_, fun a other => ?_, fun m ne =>
      hh ▸ endRolling_others ne, endRolling_rest hh, fun p => hh ▸ endRolling_port p⟩
    · rw [hh, endRolling_link]
    · rw [hh, endRolling_row]
      exact silenceStarted_joined row joined
    · rw [hh, endRolling_row]
      exact silenceStarted_other other

end Sys2Proof.Machine

/-! O49: keep-alive. -/

namespace Sys2Proof.Machine

section
variable {s : State} {h : Hub} {l : Fin 6} {a : Fin 2} {n : Fin 8} {r : AddressRow} {credit : Byte}

theorem upd_eq_set {α : Type} {n : Nat} {v : Vector α n} {i : Fin n} {f : α → α} {x : α} (e : f v[i] = x) :
    upd v i f = v.set i x := by rw [upd, e]

/-! ### The silence timer (R118) -/

/-- R118: the address is a Joined screen's of an Up link, and no POLL is awaited there. -/
def listens (h : Hub) (l : Fin 6) (a : Fin 2) : Prop :=
  h.links[l].state = .up ∧ h.links[l].rows[a].pollAwaited = false ∧
    ∃ n, h.links[l].rows[a].assignment = .screen n ∧ h.screens[n].state = .joined

theorem touchSilence_listens (listening : listens h l a) :
    touchSilence l (rowByte a) h = h.modRow l a fun r => { r with silence := some 20 } := by
  obtain ⟨up, quiet, n, row, joined⟩ := listening
  rw [touchSilence, rowOf_rowByte]
  dsimp only
  rw [row]
  exact if_pos ⟨joined, up, quiet⟩

theorem touchSilence_deaf (deaf : ¬listens h l a) : touchSilence l (rowByte a) h = h := by
  rw [touchSilence, rowOf_rowByte]
  dsimp only
  split
  · next n row =>
    refine if_neg ?_
    rintro ⟨joined, up, quiet⟩
    exact deaf ⟨up, quiet, n, row, joined⟩
  · rfl

/-! ### The timers (R118, R119) -/

theorem modRow_eq_set (hr : r = h.links[l].rows[a]) {f : AddressRow → AddressRow} {x : AddressRow} (e : f r = x) :
    h.modRow l a f = h.modLink l fun k => { k with rows := k.rows.set a x } := by
  refine congrArg (fun v => ({ h with links := v } : Hub)) (upd_congr ?_)
  exact congrArg (fun v => ({ h.links[l] with rows := v } : Link)) (upd_eq_set (hr ▸ e))

theorem handPacket_modRow (hr : r = h.links[l].rows[a]) {f : AddressRow → AddressRow} {x : AddressRow} (e : f r = x)
    (p : Packet) :
    handPacket l p (h.modRow l a f) = h.modLink l fun k => { k with rows := k.rows.set a x, control := k.control ++ [p] } := by
  rw [modRow_eq_set hr e, handPacket, modLink_modLink]

theorem silenceExpiryLink_completes (hr : r = s.hub.links[l].rows[a]) (due : r.silence = some 0) :
    Completes (.silenceTimerExpiryLink l a) s
      (s.hub.modLink l fun k =>
        { k with
          rows := k.rows.set a { r with silence := none, pollAwaited := true }
          control := k.control ++ [.poll a true] }) := by
  have ends : silenceDue s.hub l a = true := Timer.due_iff.2 (hr ▸ due)
  exact complete_completes (f := silenceLinkExpire l a) rfl ((if_pos ends).trans (handPacket_modRow hr rfl _))

theorem lostPollExpiry_completes (hr : r = s.hub.links[l].rows[a]) (due : r.lostPoll = some 0) :
    Completes (.lostPollTimerExpiry l a) s
      (s.hub.modLink l fun k =>
        { k with rows := k.rows.set a { r with lostPoll := some 100 }, control := k.control ++ [.poll a false] }) := by
  have ends : lostPollDue s.hub l a = true := Timer.due_iff.2 (hr ▸ due)
  exact complete_completes (f := lostPollExpire l a) rfl ((if_pos ends).trans (handPacket_modRow hr rfl _))

theorem pollWaitExpiry_completes (hr : r = s.hub.links[l].rows[a]) (due : r.pollWait = some 0)
    (row : r.assignment = .screen n) :
    Completes (.pollWaitExpiry l a) s
      (failureRise n (s.hub.modLink l fun k =>
        { k with rows := k.rows.set a { r with pollWait := none, pollAwaited := false, silence := some 20 } })) := by
  have ends : pollWaitDue s.hub l a = true := Timer.due_iff.2 (hr ▸ due)
  refine complete_completes (f := pollWaitExpire l a) rfl ?_
  have after : (s.hub.modRow l a fun r =>
      { r with pollWait := none, pollAwaited := false, silence := some Config.linkSilenceTicks }).links[l].rows[a].assignment =
        .screen n := by
    rw [modRow_eq_set hr rfl, Hub.modLink_links, upd_get_same]
    dsimp only
    rw [set_get, if_pos rfl, row]
  rw [pollWaitExpire, if_pos ends]
  dsimp only
  rw [after]
  exact congrArg (failureRise n) (modRow_eq_set hr rfl)

/-! ### STATE (R119, R120) -/

theorem stateTaken_answered (sender : senderOf h l (rowByte a) = .screen a n) (joined : h.screens[n].state = .joined)
    (waits : h.links[l].rows[a].pollWait ≠ none) : stateTaken l (rowByte a) credit h = stateAnswered l a n h := by
  rw [stateTaken, bySender, sender]
  dsimp only
  rw [joined]
  exact if_pos (Option.isSome_iff_ne_none.2 waits)

theorem stateTaken_stray (sender : senderOf h l (rowByte a) = .screen a n) (joined : h.screens[n].state = .joined)
    (idle : h.links[l].rows[a].pollWait = none) : stateTaken l (rowByte a) credit h = countStray l h := by
  rw [stateTaken, bySender, sender]
  dsimp only
  rw [joined, idle]
  rfl

theorem stateTaken_returns (sender : senderOf h l (rowByte a) = .screen a n) (lost : h.screens[n].state = .lost)
    (range : creditInRange credit = true) : stateTaken l (rowByte a) credit h = returnLost l a n credit h := by
  rw [stateTaken, bySender, sender]
  dsimp only
  rw [lost, range]
  rfl

theorem stateTaken_badCredit (sender : senderOf h l (rowByte a) = .screen a n) (lost : h.screens[n].state = .lost)
    (range : creditInRange credit = false) :
    stateTaken l (rowByte a) credit h = protocolFault l (rowByte a) .credit h := by
  rw [stateTaken, bySender, sender]
  dsimp only
  rw [lost, range]
  rfl

theorem stateTaken_parked (sender : senderOf h l (rowByte a) = .screen a n) (parked : h.screens[n].state = .parked) :
    stateTaken l (rowByte a) credit h = countStranger l h := by
  rw [stateTaken, bySender, sender]
  dsimp only
  rw [parked]

theorem state_taken {k : Hub} (opened : receiverOpen s.hub.links[l] = true)
    (taken : stateTaken l (rowByte a) credit (touchSilence l (rowByte a) s.hub) = k) :
    Completes (.state l (rowByte a) credit) s k :=
  complete_completes (f := takePacket l (rowByte a) (stateTaken l (rowByte a) credit)) rfl
    ((takePacket_taken opened a _).trans taken)

/-- R119: what the answer to the POLL makes of the row does not depend on the silence timer that was touched. -/
theorem modRow_touched (hr : r = s.hub.links[l].rows[a]) {f : AddressRow → AddressRow} {x : AddressRow}
    (e : ∀ t, f { r with silence := t } = x) :
    (touchSilence l (rowByte a) s.hub).modRow l a f =
      (touchSilence l (rowByte a) s.hub).modLink l fun k => { k with rows := k.rows.set a x } := by
  obtain ⟨-, rows⟩ := touchSilence_link l (rowByte a) s.hub
  refine modRow_eq_set rfl ?_
  rw [rows a, ← hr]
  exact e _

theorem stateAnswered_eq (hr : r = s.hub.links[l].rows[a]) (joined : s.hub.screens[n].state = .joined) :
    stateAnswered l a n (touchSilence l (rowByte a) s.hub) =
      ((touchSilence l (rowByte a) s.hub).modLink l fun k =>
        { k with rows := k.rows.set a { r with pollWait := none, pollAwaited := false, silence := some 20 } }).modScreen
          n fun x => { x with failures := 0 } := by
  rw [stateAnswered, modRow_touched (x := { r with pollWait := none, pollAwaited := false, silence := some 20 }) hr
    fun _ => rfl]
  have still : ((touchSilence l (rowByte a) s.hub).modLink l fun k =>
      { k with rows := k.rows.set a { r with pollWait := none, pollAwaited := false, silence := some 20 } }).screens[n].state =
        .joined := by rw [Hub.modLink_screens, touchSilence_screens, joined]
  exact if_pos still

theorem returnLost_eq (hr : r = s.hub.links[l].rows[a]) :
    returnLost l a n credit (touchSilence l (rowByte a) s.hub) =
      joinScreen l a n credit ((touchSilence l (rowByte a) s.hub).modLink l fun k =>
        { k with rows := k.rows.set a { r with lostPoll := none, silence := some 20 } }) :=
  congrArg (joinScreen l a n credit) (modRow_touched hr fun _ => rfl)

end

/-- Settles O49, by the timer that ends and by the state of the screen that sent the STATE. -/
theorem keepAlive : Obligations.KeepAlive := by
  refine ⟨fun h l a joinedUp hj => ⟨fun up => touchSilence_listens (hj.1 up), fun other =>
    touchSilence_deaf fun up => other (hj.2 up)⟩, fun s l a r hr => ⟨silenceExpiryLink_completes hr,
    fun n => pollWaitExpiry_completes hr, lostPollExpiry_completes hr, ?_⟩⟩
  rintro n credit h row opened rfl
  have sender : senderOf (touchSilence l (rowByte a) s.hub) l (rowByte a) = .screen a n := senderOf_screen (hr ▸ row)
  have screens := touchSilence_screens l (rowByte a) s.hub
  have wait : (touchSilence l (rowByte a) s.hub).links[l].rows[a].pollWait = r.pollWait := by
    obtain ⟨-, rows⟩ := touchSilence_link l (rowByte a) s.hub
    rw [rows a, hr]
  refine ⟨fun joined waits => state_taken opened ?_, fun joined idle => state_taken opened ?_,
    fun lost low high => state_taken opened ?_, fun lost out => state_taken opened ?_,
    fun parked => state_taken opened ?_⟩
  · exact (stateTaken_answered sender (screens ▸ joined) (wait ▸ waits)).trans (stateAnswered_eq hr joined)
  · exact stateTaken_stray sender (screens ▸ joined) (wait.trans idle)
  · exact (stateTaken_returns sender (screens ▸ lost) (creditInRange_true low high)).trans (returnLost_eq hr)
  · exact stateTaken_badCredit sender (screens ▸ lost) (creditInRange_false out)
  · exact stateTaken_parked sender (screens ▸ parked)

end Sys2Proof.Machine

/-! O50: park and wake. -/

namespace Sys2Proof.Machine

/-! ### The screens of the link park (R124, R153) -/

/-- R124: the link at the end of PARK, before its screens park. -/
def Link.parks (x : Link) : Link := { x with line := none, parkPending := false, state := .parked, control := [] }

/-- R124: the link and its screens are parked; a wake is not yet taken. -/
def parkLink (l : Fin 6) (h : Hub) : Hub :=
  ((boundTo h l).foldl parkScreen (h.modLink l Link.parks)).modLink l fun k =>
    { k with rows := k.rows.map AddressRow.stopTimers }

/-- R124: the screens of the link that park. -/
def Parks (l : Fin 6) (h : Hub) (parks : Fin 8 → Bool) : Prop :=
  ∀ n, parks n = true ↔ h.screens[n].link = some l ∧
    (h.screens[n].state = .joined ∨ h.screens[n].state = .lost ∨ h.screens[n].state = .missing)

section
variable {l : Fin 6} {h : Hub} {parks : Fin 8 → Bool}

theorem Parks.parked (d : Parks l h parks) :
    AbortedAll (allScreens.filter parks)
      (fun x => { x with state := .parked, level := { x.level with current := 0 } }) (h.modLink l Link.parks)
      ((boundTo h l).foldl parkScreen (h.modLink l Link.parks)) := park_abortedAll l (h.modLink l Link.parks) parks d

/-- The screens of the link that park. -/
def parking (l : Fin 6) (h : Hub) (n : Fin 8) : Bool :=
  decide (h.screens[n].link = some l ∧
    (h.screens[n].state = .joined ∨ h.screens[n].state = .lost ∨ h.screens[n].state = .missing))

theorem parks_parking : Parks l h (parking l h) := fun _ => decide_eq_true_iff

theorem parkLink_rest : Rest h (parkLink l h) := by
  have before : Rest h (h.modLink l Link.parks) := rfl
  exact (before.trans parks_parking.parked.rest).trans rfl

theorem Parks.sources (d : Parks l h parks) :
    (parkLink l h).slots = ((allScreens.filter parks).foldl (fun h n => leaveSources n h) h).slots ∧
      (parkLink l h).plates = ((allScreens.filter parks).foldl (fun h n => leaveSources n h) h).plates := by
  obtain ⟨slots, plates⟩ := foldl_leaveSources_slots (allScreens.filter parks) (h := h) (k := h.modLink l Link.parks)
    rfl rfl
  exact ⟨d.parked.slots.trans slots, d.parked.plates.trans plates⟩

theorem Parks.screens (d : Parks l h parks) (n : Fin 8) :
    (parkLink l h).screens[n] =
      if parks n = true then
        { h.screens[n].aborted with state := .parked, level := { h.screens[n].level with current := 0 } }
      else h.screens[n] := (d.parked.screens n).trans (if_congr mem_filter_allScreens rfl rfl)

theorem Parks.running (d : Parks l h parks) (j : Fin 4) (n : Fin 8) :
    (parkLink l h).groups[j].running[n] = (h.groups[j].running[n] && !parks n) := by
  rw [← contains_filter (drops := parks)]
  exact d.parked.running j n

theorem Parks.buffers (d : Parks l h parks) {b : Fin 32} {y : Lend} (lent : h.buffers[b] = some y) :
    (parkLink l h).buffers[b] =
      if staysQueued parks y = false then none
      else if parks y.screen = true then some { y with voided := true } else some y := by
  rw [← voidedAll_filter, ← lent]
  exact d.parked.buffers b

theorem Parks.away (d : Parks l h parks) {m : Fin 6} (ne : m ≠ l) {kept : Fin 32 → Bool}
    (hk : ∀ b, keptAll (allScreens.filter parks) h.buffers[b] = kept b) :
    (parkLink l h).links[m] =
      { h.links[m] with tiles := h.links[m].tiles.filter kept, sentOrder := h.links[m].sentOrder.filter kept } := by
  have same := d.parked.elsewhere m fun n mem linked =>
    ne (Option.some_injective _ (linked.symm.trans ((d n).1 (mem_filter_allScreens.1 mem)).1))
  rw [d.parked.tiles, d.parked.sentOrder, Hub.modLink_links, upd_get_other _ _ ne.symm] at same
  simp only [Hub.modLink_buffers, hk] at same
  rw [parkLink, Hub.modLink_links, upd_get_other _ _ ne.symm, same]

theorem Parks.link (d : Parks l h parks) {kept : Fin 32 → Bool}
    (hk : ∀ b, keptAll (allScreens.filter parks) h.buffers[b] = kept b) :
    (parkLink l h).links[l] =
      { h.links[l] with
        parkPending := false, state := .parked, control := [], line := none, tiles := h.links[l].tiles.filter kept,
        sentOrder := h.links[l].sentOrder.filter kept, rows := h.links[l].rows.map AddressRow.stopTimers } := by
  obtain ⟨same, -, control, line⟩ := d.parked.links l
  have tiles := d.parked.tiles l
  have sentOrder := d.parked.sentOrder l
  have rows := d.parked.rows l
  rw [Hub.modLink_links, upd_get_same] at same control line tiles sentOrder rows
  simp only [Hub.modLink_buffers, hk] at tiles sentOrder
  rw [control rfl, line rfl, tiles, sentOrder] at same
  have stopped : ((boundTo h l).foldl parkScreen (h.modLink l Link.parks)).links[l].rows.map AddressRow.stopTimers =
      h.links[l].rows.map AddressRow.stopTimers := vector_ext fun a =>
    (Vector.getElem_map ..).trans ((rows a).trans (Vector.getElem_map ..).symm)
  rw [parkLink, Hub.modLink_links, upd_get_same]
  dsimp only
  rw [stopped, same]
  rfl

/-- R124: the wake mode and the wake line are what they were. -/
theorem parkLink_wake :
    (parkLink l h).links[l].wakeMode = h.links[l].wakeMode ∧ (parkLink l h).links[l].wakeLine = h.links[l].wakeLine := by
  rw [(parks_parking (l := l) (h := h)).link fun _ => rfl]
  exact ⟨rfl, rfl⟩

theorem parkSent_eq (l : Fin 6) (h : Hub) :
    parkSent l (h.modLink l fun k => { k with line := none }) =
      if h.links[l].wakeMode = .level ∧ h.links[l].wakeLine = true then takeWake l (parkLink l h) else parkLink l h := by
  obtain ⟨mode, line⟩ := parkLink_wake (l := l) (h := h)
  have parked : parkSent l (h.modLink l fun k => { k with line := none }) =
      if (parkLink l h).links[l].wakeMode = .level ∧ (parkLink l h).links[l].wakeLine = true then
        takeWake l (parkLink l h)
      else parkLink l h := by
    rw [parkSent, modLink_modLink]
    rfl
  rw [parked]
  exact if_congr (by rw [mode, line]) rfl rfl

end

/-! ### The wake (R125) -/

section
variable {s : State} {l : Fin 6} {v : Bool} {h : Hub}

theorem takeWake_manual (manual : h.links[l].autoWake = false) :
    takeWake l h = notify (linkPorts h l) .wake [byteOfFin l] h := by
  rw [takeWake, notify_links, manual]
  rfl

theorem takeWake_auto (auto : h.links[l].autoWake = true) :
    takeWake l h = (notify (linkPorts h l) .wake [byteOfFin l] h).modLink l Link.enterWaking := by
  rw [takeWake, notify_links, auto]
  rfl

theorem wakeLineChanged_eq (l : Fin 6) (v : Bool) (g : Hub) :
    wakeLineChanged l v g =
      if (v && !g.links[l].wakeLine) = true ∧ g.links[l].state = .parked then
        takeWake l (g.modLink l fun k => { k with wakeLine := v })
      else g.modLink l fun k => { k with wakeLine := v } := by
  rw [wakeLineChanged]
  refine if_congr ?_ rfl rfl
  rw [Hub.modLink_links, upd_get_same]

end

/-- Settles O50: the screens of the link park as one fold of aborts, and the wake is taken afterwards. -/
theorem parkAndWake : Obligations.ParkAndWake := by
  refine ⟨?_, fun s l o line park dead => packetSent_dead (f := parkEffect l) (e := parkSent l) rfl line (by rw [park]; rfl) dead rfl,
    ?_, fun h l => ⟨takeWake_manual, takeWake_auto⟩⟩
  · rintro s l k o rfl line park alive
    refine ⟨parkLink l s.hub, packetSent_effect (f := parkEffect l) (e := parkSent l) rfl line (by rw [park]; rfl) alive rfl
      (parkSent_eq l s.hub), parkLink_rest, fun parks kept left hd hkept hleft => ?_⟩
    have d : Parks l s.hub parks := hd
    have stays {b : Fin 32} {y : Lend} (lent : s.hub.buffers[b] = some y) : kept b = staysQueued parks y := by
      rw [hkept, lent]
      rfl
    have keeps (b : Fin 32) : keptAll (allScreens.filter parks) s.hub.buffers[b] = kept b := by
      rcases lent : s.hub.buffers[b] with _ | y
      · rw [hkept, lent]
        rfl
      · rw [keptAll_some, stays lent]
    obtain ⟨slots, plates⟩ := d.sources
    rw [← hleft] at slots plates
    refine ⟨slots, plates, d.screens, fun j => ⟨d.parked.groups j, d.running j⟩, fun b y lent => ?_, d.link keeps,
      fun m ne => d.away ne keeps⟩
    rw [d.buffers lent, stays lent]
  · rintro s l v h rfl
    have changed {k : Hub} (eq : wakeLineChanged l v s.hub = k) : Completes (.wakeLineChange l v) s k :=
      complete_completes (f := wakeLineChanged l v) rfl eq
    refine ⟨fun parked up down => changed ?_, fun other => changed ?_⟩
    · rw [wakeLineChanged_eq, if_pos ⟨by rw [up, down]; rfl, parked⟩]
    · rw [wakeLineChanged_eq]
      refine if_neg ?_
      rintro ⟨rises, parked⟩
      obtain ⟨up, down⟩ := Bool.and_eq_true_iff.1 rises
      rcases other with awake | low | high
      · exact awake parked
      · cases low.symm.trans up
      · rw [high] at down
        cases down

end Sys2Proof.Machine

/-! O51: check failures, strangers and notes. -/

namespace Sys2Proof.Machine

/-! ### The taking of a packet (R105, R129) -/

section
variable {l : Fin 6} {address : Byte} {f : Hub → Hub} {h : Hub} {a : Fin 2}

theorem receiverOpen_iff {k : Link} : receiverOpen k = true ↔ k.state = .rolling ∨ k.state = .up ∨ k.state = .parked := by
  rw [receiverOpen, Bool.or_eq_true, Bool.or_eq_true, beq_iff_eq, beq_iff_eq, beq_iff_eq, or_assoc]

theorem takePacket_closed (closed : receiverOpen h.links[l] = false) : takePacket l address f h = h := by
  rw [takePacket, closed]
  rfl

theorem takePacket_above (opened : receiverOpen h.links[l] = true) (above : 15 < address.toNat) :
    takePacket l address f h = checkFailure l h := by
  rw [takePacket, opened, if_neg (by decide), if_pos above]

theorem rowOf_none (out : address = 0 ∨ 3 ≤ address.toNat ∧ address.toNat ≤ 15) : rowOf address = none := by
  have ne1 : address ≠ 1 := by
    rintro rfl
    exact absurd out (by decide)
  have ne2 : address ≠ 2 := by
    rintro rfl
    exact absurd out (by decide)
  rw [rowOf, if_neg ne1, if_neg ne2]

/-- R129: no row has an address of 0 or of 3 to 15. -/
theorem takePacket_noRow (opened : receiverOpen h.links[l] = true)
    (out : address = 0 ∨ 3 ≤ address.toNat ∧ address.toNat ≤ 15) : takePacket l address f h = f h := by
  have low : ¬15 < address.toNat := by
    rcases out with rfl | ⟨-, high⟩
    · decide
    · exact Nat.not_lt.2 high
  rw [takePacket, opened, if_neg (by decide), if_neg low, touchSilence, rowOf_none out]

theorem senderOf_noRow (out : address = 0 ∨ 3 ≤ address.toNat ∧ address.toNat ≤ 15) :
    senderOf h l address = .unassigned := by
  rw [senderOf, rowOf_none out]

/-! ### Packets of an unassigned address (R129) -/

/-- R129: the packet is the fault `k` when its address is unassigned. -/
def FaultsUnassigned (l : Fin 6) (address : Byte) (k : FaultKind) (f : Hub → Hub) : Prop :=
  ∀ h, senderOf h l address = .unassigned → f h = protocolFault l address k h

theorem bySender_unassigned {g : Fin 2 → Fin 8 → Hub → Hub} :
    FaultsUnassigned l address .address (bySender l address g) := by
  intro h sender
  rw [bySender, sender]

theorem takenTaken_unassigned {tile : Half} {sig : Signature} :
    FaultsUnassigned l address .address (takenTaken l address tile sig) := by
  intro h sender
  rw [takenTaken, sender]

theorem refusedTaken_unassigned {tile : Half} {reason : Byte} :
    FaultsUnassigned l address .address (refusedTaken l address tile reason) := by
  intro h sender
  rw [refusedTaken, sender]

theorem unlistedTaken_unassigned : FaultsUnassigned l address .kind (unlistedTaken l address) := by
  intro h sender
  rw [unlistedTaken, sender]

theorem helloTaken_noRow {identity : Identity} {credit columns rows : Byte}
    (out : address = 0 ∨ 3 ≤ address.toNat ∧ address.toNat ≤ 15) :
    helloTaken l address identity credit columns rows h = protocolFault l address .hello h := by
  rw [helloTaken, senderOf_noRow out]
  dsimp only
  rw [rowOf_none out]

/-! ### Packets of a stranger (R131, R132) -/

/-- R132: the packet of a stranger is dropped and counted. -/
def CountsStranger (l : Fin 6) (address : Byte) (f : Hub → Hub) : Prop :=
  ∀ h a, senderOf h l address = .stranger a → f h = countStranger l h

theorem bySender_stranger {g : Fin 2 → Fin 8 → Hub → Hub} : CountsStranger l address (bySender l address g) := by
  intro h a sender
  rw [bySender, sender]

theorem unlistedTaken_stranger : CountsStranger l address (unlistedTaken l address) := by
  intro h a sender
  rw [unlistedTaken, sender]

theorem helloTaken_stranger {identity : Identity} {credit columns rows : Byte} :
    CountsStranger l address (helloTaken l address identity credit columns rows) := by
  intro h a sender
  rw [helloTaken, sender]

theorem takenTaken_strangerNone {tile : Half} {sig : Signature} (sender : senderOf h l address = .stranger a)
    (none : matchSent h l a tile.toNat = none) : takenTaken l address tile sig h = countStranger l h := by
  rw [takenTaken, sender]
  dsimp only
  rw [none]

theorem refusedTaken_strangerNone {tile : Half} {reason : Byte} (sender : senderOf h l address = .stranger a)
    (none : matchSent h l a tile.toNat = none) : refusedTaken l address tile reason h = countStranger l h := by
  rw [refusedTaken, sender]
  dsimp only
  rw [none]
  cases refusedReasonOf reason <;> rfl

theorem unlistedTaken_other (sender : ∀ b, senderOf h l address ≠ .stranger b) :
    unlistedTaken l address h = protocolFault l address .kind h := by
  unfold unlistedTaken
  split
  · next b e => exact absurd e (sender b)
  · rfl
  · rfl

end

/-! ### NOTE (R133, R195) -/

section
variable {s : State} {l : Fin 6} {address : Byte} {payload : List Byte} {h k : Hub} {a : Fin 2} {n : Fin 8}

theorem note_completes (short : payload.length ≤ 16)
    (taken : takePacket l address (noteTaken l address payload) s.hub = k) : Completes (.note l address payload) s k :=
  complete_completes (f := noteArrives l address payload) rfl ((if_neg (Nat.not_lt.2 short)).trans taken)

theorem unlisted_completes {kind : Byte} (unlisted : listedUpstream kind = false)
    (taken : takePacket l address (unlistedTaken l address) s.hub = k) :
    Completes (.packetOfNoListedKind l address kind) s k :=
  complete_completes (f := unlistedArrives l address kind) rfl ((if_neg (Bool.eq_false_iff.1 unlisted)).trans taken)

theorem noteTaken_joined (sender : senderOf h l address = .screen a n) (joined : h.screens[n].state = .joined) :
    noteTaken l address payload h =
      notify (ownerOrBoth h.screens[n].owner) .touch ([byteOfFin n, byteOf payload.length] ++ payload) h := by
  rw [noteTaken, bySender, sender]
  dsimp only
  rw [if_pos joined, counted, List.flatMap_singleton']
  rfl

theorem noteTaken_away (sender : senderOf h l address = .screen a n) (away : h.screens[n].state ≠ .joined) :
    noteTaken l address payload h = countStranger l h := by
  rw [noteTaken, bySender, sender]
  exact if_neg away

theorem shownTaken_away {number : Half} (sender : senderOf h l address = .screen a n)
    (away : h.screens[n].state ≠ .joined) : shownTaken l address number h = protocolFault l address .shown h := by
  rw [shownTaken, bySender, sender]
  exact if_neg away

theorem noteArrives_long (long : 16 < payload.length) :
    Completes (.note l address payload) s (upstreamFailure l s.hub) :=
  complete_completes (f := noteArrives l address payload) rfl (if_pos long)

/-- R105, R129: what becomes of the six packets that name no kind and open no roll, where the taking is all that
counts. -/
theorem packets_complete {tile number : Half} {sig : Signature} {reason credit : Byte} (short : payload.length ≤ 16)
    (all : ∀ f, FaultsUnassigned l address .address f → takePacket l address f s.hub = k) :
    Completes (.taken l address tile sig) s k ∧ Completes (.refused l address tile reason) s k ∧
      Completes (.shown l address number) s k ∧ Completes (.loss l address) s k ∧
      Completes (.state l address credit) s k ∧ Completes (.note l address payload) s k :=
  ⟨complete_completes (f := takePacket l address (takenTaken l address tile sig)) rfl (all _ takenTaken_unassigned),
    complete_completes (f := takePacket l address (refusedTaken l address tile reason)) rfl
      (all _ refusedTaken_unassigned),
    complete_completes (f := takePacket l address (shownTaken l address number)) rfl (all _ bySender_unassigned),
    complete_completes (f := takePacket l address (lossTaken l address)) rfl (all _ bySender_unassigned),
    complete_completes (f := takePacket l address (stateTaken l address credit)) rfl (all _ bySender_unassigned),
    note_completes short (all _ bySender_unassigned)⟩

end

/-! ### Check failures (R105, R106) -/

section
variable {l : Fin 6} {h : Hub} {cap : LinkRate}

theorem checkFailure_few (few : h.links[l].checkFailures < 15) :
    checkFailure l h = h.modLink l fun k => { k with checkFailures := k.checkFailures + 1 } := by
  rw [checkFailure, Hub.modLink_links, upd_get_same]
  exact if_neg (Nat.not_le.2 (Nat.succ_lt_succ few))

theorem checkFailure_last (hc : cap = h.links[l].currentCap.lower) (last : h.links[l].checkFailures = 15) :
    checkFailure l h =
      resetLink l cap
        (notify (linkPorts h l) .linkFault [byteOfFin l, faultRate, cap.code]
          (h.modLink l fun k => { k with currentCap := cap, checkFailures := 0 })) := by
  have limit : Config.checkFailureLimit ≤
      (h.modLink l fun k => { k with checkFailures := k.checkFailures + 1 }).links[l].checkFailures := by
    rw [Hub.modLink_links, upd_get_same]
    exact (congrArg (· + 1) last).ge
  have same : (h.modLink l fun k => { k with checkFailures := k.checkFailures + 1 }).links[l].currentCap =
      h.links[l].currentCap := by rw [Hub.modLink_links, upd_get_same]
  rw [checkFailure, if_pos limit, rateFallback, same, ← hc, modLink_modLink]
  dsimp only
  rw [notify_modLink, modLink_modLink]
  rfl

/-! ### The ports of a link (R135) -/

theorem linkPorts_eq (h : Hub) (l : Fin 6) :
    linkPorts h l = [Port.a, .b].filter fun p =>
      decide ((∃ n ∈ boundTo h l, h.screens[n].owner = some p) ∨ ∀ n ∈ boundTo h l, h.screens[n].owner = none) := by
  have owns (p : Port) : ((boundTo h l).any fun n => h.screens[n].owner == some p) = true ↔
      ∃ n ∈ boundTo h l, h.screens[n].owner = some p := by
    simp only [List.any_eq_true, beq_iff_eq]
  have ports : [Port.a, .b] = bothPorts := rfl
  rw [linkPorts, ports]
  split
  · next none =>
    have free (p : Port) : ¬∃ n ∈ boundTo h l, h.screens[n].owner = some p := fun owner => by
      have nil := List.isEmpty_iff.1 none
      have mem : p ∈ bothPorts.filter fun p => (boundTo h l).any fun n => h.screens[n].owner == some p :=
        List.mem_filter.2 ⟨by cases p <;> decide, (owns p).2 owner⟩
      rw [nil] at mem
      cases mem
    refine (List.filter_eq_self.2 fun p _ => decide_eq_true (.inr fun n bound => ?_)).symm
    rcases owner : h.screens[n].owner with _ | q
    · rfl
    · exact absurd ⟨n, bound, owner⟩ (free q)
  · next some =>
    have owned : ¬∀ n ∈ boundTo h l, h.screens[n].owner = none := fun free => some (by
      refine List.isEmpty_iff.2 (List.filter_eq_nil_iff.2 fun p _ owner => ?_)
      obtain ⟨n, bound, owner⟩ := (owns p).1 owner
      cases (free n bound).symm.trans owner)
    refine List.filter_congr fun p _ => ?_
    rw [Bool.eq_iff_iff, owns, decide_eq_true_iff, or_iff_left owned]

end

/-- Settles O51, by the sender that the address table names; the six packets of an address without a row as one. -/
theorem checkFailuresStrangersAndNotes : Obligations.CheckFailuresStrangersAndNotes := by
  refine ⟨fun k => receiverOpen_iff, fun kind => ?_, rfl, rfl, fun s l => ⟨fun opened => ?_, fun closed => ?_, fun due => ?_⟩,
    fun h l cap hc => ⟨checkFailure_few, checkFailure_last hc⟩, ?_, ?_, ?_, ?_, fun s l address payload long =>
    ⟨fun opened => ?_, fun closed => ?_⟩, fun h l address k => ⟨rfl, linkPorts_eq h l⟩, rfl⟩
  · rw [listedUpstream, Bool.and_eq_true, decide_eq_true_iff, decide_eq_true_iff]
  · exact complete_completes (f := upstreamFailure l) rfl (if_pos opened)
  · exact complete_completes (f := upstreamFailure l) rfl (if_neg (Bool.eq_false_iff.1 closed))
  · exact complete_completes (f := clearWindow) rfl (if_pos due)
  · rintro s l a payload kind h opened short unlisted rfl
    have taken (f : Hub → Hub) := takePacket_taken opened a f
    refine ⟨fun i row => ?_, fun other => ?_, fun row tile number sig reason credit => ?_, fun n row =>
      ⟨fun joined => ?_, fun away => ?_⟩⟩
    · have sender := senderOf_stranger row
      exact ⟨note_completes short ((taken _).trans (bySender_stranger _ a sender)),
        unlisted_completes unlisted ((taken _).trans (unlistedTaken_stranger _ a sender))⟩
    · exact unlisted_completes unlisted ((taken _).trans (unlistedTaken_other (senderOf_hello other)))
    · exact packets_complete short fun f fault => (taken f).trans (fault _ (senderOf_unassigned row))
    · rw [← touchSilence_screens l (rowByte a)] at joined ⊢
      exact note_completes short ((taken _).trans (noteTaken_joined (senderOf_screen row) joined))
    · rw [← touchSilence_screens l (rowByte a)] at away
      exact note_completes short ((taken _).trans (noteTaken_away (senderOf_screen row) away))
  · rintro s l a i identity tile number sig reason credit columns rows h opened row rfl
    have same := touchSilence_stranger (h := s.hub) row
    have sender : senderOf s.hub l (rowByte a) = .stranger a := by
      have touched := senderOf_stranger row
      rwa [same] at touched
    have taken {f : Hub → Hub} {k : Hub} (e : f s.hub = k) : takePacket l (rowByte a) f s.hub = k := by
      rw [takePacket_taken opened, same, e]
    refine ⟨fun none => ⟨?_, ?_⟩, ?_, ?_, ?_, ?_⟩
    · exact complete_completes (f := takePacket l (rowByte a) (takenTaken l (rowByte a) tile sig)) rfl
        (taken (takenTaken_strangerNone sender none))
    · exact complete_completes (f := takePacket l (rowByte a) (refusedTaken l (rowByte a) tile reason)) rfl
        (taken (refusedTaken_strangerNone sender none))
    · exact complete_completes (f := takePacket l (rowByte a) (shownTaken l (rowByte a) number)) rfl
        (taken (bySender_stranger _ a sender))
    · exact complete_completes (f := takePacket l (rowByte a) (lossTaken l (rowByte a))) rfl
        (taken (bySender_stranger _ a sender))
    · exact complete_completes (f := takePacket l (rowByte a) (stateTaken l (rowByte a) credit)) rfl
        (taken (bySender_stranger _ a sender))
    · exact complete_completes
        (f := takePacket l (rowByte a) (helloTaken l (rowByte a) identity credit columns rows)) rfl
        (taken (helloTaken_stranger _ a sender))
  · intro s l a n number opened row away
    have deaf : touchSilence l (rowByte a) s.hub = s.hub := touchSilence_deaf fun ⟨_, _, m, other, joined⟩ => by
      cases row.symm.trans other
      exact away joined
    have sender := senderOf_screen row
    rw [deaf] at sender
    refine complete_completes (f := takePacket l (rowByte a) (shownTaken l (rowByte a) number)) rfl ?_
    rw [takePacket_taken opened, deaf]
    exact shownTaken_away sender away
  · intro s l address tile number sig identity reason credit columns rows kind payload short unlisted
    refine ⟨fun h which => packets_complete short fun f fault => ?_, fun h g which => ?_⟩
    · rcases which with ⟨closed, rfl⟩ | ⟨opened, above, rfl⟩ | ⟨opened, out, rfl⟩
      · exact takePacket_closed closed
      · exact takePacket_above opened above
      · exact (takePacket_noRow opened out).trans (fault _ (senderOf_noRow out))
    · have hello {k : Hub}
          (taken : takePacket l address (helloTaken l address identity credit columns rows) s.hub = k) :
          Completes (.hello l address identity credit columns rows) s k :=
        complete_completes (f := takePacket l address (helloTaken l address identity credit columns rows)) rfl taken
      rcases which with ⟨closed, rfl, rfl⟩ | ⟨opened, above, rfl, rfl⟩ | ⟨opened, out, rfl, rfl⟩
      · exact ⟨hello (takePacket_closed closed), unlisted_completes unlisted (takePacket_closed closed)⟩
      · exact ⟨hello (takePacket_above opened above), unlisted_completes unlisted (takePacket_above opened above)⟩
      · exact ⟨hello ((takePacket_noRow opened out).trans (helloTaken_noRow out)),
          unlisted_completes unlisted ((takePacket_noRow opened out).trans
            (unlistedTaken_unassigned _ (senderOf_noRow out)))⟩
  · have failed : upstreamFailure l s.hub = checkFailure l s.hub := if_pos opened
    exact failed ▸ noteArrives_long long
  · have ignored : upstreamFailure l s.hub = s.hub := if_neg (Bool.eq_false_iff.1 closed)
    exact (congrArg (Completes (.note l address payload) s) ignored).mp (noteArrives_long long)

end Sys2Proof.Machine

/-! O52, O53: frames and packets are read back. -/

namespace Sys2Proof.Machine

/-- R174: a request whose lists have the lengths that its form allows. -/
theorem listsFit_of {r : Request} (layout : ∀ a b c v, r = .layoutSet a b c v → v.length ≤ 4)
    (seize : ∀ a v, r = .seize a v → v.length ≤ 4) (curve : ∀ k ps, r = .curveSet k ps → ps.length = 8) : r.listsFit := by
  cases r with
  | layoutSet a b c v => exact layout a b c v rfl
  | seize a v => exact seize a v rfl
  | curveSet k ps => exact curve k ps rfl
  | _ => trivial

theorem parse_frame {r : Request} (fit : r.listsFit) (tag : Byte) :
    parse (r.frame tag).kind (r.frame tag).body = .ok r := by
  have kind : requestKind (r.frame tag).kind = some r.kind := requestKind_code r.kind
  have body : parseBody r.kind (r.frame tag).body = some r := parseBody_body fit
  rw [parse, kind]
  dsimp only
  rw [body]

theorem badKind_arrival {s : State} {p : Port} {kind tag : Byte} (unknown : requestKind kind = none) :
    exec (.badKind p kind tag) s = exec (.frameArrival p kind tag []) s := by
  have arrives : badKindArrives p kind tag s.hub = frameArrives p { kind := kind, tag := tag, body := [] } s.hub := by
    rw [badKindArrives, unknown]
    rfl
  exact congrArg (fun h => complete (fun _ => h) s) arrives

theorem badKind_ignored {s : State} {p : Port} {kind tag : Byte} (known : requestKind kind ≠ none) :
    Completes (.badKind p kind tag) s s.hub :=
  complete_completes (f := badKindArrives p kind tag) rfl (if_neg fun none => known (Option.isNone_iff_eq_none.1 none))

/-- Settles O52: each command of a request is by definition the arrival of its frame. -/
theorem requestsReadBack : Obligations.RequestsReadBack := by
  refine ⟨?_, fun s p a b c d e f tag kind x identity colour views points named hn =>
    ⟨?_, badKind_arrival, badKind_ignored⟩, fun r tag layout seize curve =>
    parse_frame (listsFit_of layout seize curve) tag⟩
  · rintro f covered rfl
    rfl
  · simp only [hn]
    repeat' apply And.intro
    all_goals rfl

/-! ### Packets (R191, R194, R195) -/

section
variable {l : Fin 6} {address kind : Byte} {payload : List Byte}

theorem of16_inj {b1 b0 c1 c0 : Byte} (e : of16 b1 b0 = of16 c1 c0) : b0 = c0 := by
  have low (x y : Byte) : (of16 x y).extractLsb' 0 8 = y := by
    rw [of16]
    exact BitVec.extractLsb'_append_eq_right
  rw [← low b1 b0, e, low]

theorem splitPacket_check (short : payload.length < 65536) (b1 b0 : Byte) :
    splitPacket (address :: kind :: (be16Of payload.length ++ payload ++ [b1, b0])) =
      some (address, kind, payload, of16 b1 b0) := by
  obtain ⟨p1, p0, bytes, value⟩ := be16_eq_cons (BitVec.ofNat 16 payload.length)
  have count : (of16 p1 p0).toNat = payload.length := by
    rw [value, BitVec.toNat_ofNat]
    exact Nat.mod_eq_of_lt short
  rw [be16Of, bytes]
  simp [splitPacket, count]

/-- R191: what the check covers. -/
def covered (address kind : Byte) (payload : List Byte) : List Byte := [address, kind] ++ be16Of payload.length ++ payload

theorem packetCommand_check (short : payload.length < 65536) (low : address.toNat ≤ 15) (b1 b0 : Byte) :
    packetCommand l (covered address kind payload ++ [b1, b0]) =
      if crc16 (covered address kind payload) ≠ of16 b1 b0 then .upstreamCheckFailure l
      else payloadCommand l address kind payload := by
  have split := splitPacket_check (address := address) (kind := kind) short b1 b0
  have bytes : covered address kind payload ++ [b1, b0] =
      address :: kind :: (be16Of payload.length ++ payload ++ [b1, b0]) := rfl
  have head : (covered address kind payload ++ [b1, b0]).take (payload.length + 4) = covered address kind payload := by
    refine List.take_left' ?_
    rw [covered, List.length_append, Nat.add_comm]
    rfl
  rw [← bytes] at split
  rw [packetCommand, split]
  dsimp only
  rw [head, if_neg (Nat.not_lt.2 low)]

/-- R195: a packet is read back; with another last byte it fails its check. -/
theorem packet_readBack {i : Instr} {bytes : List Byte} (low : address.toNat ≤ 15) (short : payload.length < 65536)
    (reads : payloadCommand l address kind payload = i) (hb : packetBytes address kind payload = bytes) :
    packetCommand l bytes = i ∧
      ∀ (head : List Byte) (last b : Byte), bytes = head ++ [last] → b ≠ last →
        packetCommand l (head ++ [b]) = .upstreamCheckFailure l := by
  obtain ⟨c1, c0, check, value⟩ := be16_eq_cons (crc16 (covered address kind payload))
  have bytes' : bytes = covered address kind payload ++ [c1, c0] := by
    rw [← hb, ← check]
    rfl
  refine ⟨?_, fun head last b split ne => ?_⟩
  · rw [bytes', packetCommand_check short low, value, if_neg (not_not.2 rfl), reads]
  · have parts : (covered address kind payload ++ [c1]) ++ [c0] = head ++ [last] := by
      rw [List.append_assoc, ← split, bytes']
      rfl
    obtain ⟨front, back⟩ := List.append_inj' parts rfl
    obtain rfl : c0 = last := List.singleton_inj.1 back
    have differs : crc16 (covered address kind payload) ≠ of16 c1 b := fun same =>
      ne (of16_inj (same.symm.trans value.symm))
    rw [← front, List.append_assoc, List.singleton_append, packetCommand_check short low, if_pos differs]

/-! ### The payload of each kind -/

theorem takenPayload_bytes (tile : Half) (sig : Signature) :
    takenPayload l address (be16 tile ++ be32 sig) = some (.taken l address tile sig) := by
  obtain ⟨t1, t0, tiles, rfl⟩ := be16_eq_cons tile
  obtain ⟨s3, s2, s1, s0, sigs, rfl⟩ := be32_eq_cons sig
  rw [tiles, sigs]
  rfl

theorem refusedPayload_bytes (tile : Half) (reason : Byte) :
    refusedPayload l address (be16 tile ++ [reason]) = some (.refused l address tile reason) := by
  obtain ⟨t1, t0, tiles, rfl⟩ := be16_eq_cons tile
  rw [tiles]
  rfl

theorem shownPayload_bytes (number : Half) : shownPayload l address (be16 number) = some (.shown l address number) := by
  obtain ⟨n1, n0, numbers, rfl⟩ := be16_eq_cons number
  rw [numbers]
  rfl

theorem helloPayload_bytes (identity : Identity) (credit columns rows : Byte) :
    helloPayload l address (be48 identity ++ [credit, columns, rows]) =
      some (.hello l address identity credit columns rows) := by
  obtain ⟨b5, b4, b3, b2, b1, b0, bytes, rfl⟩ := be48_eq_cons identity
  rw [bytes]
  rfl

theorem notePayload_bytes {note : List Byte} (short : note.length ≤ 16) :
    notePayload l address (counted (fun b => [b]) note) = some (.note l address note) := by
  have count : note.length = (byteOf note.length).toNat := by
    rw [byteOf, BitVec.toNat_ofNat]
    exact (Nat.mod_eq_of_lt (by omega)).symm
  rw [counted, List.flatMap_singleton']
  exact if_pos ⟨count, short⟩

theorem addressByte_iff : addressByte address = true ↔ address.toNat ≤ 15 := decide_eq_true_iff

end

/-- Settles O53, by the payload of each of the seven kinds. -/
theorem packetsReadBack : Obligations.PacketsReadBack := by
  refine ⟨?_, fun l address reason credit columns rows tile number sig identity payload =>
    ⟨rfl, rfl, rfl, rfl, rfl, rfl, rfl⟩, fun b a index sig pixels address level number screens keepAlive colour =>
    ⟨rfl, rfl, rfl, rfl, rfl, rfl, rfl⟩, fun i l bytes formed carries taken refused shown loss note hello state => ?_⟩
  · rintro address kind payload covered rfl
    rfl
  · cases i with
    | taken m address tile sig =>
      obtain rfl := taken m address tile sig rfl
      exact packet_readBack (kind := 0x81) (payload := be16 tile ++ be32 sig)
        (addressByte_iff.1 formed) (by simp [be16, be32])
        (congrArg (orFailure m) (takenPayload_bytes tile sig))
        (Option.some_injective _ carries)
    | refused m address tile reason =>
      obtain rfl := refused m address tile reason rfl
      exact packet_readBack (kind := 0x82) (payload := be16 tile ++ [reason])
        (addressByte_iff.1 formed) (by simp [be16])
        (congrArg (orFailure m) (refusedPayload_bytes tile reason))
        (Option.some_injective _ carries)
    | shown m address number =>
      obtain rfl := shown m address number rfl
      exact packet_readBack (kind := 0x83) (payload := be16 number)
        (addressByte_iff.1 formed) (by simp [be16])
        (congrArg (orFailure m) (shownPayload_bytes number))
        (Option.some_injective _ carries)
    | loss m address =>
      obtain rfl := loss m address rfl
      exact packet_readBack (kind := 0x84) (payload := []) (addressByte_iff.1 formed) (by decide) rfl
        (Option.some_injective _ carries)
    | note m address payload =>
      obtain rfl := note m address payload rfl
      obtain ⟨low, short⟩ := Bool.and_eq_true_iff.1 formed
      have bytes := of_decide_eq_true short
      exact packet_readBack (kind := 0x85) (payload := counted (fun b => [b]) payload)
        (addressByte_iff.1 low) (by simp [counted]; omega)
        (congrArg (orFailure m) (notePayload_bytes bytes))
        (Option.some_injective _ carries)
    | hello m address identity credit columns rows =>
      obtain rfl := hello m address identity credit columns rows rfl
      exact packet_readBack (kind := 0x86) (payload := be48 identity ++ [credit, columns, rows])
        (addressByte_iff.1 formed) (by simp [be48])
        (congrArg (orFailure m) (helloPayload_bytes identity credit columns rows)) (Option.some_injective _ carries)
    | state m address credit =>
      obtain rfl := state m address credit rfl
      exact packet_readBack (kind := 0x87) (payload := [credit]) (addressByte_iff.1 formed) (by rw [List.length_singleton]; decide)
        rfl (Option.some_injective _ carries)
    | _ => cases carries

end Sys2Proof.Machine

/-! O54: what follows at an event. -/

namespace Sys2Proof.Machine

/-! ### The engines and the groups (R67, R71, R73, R78, R83, R84) -/

section
variable {h : Hub} {n : Fin 8} {x : Screen} {g : Fin 4}

theorem endGathering_ends (gathering : h.screens[n].engine.cycle = some .gathering)
    (none : ∀ e ∈ h.screens[n].entries, e.state ≠ .behind ∧ e.state ≠ .sending) :
    endGathering h n = (leaveSources n h).modEngine n fun e => { e with cycle := some .ready } :=
  if_pos ((mayEndGathering_iff h n).2 ⟨gathering, none⟩)

theorem endGathering_stays (not : h.screens[n].engine.cycle ≠ some .gathering ∨
    ∃ e ∈ h.screens[n].entries, e.state = .behind ∨ e.state = .sending) : endGathering h n = h := by
  refine if_neg fun ends => ?_
  obtain ⟨gathering, none⟩ := (mayEndGathering_iff h n).1 ends
  rcases not with other | ⟨e, mem, behind | sending⟩
  · exact other gathering
  · exact (none e mem).1 behind
  · exact (none e mem).2 sending

theorem endCut_ends (cutting : h.screens[n].engine.cycle = some .cutting)
    (none : ∀ e ∈ h.screens[n].entries, e.state ≠ .sending) : endCut h n = startCycle n h :=
  if_pos ((mayEndCut_iff h n).2 ⟨cutting, none⟩)

theorem endCut_stays (not : h.screens[n].engine.cycle ≠ some .cutting ∨ ∃ e ∈ h.screens[n].entries, e.state = .sending) :
    endCut h n = h := by
  refine if_neg fun ends => ?_
  obtain ⟨cutting, none⟩ := (mayEndCut_iff h n).1 ends
  rcases not with other | ⟨e, mem, sending⟩
  · exact other cutting
  · exact none e mem sending

theorem showIfReady_shows {l : Fin 6} {a : Fin 2} (ready : h.screens[n].engine.cycle = some .ready)
    (single : inRunning h n = false) (address : addressOf h n = some (l, a)) :
    showIfReady h n =
      (h.modLink l fun k =>
          { k with
            control := k.control ++ [.showFrame (rowByte a) (h.screens[n].present + 1) (setScreens [n])] }).modEngine n
        fun e => { e with cycle := some .presenting, showCount := 1 } := by
  rw [showIfReady, if_pos ⟨ready, single⟩, handShow, address]
  rfl

theorem showIfReady_stays (not : h.screens[n].engine.cycle ≠ some .ready ∨ inRunning h n = true) :
    showIfReady h n = h := by
  refine if_neg ?_
  rintro ⟨ready, single⟩
  rcases not with other | running
  · exact other ready
  · cases single.symm.trans running

theorem releaseGroup_stays {running : ScreenSet} (hr : running = h.groups[g].running)
    (not : (∀ n : Fin 8, running[n] = false) ∨
      ∃ n : Fin 8, running[n] = true ∧ h.screens[n].engine.cycle ≠ some .ready) : releaseGroup h g = h := by
  refine if_neg fun may => ?_
  obtain ⟨⟨n, member⟩, ready⟩ := (mayRelease_iff h g hr).1 may
  rcases not with empty | ⟨m, member, other⟩
  · cases (empty n).symm.trans member
  · exact other (ready m member)

/-! ### Grants and transmissions (R91, R95, R166) -/

theorem grants_stop {m : Nat} (stop : lowestFreeBuffer h = none ∨ nextAsking h = none) : grants (m + 1) h = h := by
  have none : grantOnce h = none := by
    rw [grantOnce]
    rcases stop with free | asking
    · rw [free]
    · rw [asking]
      cases lowestFreeBuffer h <;> rfl
  rw [grants, none]

theorem grants_next {m : Nat} {b : Fin 32} {l : Fin 6} (free : lowestFreeBuffer h = some b)
    (asking : nextAsking h = some l) : grants (m + 1) h = grants m (grantTo b l h) := by
  have next : grantOnce h = some (grantTo b l h) := by rw [grantOnce, free, asking]
  rw [grants, next]

end

section
variable {h : Hub} {l : Fin 6} {k : Link}

theorem transmitNext_busy (hk : k = h.links[l]) (busy : k.line ≠ none) : transmitNext h l = h := by
  rw [transmitNext, ← hk]
  exact if_pos (Option.isSome_iff_ne_none.2 busy)

theorem transmitNext_control {q : Packet} {rest : List Packet} (hk : k = h.links[l]) (line : k.line = none)
    (control : k.control = q :: rest) :
    (k.state = .rolling ∨ k.state = .up →
      transmitNext h l = h.modLink l fun _ =>
        { k with control := rest, line := some { packet := q, dead := false } }) ∧
    (k.state ≠ .rolling → k.state ≠ .up → transmitNext h l = h) := by
  refine ⟨fun running => ?_, fun rolling up => ?_⟩
  · rw [transmitNext, ← hk]
    rw [line, control]
    dsimp only
    rw [if_neg (by decide), if_pos running]
    exact congrArg (fun v => ({ h with links := v } : Hub)) (upd_congr (hk ▸ rfl))
  · rw [transmitNext, ← hk]
    rw [line, control]
    dsimp only
    rw [if_neg (by decide), if_neg (not_or.2 ⟨rolling, up⟩)]

theorem transmitNext_idle (hk : k = h.links[l]) (line : k.line = none) (control : k.control = [])
    (idle : k.tiles = [] ∨ k.state ≠ .up) : transmitNext h l = h := by
  rw [transmitNext, ← hk]
  rw [line, control]
  dsimp only
  rw [if_neg (by decide)]
  rcases tiles : k.tiles with _ | ⟨b, rest⟩
  · rfl
  · dsimp only
    rcases h.buffers[b] with _ | x
    · rfl
    · dsimp only
      rw [tiles] at idle
      exact if_neg (idle.resolve_left nofun)

theorem transmitNext_tile {b : Fin 32} {rest : List (Fin 32)} {x : Lend} (hk : k = h.links[l]) (line : k.line = none)
    (control : k.control = []) (tiles : k.tiles = b :: rest) (up : k.state = .up) (lent : h.buffers[b] = some x) :
    transmitNext h l =
      { h with
        buffers := h.buffers.set b (some { x with inTransmission := true })
        links := h.links.set l
          { k with
            tiles := rest
            line := some
              { packet := .tile b x.row x.tile x.signature
                  (h.dram.readBytes (Config.bufferBase b.val) 4800), dead := false } } } := by
  rw [transmitNext, ← hk]
  rw [line, control]
  dsimp only
  rw [if_neg (by decide), tiles]
  dsimp only
  rw [lent]
  dsimp only
  rw [if_pos up, modBuffer_eq lent]
  exact congrArg (fun v => ({ h with buffers := h.buffers.set b (some { x with inTransmission := true }), links := v } : Hub))
    (upd_eq_set (by rw [← hk, ← control]; rfl))

end

section
variable {h : Hub} {p : Port} {x : PortState}

theorem transmitPort_waits (hx : x = h.port p)
    (not : h.starting = true ∨ x.line ≠ none ∨ x.replies = [] ∧ x.notices = []) : transmitPort h p = h := by
  have same (still : x.transmit = x) : h.modPort p PortState.transmit = h := by
    subst hx
    cases p
    · exact congrArg (fun v => ({ h with portA := v } : Hub)) still
    · exact congrArg (fun v => ({ h with portB := v } : Hub)) still
  rw [transmitPort]
  split
  · rfl
  · next started =>
    refine same ?_
    rw [PortState.transmit]
    rcases not with starting | busy | ⟨replies, notices⟩
    · exact absurd starting started
    · exact if_pos (Option.isSome_iff_ne_none.2 busy)
    · rw [replies, notices]
      exact ite_self _

theorem transmitPort_reply {f : Frame} {rest : List Frame} (hx : x = h.port p) (started : h.starting = false)
    (line : x.line = none) (replies : x.replies = f :: rest) :
    transmitPort h p = h.modPort p fun x => { x with replies := rest, line := some f } := by
  rw [transmitPort, started, if_neg (by decide)]
  refine modPort_congr ?_
  rw [← hx, PortState.transmit, line, replies]
  rfl

theorem transmitPort_notice {f : Frame} {rest : List Frame} (hx : x = h.port p) (started : h.starting = false)
    (line : x.line = none) (replies : x.replies = []) (notices : x.notices = f :: rest) :
    transmitPort h p = h.modPort p fun x => { x with notices := rest, line := some f } := by
  rw [transmitPort, started, if_neg (by decide)]
  refine modPort_congr ?_
  rw [← hx, PortState.transmit, line, replies, notices]
  rfl

/-! ### Frames that wait (R164) -/

theorem mayBegin_iff : x.mayBegin = true ↔ x.handling = none ∧ x.input ≠ [] ∧ 0 < x.freePlaces := by
  rw [PortState.mayBegin, Bool.and_eq_true, Bool.and_eq_true, Option.isNone_iff_eq_none, decide_eq_true_iff, and_assoc,
    Bool.not_eq_true', List.isEmpty_eq_false_iff]

/-- R164: the port may begin a frame. -/
def Hub.begins (h : Hub) (p : Port) : Prop :=
  h.starting = false ∧ (h.port p).handling = none ∧ (h.port p).input ≠ [] ∧ 0 < (h.port p).freePlaces

theorem beginningPort_none (stays : ∀ p, ¬h.begins p) : beginningPort h = none := by
  rw [beginningPort]
  split
  · rfl
  · next started =>
    have idle (p : Port) : ¬(h.port p).mayBegin = true := fun may =>
      stays p ⟨Bool.eq_false_iff.2 started, mayBegin_iff.1 may⟩
    exact (if_neg (idle .a)).trans (if_neg (idle .b))

theorem beginningPort_some (begins : h.begins p) (first : p = .b → ¬h.begins .a) : beginningPort h = some p := by
  obtain ⟨started, may⟩ := begins
  rw [beginningPort, started, if_neg (by decide)]
  cases p
  · exact if_pos (mayBegin_iff.2 may)
  · exact (if_neg fun other => first rfl ⟨started, mayBegin_iff.1 other⟩).trans (if_pos (mayBegin_iff.2 may))

theorem handleOldest_frame {f : Frame} {rest : List Frame} (input : (h.port p).input = f :: rest) :
    handleOldest p h = handleFrame p f (h.modPort p fun x => { x with input := rest }) := by
  rw [handleOldest, input]

end

/-! ### Nothing waits on what is free -/

theorem foldl_establishes {α β : Type} {f : β → α → β} {holds : α → β → Prop} (set : ∀ b a, holds a (f b a))
    (keeps : ∀ b a c, holds c b → holds c (f b a)) (as : List α) (b : β) : ∀ a ∈ as, holds a (as.foldl f b) := by
  have kept (c : α) (as : List α) (b : β) (h : holds c b) : holds c (as.foldl f b) := by
    induction as generalizing b with
    | nil => exact h
    | cons a as ih => exact ih (f b a) (keeps b a c h)
  induction as generalizing b with
  | nil => exact fun _ => nofun
  | cons a as ih =>
    intro c mem
    rcases List.mem_cons.1 mem with rfl | mem
    · exact kept c as (f b c) (set b c)
    · exact ih (f b a) c mem

/-- R95: no control packet waits on a free line of the link. -/
def Hub.lineServed (l : Fin 6) (h : Hub) : Prop :=
  h.links[l].line = none → h.links[l].state = .rolling ∨ h.links[l].state = .up → h.links[l].control = []

/-- R166: no frame waits on an idle transmitter of the port. -/
def Hub.portServed (p : Port) (h : Hub) : Prop :=
  h.starting = false → (h.port p).line = none → (h.port p).replies = [] ∧ (h.port p).notices = []

theorem modLink_lineServed {h : Hub} {l : Fin 6} {f : Link → Link} (busy : ∀ x, (f x).line ≠ none) :
    (h.modLink l f).lineServed l := by
  intro line
  rw [Hub.modLink_links, upd_get_same] at line
  exact absurd line (busy _)

theorem transmitNext_served (h : Hub) (l : Fin 6) : (transmitNext h l).lineServed l := by
  unfold transmitNext
  dsimp only
  split
  · next busy => exact fun line => absurd line (Option.isSome_iff_ne_none.1 busy)
  · split
    · split
      · exact modLink_lineServed fun _ => nofun
      · next stopped => exact fun _ running => absurd running stopped
    · next control =>
      have still : h.lineServed l := fun _ _ => control
      split
      · split
        · split
          · exact modLink_lineServed fun _ => nofun
          · exact still
        · exact still
      · exact still

theorem transmitNext_others (h : Hub) {l m : Fin 6} (ne : l ≠ m) : (transmitNext h l).links[m] = h.links[m] := by
  unfold transmitNext
  dsimp only
  split
  · rfl
  · split
    · split
      · exact upd_get_other _ _ ne
      · rfl
    · split
      · split
        · split
          · exact upd_get_other _ _ ne
          · rfl
        · rfl
      · rfl

theorem transmitPort_links (h : Hub) (p : Port) : (transmitPort h p).links = h.links := by
  unfold transmitPort
  split
  · rfl
  · cases p <;> rfl

theorem foldl_transmitPort_links (ps : List Port) (h : Hub) : (ps.foldl transmitPort h).links = h.links := by
  induction ps generalizing h with
  | nil => rfl
  | cons p ps ih => exact (ih _).trans (transmitPort_links h p)

theorem transmit_served {x : PortState} (line : x.transmit.line = none) :
    x.transmit.replies = [] ∧ x.transmit.notices = [] := by
  revert line
  unfold PortState.transmit
  split
  · next busy => exact fun line => absurd line (Option.isSome_iff_ne_none.1 busy)
  · split
    · nofun
    · next replies =>
      split
      · nofun
      · next notices => exact fun _ => ⟨replies, notices⟩

theorem transmitPort_served (h : Hub) (p : Port) : (transmitPort h p).portServed p := by
  unfold transmitPort
  split
  · next starting => exact fun started => absurd (started.symm.trans starting) nofun
  · intro _ line
    have port : (h.modPort p PortState.transmit).port p = (h.port p).transmit := by cases p <;> rfl
    rw [port] at line ⊢
    exact transmit_served line

theorem transmitPort_keeps (h : Hub) (p q : Port) (served : h.portServed q) : (transmitPort h p).portServed q := by
  rcases eq_or_ne p q with rfl | ne
  · exact transmitPort_served h p
  · have other : (transmitPort h p).port q = h.port q := by
      unfold transmitPort
      split
      · rfl
      · cases p with
        | a => cases q with
          | a => exact absurd rfl ne
          | b => rfl
        | b => cases q with
          | a => rfl
          | b => exact absurd rfl ne
    have started : (transmitPort h p).starting = h.starting := by
      unfold transmitPort
      split
      · rfl
      · cases p <;> rfl
    intro s line
    rw [other] at line ⊢
    exact served (started.symm.trans s) line

theorem consequences_served (h : Hub) :
    (∀ l, (consequences h).lineServed l) ∧ ∀ p, (consequences h).portServed p := by
  unfold consequences
  dsimp only
  generalize grants 32 _ = w
  refine ⟨fun l => ?_, fun p => ?_⟩
  · have served := foldl_establishes (f := transmitNext) (holds := Hub.lineServed) transmitNext_served
      (fun b m l held => ?_) allLinks w l (by revert l; decide)
    · unfold Hub.lineServed at served ⊢
      rw [foldl_transmitPort_links]
      exact served
    · rcases eq_or_ne m l with rfl | ne
      · exact transmitNext_served b m
      · unfold Hub.lineServed
        rw [transmitNext_others b ne]
        exact held
  · exact foldl_establishes (f := transmitPort) (holds := Hub.portServed) transmitPort_served transmitPort_keeps bothPorts
      _ p (by cases p <;> decide)

/-- Settles O54, by the parts of an event's consequences one by one. -/
theorem whatFollowsAtAnEvent : Obligations.WhatFollowsAtAnEvent := by
  refine ⟨fun h => by rw [consequences], ?_, fun h g running active hr ha => ⟨fun may => ?_, releaseGroup_stays hr, fun may =>
    ⟨_, rfl, ?_⟩, fun mayNot => ?_⟩, fun m h => ⟨rfl, grants_stop, fun b l => grants_next⟩, fun h l k hk =>
    ⟨transmitNext_busy hk, fun q rest => transmitNext_control hk, fun line control => ⟨transmitNext_idle hk line control,
      fun b rest x => transmitNext_tile hk line control⟩⟩, fun h p x hx => ⟨transmitPort_waits hx, fun f rest =>
    transmitPort_reply hx, fun f rest => transmitPort_notice hx⟩, ?_, fun h => ?_, fun h still => ?_⟩
  · rintro h n x rfl
    exact ⟨endGathering_ends, endGathering_stays, endCut_ends, endCut_stays, fun l a => showIfReady_shows,
      showIfReady_stays, fun may => if_pos ((mayStart_iff h n rfl).2 may), fun mayNot =>
      if_neg fun may => mayNot ((mayStart_iff h n rfl).1 may)⟩
  · exact if_pos ((mayRelease_iff h g hr).2 may)
  · have starts : mayJointStart h g = true := (mayJointStart_iff h g ha).2 (hr ▸ may)
    rw [startGroup, if_pos starts, jointly, ← ha]
  · exact if_neg fun may => mayNot (hr ▸ (mayJointStart_iff h g ha).1 may)
  · intro h k begins hk hb
    have same (p : Port) : begins p ↔ k.begins p := hb p
    refine ⟨fun idle => ?_, fun p f rest b input first la lb => ?_⟩
    · have stops := beginningPort_none fun p b => idle p ((same p).2 b)
      rw [hk] at stops ⊢
      exact settle_done stops
    · have next := beginningPort_some ((same p).1 b) fun e a => first e ((same .a).2 a)
      have few : waiting k ≤ 8 := Nat.add_le_add la lb
      rw [← handleOldest_frame input]
      rw [hk] at next few ⊢
      exact settle_step next few
  · obtain ⟨lines, ports⟩ := settle_ends (q := fun k => (∀ l, k.lineServed l) ∧ ∀ p, k.portServed p)
      consequences_served h
    exact ⟨lines, ports⟩
  · rw [settle_of_noFrameWaits still]
    exact consequences_kept h

end Sys2Proof.Machine

/-! O5: what a tick counts, and what it makes due. -/

namespace Sys2Proof.Machine

/-! ### Every timed event -/

theorem forall_mem_flatMap_all {α β : Type} {l : List α} {f : α → List β} {q : β → Prop} (all : ∀ a, a ∈ l) :
    (∀ e ∈ l.flatMap f, q e) ↔ ∀ a, ∀ e ∈ f a, q e := by
  refine ⟨fun h a e mem => h e (List.mem_flatMap.2 ⟨a, all a, mem⟩), fun h e mem => ?_⟩
  obtain ⟨a, -, mem⟩ := List.mem_flatMap.1 mem
  exact h a e mem

theorem mem_bothPorts (p : Port) : p ∈ bothPorts := by cases p <;> decide
theorem mem_allLinks (l : Fin 6) : l ∈ allLinks := by revert l; decide
theorem mem_allRows (a : Fin 2) : a ∈ allRows := by revert a; decide

theorem forall_timedEvents_iff {q : TimedEvent → Prop} :
    (∀ e ∈ timedEvents, q e) ↔
      q ⟨startingOver, startingEnds⟩ ∧ (∀ p, ∀ e ∈ portEvents p, q e) ∧ (∀ i, ∀ e ∈ inputEvents i, q e) ∧
        (∀ b, ∀ e ∈ bufferEvents b, q e) ∧ (∀ n, ∀ e ∈ screenEvents n, q e) ∧ (∀ l, ∀ e ∈ linkEvents l, q e) ∧
        (∀ l a, ∀ e ∈ rowEvents l a, q e) ∧ q ⟨Hub.levelDue, levelTick⟩ ∧ q ⟨Hub.conversionDue, startConversions⟩ ∧
        (∀ i, ∀ e ∈ conversionEvents i, q e) ∧ q ⟨Hub.windowDue, clearWindow⟩ := by
  simp only [timedEvents, List.forall_mem_append, List.forall_mem_singleton, forall_mem_flatMap_all mem_bothPorts,
    forall_mem_flatMap_all mem_allInputs, forall_mem_flatMap_all mem_allBuffers, forall_mem_flatMap_all mem_allScreens,
    forall_mem_flatMap_all mem_allLinks, forall_mem_flatMap_all mem_allRows, and_assoc]

/-! ### When an event is not due -/

section
variable {h : Hub} {l : Fin 6} {a : Fin 2}

theorem notDue_iff {b : Bool} {q : Prop} (due : b = true ↔ q) : b = false ↔ ¬q := Bool.eq_false_iff.trans (not_congr due)

theorem holdDue_iff : holdDue h l = true ↔ h.links[l].state = .training .hold ∧ h.links[l].hold = some 0 := by
  rw [holdDue, Bool.and_eq_true, beq_iff_eq, Timer.due_iff]

theorem retryDue_iff : retryDue h l = true ↔ h.links[l].state = .down ∧ h.links[l].retry = some 0 := by
  rw [retryDue, Bool.and_eq_true, beq_iff_eq, Timer.due_iff]

theorem warmDue_iff : warmDue h l = true ↔ h.links[l].state = .waking ∧ h.links[l].warm = some 0 := by
  rw [warmDue, Bool.and_eq_true, beq_iff_eq, Timer.due_iff]

theorem rollDue_iff : rollDue h l = true ↔ h.links[l].state = .rolling ∧ h.links[l].rollWait = some 0 := by
  rw [rollDue, Bool.and_eq_true, beq_iff_eq, Timer.due_iff]

theorem attemptDue_iff :
    attemptDue h l = true ↔ (∃ r, h.links[l].state = .training (.attempt r)) ∧ h.links[l].attempt = some 0 := by
  rw [attemptDue, Bool.and_eq_true, Timer.due_iff, Option.isSome_iff_exists]
  simp only [attemptRate_iff]

theorem showTimerDue_iff {n : Fin 8} :
    showTimerDue h n = true ↔
      h.screens[n].engine.cycle = some .presenting ∧ h.screens[n].engine.showTimer = some 0 := by
  rw [showTimerDue, Bool.and_eq_true, beq_iff_eq, Timer.due_iff]

theorem replyTimerDue_iff {b : Fin 32} :
    replyTimerDue h b = true ↔ ∃ x, h.buffers[b] = some x ∧ x.phase = .sent ∧ x.replyTimer = some 0 := by
  rw [replyTimerDue]
  rcases h.buffers[b] with _ | x
  · simp
  · simp only [Bool.and_eq_true, beq_iff_eq, Timer.due_iff, Option.some.injEq, exists_eq_left']

/-- R113, R118: no timer of the link ends. -/
theorem linkEvents_notDue :
    (∀ e ∈ linkEvents l, e.due h = false) ↔
      (h.links[l].state = .training .hold → h.links[l].hold ≠ some 0) ∧
      (∀ r, h.links[l].state = .training (.attempt r) → h.links[l].attempt ≠ some 0) ∧
      (h.links[l].state = .down → h.links[l].retry ≠ some 0) ∧
      (h.links[l].state = .waking → h.links[l].warm ≠ some 0) ∧
      (h.links[l].state = .rolling → h.links[l].rollWait ≠ some 0) := by
  simp only [linkEvents, List.forall_mem_cons, List.not_mem_nil, notDue_iff holdDue_iff,
    notDue_iff attemptDue_iff, notDue_iff retryDue_iff, notDue_iff warmDue_iff, notDue_iff rollDue_iff, not_and,
    forall_exists_index, ne_eq, false_implies, implies_true, and_true]

/-- R119, R120: no timer of the row ends. -/
theorem rowEvents_notDue :
    (∀ e ∈ rowEvents l a, e.due h = false) ↔
      h.links[l].rows[a].silence ≠ some 0 ∧ h.links[l].rows[a].pollWait ≠ some 0 ∧
        h.links[l].rows[a].lostPoll ≠ some 0 := by
  have silence : silenceDue h l a = false ↔ ¬h.links[l].rows[a].silence = some 0 := notDue_iff Timer.due_iff
  have pollWait : pollWaitDue h l a = false ↔ ¬h.links[l].rows[a].pollWait = some 0 := notDue_iff Timer.due_iff
  have lostPoll : lostPollDue h l a = false ↔ ¬h.links[l].rows[a].lostPoll = some 0 := notDue_iff Timer.due_iff
  simp only [rowEvents, List.forall_mem_cons, List.not_mem_nil, silence, pollWait, lostPoll, ne_eq, false_implies,
    implies_true, and_true]

theorem nothingOverdue_iff : nothingOverdue h = true ↔ ∀ e ∈ timedEvents, e.due h = false := by
  simp only [nothingOverdue, List.all_eq_true, Bool.not_eq_true']

/-- R63, log 3: what is not due, timer by timer. -/
theorem timedEvents_notDue :
    (∀ e ∈ timedEvents, e.due h = false) ↔
      ¬(h.starting = true ∧ 20 ≤ h.ticks) ∧ h.levelDue = false ∧ h.conversionDue = false ∧ h.windowDue = false ∧
        (∀ p : Port, (h.port p).gap ≠ some 0) ∧
        (∀ i : Fin 2, h.captures[i].state = .waiting ∨ h.captures[i].state = .filling → h.captures[i].silence ≠ some 0) ∧
        (∀ i : Fin 2, h.lights[i].conversion ≠ some 0) ∧
        (∀ (b : Fin 32) (x : Lend), h.buffers[b] = some x → x.phase = .sent → x.replyTimer ≠ some 0) ∧
        (∀ n : Fin 8, h.screens[n].engine.cycle = some .presenting → h.screens[n].engine.showTimer ≠ some 0) ∧
        (∀ l, ∀ e ∈ linkEvents l, e.due h = false) ∧ ∀ l a, ∀ e ∈ rowEvents l a, e.due h = false := by
  have gap (p : Port) : gapDue h p = false ↔ ¬(h.port p).gap = some 0 := notDue_iff Timer.due_iff
  have conversion (i : Fin 2) : conversionEnds h i = false ↔ ¬h.lights[i].conversion = some 0 := notDue_iff Timer.due_iff
  simp only [forall_timedEvents_iff, portEvents, inputEvents, bufferEvents, screenEvents, conversionEvents,
    List.forall_mem_singleton, notDue_iff startingOver_iff, gap, notDue_iff inputSilenceDue_iff,
    notDue_iff replyTimerDue_iff, notDue_iff showTimerDue_iff, conversion, not_exists, not_and, ne_eq]
  tauto

end

/-! ### One tick (R63) -/

theorem takeOverdue_idle {h : Hub} (idle : nothingOverdue h = true) : takeOverdue h = h := by
  have stays (events : List TimedEvent) (none : ∀ e ∈ events, e.due h = false) : events.foldl takeDue h = h := by
    induction events with
    | nil => rfl
    | cons e events ih =>
      have first : takeDue h e = h := if_neg (Bool.eq_false_iff.1 (none e List.mem_cons_self))
      rw [List.foldl_cons, first]
      exact ih fun e mem => none e (List.mem_cons_of_mem _ mem)
  exact stays timedEvents (nothingOverdue_iff.1 idle)

theorem tick_arrives (s : State) : Completes .timeBaseTick s (tickArrives s.hub) :=
  complete_completes (f := tickArrives) rfl rfl

theorem tick_completes (s : State) : Completes .timeBaseTick s (countTick (timedEvents.foldl takeDue s.hub)) := by
  have ticks := tick_arrives s
  rw [tickArrives, takeOverdue] at ticks
  exact ticks

theorem tick_idle {s : State} (idle : nothingOverdue s.hub = true) : Completes .timeBaseTick s (countTick s.hub) := by
  have ticks := tick_completes s
  have same : timedEvents.foldl takeDue s.hub = s.hub := takeOverdue_idle idle
  rw [same] at ticks
  exact ticks

section
variable {h : Hub}

theorem countTick_screen (n : Fin 8) : (countTick h).screens[n] = h.screens[n].tick := Vector.getElem_map ..
theorem countTick_group (g : Fin 4) : (countTick h).groups[g] = h.groups[g].tick := Vector.getElem_map ..
theorem countTick_capture (i : Fin 2) : (countTick h).captures[i] = h.captures[i].tick := Vector.getElem_map ..
theorem countTick_light (i : Fin 2) : (countTick h).lights[i] = h.lights[i].tick := Vector.getElem_map ..
theorem countTick_buffer (b : Fin 32) : (countTick h).buffers[b] = h.buffers[b].map Lend.tick := Vector.getElem_map ..
theorem countTick_link (l : Fin 6) : (countTick h).links[l] = h.links[l].tick := Vector.getElem_map ..
theorem countTick_port (p : Port) : (countTick h).port p = (h.port p).tick := by cases p <;> rfl

end

/-! ### Each timed event is a command's (log 1) -/

section
variable {s : State} {l : Fin 6} {a : Fin 2}

/-- R63, log 4: the effect of the event is that of a command, which for a conversion end takes a free value. -/
def IsCommand (s : State) (e : TimedEvent) : Prop :=
  ∃ c k, Completes c { s with hub := k } (e.fire s.hub) ∧
    (k = s.hub ∨ k = { s.hub with free := s.hub.free + 1 } ∧ ∃ i, c = .conversionEnd i (Config.lightSample s.hub.free))

theorem isCommand_of {c : Instr} {f : Hub → Hub} {due : Hub → Bool} (meaning : exec c s = complete f s) :
    IsCommand s ⟨due, f⟩ := ⟨c, s.hub, complete_completes meaning rfl, .inl rfl⟩

theorem timedEvent_isCommand : ∀ e ∈ timedEvents, IsCommand s e := by
  refine mem_timedEvents (isCommand_of (c := .startingEnd) rfl) (fun p => isCommand_of (c := .gapTimerExpiry p) rfl)
    (fun i => isCommand_of (c := .silenceTimerExpiry i) rfl) (fun b => isCommand_of (c := .replyTimerExpiry b) rfl)
    (fun n => isCommand_of (c := .showTimerExpiry n) rfl) (fun l e mem => ?_) (fun l a e mem => ?_)
    (isCommand_of (c := .levelTick) rfl) (isCommand_of (c := .conversionStart) rfl) (fun i => ?_)
    (isCommand_of (c := .checkWindowClear) rfl)
  · simp only [linkEvents, List.mem_cons, List.not_mem_nil, or_false] at mem
    rcases mem with rfl | rfl | rfl | rfl | rfl
    · exact isCommand_of (c := .holdTimerExpiry l) rfl
    · exact isCommand_of (c := .attemptTimerExpiry l) rfl
    · exact isCommand_of (c := .retryTimerExpiry l) rfl
    · exact isCommand_of (c := .warmUpTimerExpiry l) rfl
    · exact isCommand_of (c := .rollWaitExpiry l) rfl
  · simp only [rowEvents, List.mem_cons, List.not_mem_nil, or_false] at mem
    rcases mem with rfl | rfl | rfl
    · exact isCommand_of (c := .silenceTimerExpiryLink l a) rfl
    · exact isCommand_of (c := .pollWaitExpiry l a) rfl
    · exact isCommand_of (c := .lostPollTimerExpiry l a) rfl
  · exact ⟨.conversionEnd i (Config.lightSample s.hub.free), { s.hub with free := s.hub.free + 1 },
      complete_completes (f := endConversion i (Config.lightSample s.hub.free)) rfl rfl, .inr ⟨rfl, i, rfl⟩⟩

/-! ### What is not due changes nothing (log 1) -/

/-- An expiry that is guarded by its due test. -/
theorem expiry_idle {c : Instr} {f : Hub → Hub} (meaning : exec c s = complete f s) (idle : f s.hub = s.hub) :
    Completes c s s.hub := complete_completes meaning idle

theorem gapExpire_idle {p : Port} {h : Hub} (idle : (h.port p).gap ≠ some 0 ∨ (h.port p).receiver = .hunting) :
    gapExpire p h = h := by
  unfold gapExpire
  split
  · rfl
  · next hunting =>
    refine if_neg fun due => ?_
    rcases idle with early | out
    · exact early (Timer.due_iff.1 due)
    · cases hunting.symm.trans out

theorem inputSilenceExpire_idle {i : Fin 2} {h : Hub}
    (idle : h.captures[i].silence ≠ some 0 ∨ h.captures[i].state = .off ∨ h.captures[i].state = .silent) :
    inputSilenceExpire i h = h := by
  refine if_neg fun due => ?_
  obtain ⟨state, silence⟩ := inputSilenceDue_iff.1 due
  rcases idle with early | off | silent
  · exact early silence
  · rw [off] at state
    exact absurd state (by decide)
  · rw [silent] at state
    exact absurd state (by decide)

end

/-- Settles O5: a tick maps every timer and count; the events it makes due are guarded by their own tests. -/
theorem tickCounts : Obligations.TickCounts := by
  refine ⟨fun s idle => ⟨tick_idle idle, rfl, _, rfl, rfl, ?_⟩, fun h => ⟨beq_iff_eq, beq_iff_eq, beq_iff_eq⟩,
    fun s => tick_completes s, fun h => ?_, fun h => nothingOverdue_iff, fun s e mem _ => timedEvent_isCommand e mem, ?_⟩
  · refine ⟨?_, ?_, fun i => ⟨countTick_capture i, countTick_light i⟩, fun b => ?_, ?_, countTick_port⟩
    · rintro n x rfl
      exact countTick_screen n
    · rintro g x rfl
      exact countTick_group g
    · rw [countTick_buffer]
      cases s.hub.buffers[b] <;> rfl
    · rintro l x rfl
      exact countTick_link l
  · rw [nothingOverdue_iff, timedEvents_notDue]
    simp only [linkEvents_notDue, rowEvents_notDue]
    refine and_congr_right fun _ => and_congr_right fun _ => and_congr_right fun _ => and_congr_right fun _ =>
      and_congr_right fun _ => and_congr_right fun _ => and_congr_right fun _ => and_congr_right fun _ =>
      and_congr_right fun _ => ⟨?_, fun links => ⟨fun l => ?_, fun l a => ?_⟩⟩
    · rintro ⟨links, rows⟩ l k rfl
      obtain ⟨hold, attempt, retry, warm, roll⟩ := links l
      exact ⟨hold, attempt, retry, warm, roll, rows l⟩
    · obtain ⟨hold, attempt, retry, warm, roll, -⟩ := links l _ rfl
      exact ⟨hold, attempt, retry, warm, roll⟩
    · obtain ⟨-, -, -, -, -, rows⟩ := links l _ rfl
      exact rows a
  · rintro s h rfl
    refine ⟨fun early => expiry_idle (f := startConversions) rfl (if_neg (Bool.eq_false_iff.1 early)),
      fun early => expiry_idle (f := clearWindow) rfl (if_neg (Bool.eq_false_iff.1 early)),
      fun p idle => expiry_idle (f := gapExpire p) rfl (gapExpire_idle idle),
      fun i idle => expiry_idle (f := inputSilenceExpire i) rfl (inputSilenceExpire_idle idle),
      fun i r early => expiry_idle (f := endConversion i r) rfl (if_neg fun due => early (Timer.due_iff.1 due)),
      fun b idle => expiry_idle (f := replyTimerExpire b) rfl (if_neg fun due => ?_),
      fun n idle => expiry_idle (f := showTimerExpire n) rfl (if_neg fun due => ?_), ?_⟩
    · obtain ⟨x, lent, sent, timer⟩ := replyTimerDue_iff.1 due
      exact (idle x lent).elim (fun other => other sent) fun early => early timer
    · obtain ⟨presenting, timer⟩ := showTimerDue_iff.1 due
      exact idle.elim (fun other => other presenting) fun early => early timer
    · rintro l k rfl
      refine ⟨fun idle => expiry_idle (f := holdExpire l) rfl (if_neg fun due => ?_),
        fun idle => expiry_idle (f := attemptExpire l) rfl (if_neg fun due => ?_),
        fun idle => expiry_idle (f := retryExpire l) rfl (if_neg fun due => ?_),
        fun idle => expiry_idle (f := warmExpire l) rfl (if_neg fun due => ?_),
        fun idle => expiry_idle (f := rollExpire l) rfl (if_neg fun due => ?_), fun a =>
        ⟨fun early => expiry_idle (f := silenceLinkExpire l a) rfl (if_neg fun due => early (Timer.due_iff.1 due)),
          fun early => expiry_idle (f := pollWaitExpire l a) rfl (if_neg fun due => early (Timer.due_iff.1 due)),
          fun early => expiry_idle (f := lostPollExpire l a) rfl (if_neg fun due => early (Timer.due_iff.1 due))⟩⟩
      · obtain ⟨state, timer⟩ := holdDue_iff.1 due
        exact idle.elim (fun other => other state) fun early => early timer
      · obtain ⟨⟨r, state⟩, timer⟩ := attemptDue_iff.1 due
        exact idle.elim (fun other => other r state) fun early => early timer
      · obtain ⟨state, timer⟩ := retryDue_iff.1 due
        exact idle.elim (fun other => other state) fun early => early timer
      · obtain ⟨state, timer⟩ := warmDue_iff.1 due
        exact idle.elim (fun other => other state) fun early => early timer
      · obtain ⟨state, timer⟩ := rollDue_iff.1 due
        exact idle.elim (fun other => other state) fun early => early timer

end Sys2Proof.Machine
